-- ==== Sys2Proof/Word.lean ====
section
/-! DEFINITION. The word types of the device and their plainest arithmetic. -/

namespace Sys2Proof

/-- One byte of any memory. -/
abbrev Byte := BitVec 8
/-- One BAR0 register word (R11). -/
abbrev Word32 := BitVec 32
/-- One 64-bit register, scalar register or page-table entry. -/
abbrev Word64 := BitVec 64
/-- A device address (R27). -/
abbrev DevAddr := BitVec 48
/-- A logical engine number E0 to E95 (R5). -/
abbrev EngId := Fin 96
/-- A context number (R315). -/
abbrev CtxId := Fin 64
/-- A slip number S0 to S15 (R5). -/
abbrev SlipId := Fin 16
/-- An HBM stack number H0 to H11 (R5). -/
abbrev StackId := Fin 12
/-- The bits [55:0] of a first instruction word: the guard and the operand fields under the opcode (Table 3-3). -/
abbrev Fields := BitVec 56

/-- How a BAR0 access of a 64-bit register is made (R11): its low word, its high word, or both as one access. -/
inductive Acc where
  | low
  | high
  | both
  deriving DecidableEq, Repr

/-- The data of a write that a host makes, and whether the write marks them poisoned (R441). -/
structure HostData (α : Type) where
  /-- What is written. -/
  data : α
  /-- The data are poisoned. -/
  poison : Bool
  deriving DecidableEq, Repr

end Sys2Proof
end

