-- ==== Sys2Proof/Machine/SMap.lean ====
section
/-! DEFINITION. Sparse data by key: a list of (key, value) pairs in one canonical form, keys strictly rising and no
entry equal to what an unlisted key reads as. Every memory, register file and arrayed unit of State is one. -/

namespace Sys2Proof

/-- Sparse data by key. What an unlisted key reads as is a function of the key, given to each operation. -/
abbrev SMap (α : Type) := List (Nat × α)

namespace SMap

variable {α : Type} [DecidableEq α]

/-- The value at a key. -/
def get (d : Nat → α) (m : SMap α) (k : Nat) : α :=
  match m with
  | [] => d k
  | (k', v) :: t => if k' = k then v else get d t k

/-- Puts an entry at its place in the order of keys. -/
def put (m : SMap α) (k : Nat) (v : α) : SMap α :=
  match m with
  | [] => [(k, v)]
  | (k', v') :: t =>
    if k < k' then (k, v) :: (k', v') :: t
    else if k = k' then (k, v) :: t
    else (k', v') :: put t k v

/-- Writes a value at a key; writing what an unlisted key reads as removes the entry. -/
def set (d : Nat → α) (m : SMap α) (k : Nat) (v : α) : SMap α :=
  if v = d k then m.filter (fun p => p.1 != k) else put m k v

/-- The canonical form. -/
def wf (d : Nat → α) : SMap α → Bool
  | [] => true
  | (k, v) :: t => decide (v ≠ d k) && t.all (fun p => decide (k < p.1)) && wf d t

end SMap

/-- What an unlisted byte reads as where the specification zero-fills. -/
def zeroByte : Nat → Byte := fun _ => 0#8

/-- A sparse byte memory whose unlisted bytes are zero. -/
abbrev ByteMap := SMap Byte

namespace ByteMap

/-- One byte. -/
def rd (m : ByteMap) (a : Nat) : Byte := SMap.get zeroByte m a

/-- Writes one byte. -/
def wr (m : ByteMap) (a : Nat) (b : Byte) : ByteMap := SMap.set zeroByte m a b

/-- `n` bytes from `a` upward. -/
def rdN (m : ByteMap) (a n : Nat) : List Byte := (List.range n).map fun i => m.rd (a + i)

/-- Writes a list of bytes from `a` upward. -/
def wrN (m : ByteMap) (a : Nat) : List Byte → ByteMap
  | [] => m
  | b :: t => wrN (m.wr a b) (a + 1) t

/-- Canonical form of a byte memory. -/
abbrev wf (m : ByteMap) : Bool := SMap.wf zeroByte m

end ByteMap

/-- The little-endian number of a list of bytes (R8). -/
def leNat : List Byte → Nat
  | [] => 0
  | b :: t => b.toNat + 256 * leNat t

/-- The `n` little-endian bytes of a number (R8). -/
def leBytes : Nat → Nat → List Byte
  | 0, _ => []
  | n + 1, x => BitVec.ofNat 8 x :: leBytes n (x / 256)

/-- The bits [hi:lo] of a number. -/
def bits (x hi lo : Nat) : Nat := (x >>> lo) % 2 ^ (hi + 1 - lo)

/-- Bit `i` of a number. -/
def bit (x i : Nat) : Bool := x.testBit i

/-- `x` with the bits [hi:lo] replaced by `v`. -/
def putBits (x hi lo v : Nat) : Nat :=
  let w := hi + 1 - lo
  x - (bits x hi lo <<< lo) + ((v % 2 ^ w) <<< lo)

/-- The signed value of the low `w` bits of a number. -/
def sext (w x : Nat) : Int :=
  let y := x % 2 ^ w
  if 2 ^ (w - 1) ≤ y then (y : Int) - 2 ^ w else y

/-- Residue of an integer as a natural number, for a positive modulus. -/
def imod (x : Int) (m : Nat) : Nat := (x % (m : Int)).toNat

end Sys2Proof
end

