-- ==== Sys2Proof/Syntax.lean ====
section
/-! DEFINITION. The commands the block takes: the ONE inductive Instr, a constructor per row of the opcode table.
Operands are what the row's rules name: an engine and the operand fields of its instruction word, a register and a value,
the subject of an event. -/

namespace Sys2Proof

/-- One command of the block: one constructor per row of the opcode table, those without operands last. -/
inductive Instr where
  /-- NOP: A NOP takes one issue cycle in the sequencer and has no effect (R76). Its row also holds the trap of an unassigned opcode (R74), so
  it carries the whole first word, OP included -/
  | nop (e : EngId) (w : Word64)
  /-- SIG: A SIG enters its queue and adds VAL to its semaphore once every earlier instruction of that queue has completed (R88) -/
  | sig (e : EngId) (q : Fin 4) (f : Fields)
  /-- WAIT: A WAIT at the head of its queue holds the queue until the semaphore reaches VAL, then subtracts VAL (R89) -/
  | wait (e : EngId) (q : Fin 4) (f : Fields)
  /-- DONE: DONE stops issue; it completes when all queues and both Skidder queues are idle and reports the end of the engine's part of the work item (R82) -/
  | done (e : EngId) (f : Fields)
  /-- BR: BR sets the PC to the branch address plus 8 times OFF (R81) -/
  | br (e : EngId) (f : Fields)
  /-- JAL: JAL writes the return address to s[D] and branches (R81) -/
  | jal (e : EngId) (f : Fields)
  /-- JR: JR branches to the address in s[A] with bits [2:0] cleared (R81) -/
  | jr (e : EngId) (f : Fields)
  /-- LOOP: LOOP decrements s[A] and branches while it is not zero (R81) -/
  | loop (e : EngId) (f : Fields)
  /-- ALU: ALU computes s[D] from two scalar registers by the function code (R77) -/
  | alu (e : EngId) (f : Fields)
  /-- ALUI: ALUI computes s[D] from a scalar register and a sign-extended immediate (R77) -/
  | alui (e : EngId) (f : Fields)
  /-- CMP: CMP writes a predicate from the compare of two scalar registers (R78) -/
  | cmp (e : EngId) (f : Fields)
  /-- CMPI: CMPI writes a predicate from the compare of a scalar register with an immediate (R78) -/
  | cmpi (e : EngId) (f : Fields)
  /-- PLOG: PLOG writes a predicate from a logical operation on two predicates (R78) -/
  | plog (e : EngId) (f : Fields)
  /-- ADDA: ADDA forms a device address modulo 2^48 in an a register (R79) -/
  | adda (e : EngId) (f : Fields)
  /-- LDS: LDS reads 64 bits of tile memory into a scalar register (R79) -/
  | lds (e : EngId) (f : Fields)
  /-- STS: STS writes a scalar register to 64 bits of tile memory (R79) -/
  | sts (e : EngId) (f : Fields)
  /-- SGET: SGET writes s[D] from the source that SEL names (R80) -/
  | sget (e : EngId) (f : Fields)
  /-- FLGCLR: FLGCLR clears the sticky flags selected by MASK (R79) -/
  | flgclr (e : EngId) (f : Fields)
  /-- TSET: TSET writes a region descriptor from a scalar register (R79) -/
  | tset (e : EngId) (f : Fields)
  /-- TGET: TGET reads a region descriptor into a scalar register (R79) -/
  | tget (e : EngId) (f : Fields)
  /-- BLOAD: BLOAD copies a 256-byte loop descriptor image from tile memory into a Bucking slot (R164) -/
  | bload (e : EngId) (f : Fields)
  /-- BEXT: BEXT writes the low 24 bits of s[A] to the extent of one level of a Bucking slot (R166) -/
  | bext (e : EngId) (f : Fields)
  /-- LI64: LI64 writes a 64-bit immediate to s[D] (R76) -/
  | li64 (e : EngId) (f : Fields) (w2 : Word64)
  /-- PREEMPT: A PREEMPT with a true guard continues when no request is pending, otherwise stops issue at a pre-emption point (R96) -/
  | preempt (e : EngId) (f : Fields) (w2 : Word64)
  /-- PREEMPT_STOP: Once the queues and Skidder queues of a stopping engine are empty, the engine reports its stop and point ID to the hub (R96) -/
  | preemptStop (e : EngId)
  /-- TBLLOAD: TBLLOAD writes lines of the inactive table-store bank, or is dropped with TBL_BUSY and a table-bank violation when it targets the active bank (R212) -/
  | tblload (e : EngId) (f : Fields) (w2 : Word64)
  /-- TBLSWAP: TBLSWAP holds admission of table-reading rows, waits until none remains in its unit, and switches the active bank (R213) -/
  | tblswap (e : EngId) (f : Fields)
  /-- TLY_READ: TLY with SUB read writes an engine or software tally to s[D] (R133) -/
  | tlyRead (e : EngId) (f : Fields)
  /-- TLY_MARK: TLY with SUB mark sends a (SEL, VAL) pair to the context's deadline monitor (R133) -/
  | tlyMark (e : EngId) (f : Fields)
  /-- TLY_ADD: TLY with SUB add adds VAL modulo 2^32 to a software tally (R133) -/
  | tlyAdd (e : EngId) (f : Fields)
  /-- RSIG: RSIG enters the spill queue as a descriptor that will add VAL to a semaphore of another rank (R90) -/
  | rsig (e : EngId) (f : Fields)
  /-- RSIG_DELIVERY: After every earlier spill descriptor has completed, the RSIG is added at the target rank's semaphore, or raises a memory fault for a bad rank (R90) -/
  | rsigDelivery (e : EngId)
  /-- FILL: FILL moves bytes from a device address into this engine's tile memory through the fill queue (R122) -/
  | fill (e : EngId) (f : Fields) (w2 : Word64)
  /-- SPILL: SPILL moves bytes from tile memory to a device address through the spill queue (R122) -/
  | spill (e : EngId) (f : Fields) (w2 : Word64)
  /-- COPY: COPY moves bytes between two device addresses through the spill queue (R122) -/
  | copy (e : EngId) (f : Fields) (w2 : Word64)
  /-- PREF: PREF brings HBM lines into the Landing of the issuing die as a hint that never traps (R125) -/
  | pref (e : EngId) (f : Fields) (w2 : Word64)
  /-- ADDW: ADDW sends posted add-writes of tile elements to the memory-side adders (R124) -/
  | addw (e : EngId) (f : Fields) (w2 : Word64)
  /-- ATOM: ATOM applies one element operation at the adders and writes the old value back to the operand's tile address (R124) -/
  | atom (e : EngId) (f : Fields) (w2 : Word64)
  /-- WINFILL: WINFILL builds convolution window rows in tile memory from a source map under a window descriptor (R187) -/
  | winfill (e : EngId) (f : Fields) (w2 : Word64)
  /-- SKIDDER_DESCRIPTOR_START: A Skidder descriptor starts in entry order when it reaches its queue position and port limits allow (R56) -/
  | skidderDescriptorStart (e : EngId) (fill : Bool)
  /-- SKIDDER_TRANSFER_COMPLETE: When a transfer has wholly completed, the Skidder adds its increment to the named semaphore in entry order, or raises a trap on error (R58) -/
  | skidderTransferComplete (e : EngId) (fill : Bool) (k : Fin 32)
  /-- KVWALK: KVWALK enters the fill queue to walk a page table in the KV walker (R227) -/
  | kvwalk (e : EngId) (f : Fields) (w2 : Word64)
  /-- KV_WALK_START: When no deferred edit is pending on its range, the walk pins its entries and reads and checks them in the first pass (R227) -/
  | kvWalkStart (e : EngId)
  /-- KV_WALK_COMPLETE: After placing pages and padding, the walk writes its status word, unpins, adds INC and raises KV page absent if ABSENT (R227) -/
  | kvWalkComplete (e : EngId)
  /-- KVMAP: KVMAP writes a 64-bit page-table entry, or is deferred while a walk pins the entry (R127) -/
  | kvmap (e : EngId) (f : Fields) (w2 : Word64)
  /-- XCH: XCH enters the spill queue to exchange blocks among the members of a group (R128) -/
  | xch (e : EngId) (f : Fields) (w2 : Word64)
  /-- XRED_ALL_REDUCE: XRED with XM all-reduce gives every destination the reduction of all sources (R128) -/
  | xredAllReduce (e : EngId) (f : Fields) (w2 : Word64)
  /-- XRED_REDUCE_SCATTER: XRED with XM reduce-scatter gives each member the reduction of its block of every source (R128) -/
  | xredReduceScatter (e : EngId) (f : Fields) (w2 : Word64)
  /-- XGATHER: XGATHER sends the source block to block r of every member's destination (R128) -/
  | xgather (e : EngId) (f : Fields) (w2 : Word64)
  /-- MMA_LOAD: An MMA load fills the shadow copy of the stationary operand and records its formats (R107) -/
  | mmaLoad (e : EngId) (f : Fields) (w2 : Word64)
  /-- MMA_COMPUTE: An MMA compute swaps in the shadow copy when loaded and folds streamed rows into an accumulator tile, running its nest when BUCK is 1 (R108) -/
  | mmaCompute (e : EngId) (f : Fields) (w2 : Word64)
  /-- DRAIN: DRAIN passes accumulator rows through the output converter, fused stage and narrowing into tile memory (R113) -/
  | drain (e : EngId) (f : Fields) (w2 : Word64)
  /-- WGPUSH: WGPUSH appends the following MMA or DRAIN to the deferred weight-gradient queue, running the head entry first when the queue is full (R130) -/
  | wgpush (e : EngId) (f : Fields) (w2 : Word64) (n1 : Word64) (n2 : Word64)
  /-- WGDRAIN: WGDRAIN runs deferred entries from the head in push order in queue 2 (R131) -/
  | wgdrain (e : EngId) (f : Fields)
  /-- CVT: CVT converts rows of tile memory between stored formats with carry control (R116) -/
  | cvt (e : EngId) (f : Fields) (w2 : Word64)
  /-- VADD: VADD writes A + B per lane (R117) -/
  | vadd (e : EngId) (f : Fields)
  /-- VSUB: VSUB writes A - B per lane (R117) -/
  | vsub (e : EngId) (f : Fields)
  /-- VMUL: VMUL writes A times B per lane (R117) -/
  | vmul (e : EngId) (f : Fields)
  /-- VMIN: VMIN writes the IEEE minimumNumber of A and B per lane (R117) -/
  | vmin (e : EngId) (f : Fields)
  /-- VMAX: VMAX writes the IEEE maximumNumber of A and B per lane (R117) -/
  | vmax (e : EngId) (f : Fields)
  /-- VMOV: VMOV writes A converted to the destination (R117) -/
  | vmov (e : EngId) (f : Fields)
  /-- VABS: VABS writes the magnitude of A (R117) -/
  | vabs (e : EngId) (f : Fields)
  /-- VNEG: VNEG writes the negation of A (R117) -/
  | vneg (e : EngId) (f : Fields)
  /-- VCLAMP: VCLAMP clamps A to the range plus or minus the magnitude of B (R117) -/
  | vclamp (e : EngId) (f : Fields)
  /-- VTANH: VTANH writes the native hyperbolic tangent of A (R204) -/
  | vtanh (e : EngId) (f : Fields)
  /-- VLOGI: VLOGI writes the native logistic function of A (R204) -/
  | vlogi (e : EngId) (f : Fields)
  /-- VFMA: VFMA writes A times B plus C with one rounding (R117) -/
  | vfma (e : EngId) (f : Fields) (w2 : Word64)
  /-- VFUSE: VFUSE applies the fused bias, activation and scaling stage to A (R214) -/
  | vfuse (e : EngId) (f : Fields) (w2 : Word64)
  /-- VROT: VROT applies the three-axis rotary code to rows of Q (R233) -/
  | vrot (e : EngId) (f : Fields) (w2 : Word64)
  /-- STEPRUN: STEPRUN runs a micro-program of the active table-store bank on every lane of each row (R209) -/
  | steprun (e : EngId) (f : Fields) (w2 : Word64)
  /-- RSTAT: RSTAT writes the RMS, layer or group statistics of each row (R216) -/
  | rstat (e : EngId) (f : Fields) (w2 : Word64)
  /-- SMAX: SMAX runs the online soft maximum over each row and writes the normalised row (R219) -/
  | smax (e : EngId) (f : Fields) (w2 : Word64)
  /-- ENG_CTRL_HALT: A host write of ENG_CTRL.HALT stops or resumes issue at the next instruction boundary (R64) -/
  | engCtrlHalt (e : EngId) (v : Bool)
  /-- ENGINE_HALTED: ENG_STATUS.HALTED sets when the four queues of a halting engine are empty (R64) -/
  | engineHalted (e : EngId)
  /-- ENG_SEM_WRITE: A host write of a semaphore register takes effect only while the engine is halted (R67) -/
  | engSemWrite (e : EngId) (i : Fin 32) (v : Word32)
  /-- ENG_DBG_DATA_READ: A read of ENG_DBG_DATA returns tile bytes at ADDR, advances ADDR under AINC and sets UE on a double-bit error (R68) -/
  | engDbgDataRead (e : EngId) (a : Acc)
  /-- ENG_DBG_DATA_WRITE: A write of ENG_DBG_DATA stores bytes at ADDR and advances ADDR under AINC (R68) -/
  | engDbgDataWrite (e : EngId) (a : Acc) (v : Word64)
  /-- HUB_BAR2_BASE_WRITE: A write of HUB_BAR2_BASE moves the window, or sets REJ when BASE exceeds 800 (R35) -/
  | hubBar2BaseWrite (v : Word32)
  /-- BAR2_READ: A host read through BAR2 reaches HBM at the window base, or returns zeros and counts a hole (R33) -/
  | bar2Read (x : BitVec 36) (n : Nat)
  /-- BAR2_WRITE: A host write through BAR2 reaches HBM at the window base, or is dropped and counts a hole (R33) -/
  | bar2Write (x : BitVec 36) (d : HostData (List Byte))
  /-- REGISTER_WRITE: A BAR0 write to a register without behaviour of its own updates its fields, or is ignored under R12 (R11) -/
  | registerWrite (off : BitVec 26) (n : Nat) (d : HostData Word64)
  /-- RC_COUNTER_READ: A read of an RC field returns its value and clears it, keeping a concurrent event (R15) -/
  | rcCounterRead (off : BitVec 26) (n : Nat)
  /-- TLY_COUNTER_READ: A read of TLY_En_s returns and clears the count, using the holding register for 32-bit reads of the high word (R469) -/
  | tlyCounterRead (n : EngId) (k : Fin 12) (a : Acc)
  /-- MONITOR_RELEASE: A write of 1 to SCH_MON_CTLn.RELEASE clears the widening word, WIDE and the charge to USED (R160) -/
  | monitorRelease (n : Fin 256)
  /-- SCH_MON_CTL_WRITE: A write to SCH_MON_CTLn updates MODE, CTX or THR, releasing on a CTX change and clearing the sums, or is ignored for MODE 0b11 (R160) -/
  | schMonCtlWrite (n : Fin 256) (v : Word32)
  /-- HBM_READ: An HBM controller applies a read of a line in arrival order, correcting, poisoning or reporting ECC errors (R259) -/
  | hbmRead (a : DevAddr)
  /-- HBM_WRITE: An HBM controller accepts a write after invalidating Landing copies, merging partial writes in the base die (R260) -/
  | hbmWrite (a : DevAddr) (bytes : List Byte)
  /-- HBM_ADD_WRITE: The base-die adders apply a posted add-write element indivisibly, or drop it on a poisoned line (R262) -/
  | hbmAddWrite (a : DevAddr) (aty : Fin 4) (aop : Fin 3) (v : Word64)
  /-- HBM_ATOMIC: The base-die adders apply an atomic element operation and return the old value (R262) -/
  | hbmAtomic (a : DevAddr) (aty : Fin 4) (aop : Fin 3) (v : Word64)
  /-- SCRUB_LINE: The scrubber reads a line of its stack on its schedule and corrects or poisons it (R273) -/
  | scrubLine (st : StackId) (line : Nat)
  /-- MEM_MAP_WRITE: A write to an interleave map entry is checked and accepted, or refused with MEM_MAPSTAT.REJ (R249) -/
  | memMapWrite (n : Fin 64) (second : Bool) (a : Acc) (v : Word64)
  /-- LANDING_READ: A read of an HBM line looks in its die's Landing partition and is served from it or from HBM under LPOL (R266) -/
  | landingRead (d : Fin 2) (lpol : Fin 3) (a : DevAddr)
  /-- LND_PART_WRITE: A write of LND_PARTd changes partition modes, dropping cached lines or refusing a change that strands an allocation (R268) -/
  | lndPartWrite (d : Fin 2) (v : Word32)
  /-- PARTITION_DROP_DONE: LND_STATd.PBUSY clears when the lines of a partition leaving cache mode have been dropped (R268) -/
  | partitionDropDone (d : Fin 2)
  /-- LND_DALLOC_WRITE: Setting VALID in LND_DALLOCd_k declares a direct allocation, or is refused with REJ (R267) -/
  | lndDallocWrite (d : Fin 2) (k : Fin 16) (a : Acc) (v : Word64)
  /-- FLASH_COMMAND_COMPLETE: A completing flash command writes STAT, advances HEAD in order and signals its semaphore when DONE (R290) -/
  | flashCommandComplete (k : Fin 16)
  /-- FTL_READ_DISTURB_RELOCATE: When a block's read count reaches the threshold, the FTL relocates its valid data in the background (R280) -/
  | ftlReadDisturbRelocate (b : Nat)
  /-- KEY_INSTALL: SEC_KCMD OP install opens an adapter key blob into a slot owned by a context, or refuses with REJ (R294) -/
  | keyInstall (k : Fin 32) (c : CtxId) (blob : DevAddr)
  /-- KEY_ERASE: SEC_KCMD OP erase clears an adapter key slot (R294) -/
  | keyErase (k : Fin 32)
  /-- CODEC_DECODE: A DECODE job decodes one access unit into a free buffer on a unit, concealing damage (R307) -/
  | codecDecode (u : Fin 8)
  /-- CODEC_ENCODE: An ENCODE job codes one source frame into the output buffer (R308) -/
  | codecEncode (u : Fin 8)
  /-- MSEARCH: An MSEARCH job searches motion blocks in raster order and writes a motion field (R312) -/
  | msearch (u : Fin 8)
  /-- CODEC_UNIT_SCHEDULE: A free unit takes the ready job with the earliest frame stamp, switching slots between frames (R309) -/
  | codecUnitSchedule (u : Fin 8)
  /-- FRAME_TIMEOUT: A frame that has run for its FBOUND stops with TIMEOUT and is concealed (R307) -/
  | frameTimeout (u : Fin 8)
  /-- CODEC_JOB_COMPLETE: A completing codec job writes STAT and results, advances HEAD in order and signals its semaphore (R303) -/
  | codecJobComplete (k : Fin 64)
  /-- CTX_OPEN: The OPEN command moves a FREE context to IDLE, or is refused (R315) -/
  | ctxOpen (c : CtxId)
  /-- CTX_PREEMPT: The PREEMPT command sets the pre-emption request of a RUNNING context and moves it to STOPPING (R315) -/
  | ctxPreempt (c : CtxId)
  /-- CTX_RESUME: The RESUME command moves a STOPPED context toward RESTORING once its set is free (R315) -/
  | ctxResume (c : CtxId)
  /-- CTX_TEARDOWN: The TEARDOWN command begins the teardown of a context (R315) -/
  | ctxTeardown (c : CtxId)
  /-- CTX_END: The END command releases an IDLE or TORN context's resources and frees it (R315) -/
  | ctxEnd (c : CtxId)
  /-- CTX_SET_WRITE: A write of SCH_CTXc_SET is accepted in FREE, IDLE and STOPPED, otherwise refused with REJ (R316) -/
  | ctxSetWrite (c : CtxId) (k : Fin 3) (v : Word32)
  /-- WORK_ITEM_COMPLETE: When every engine of the set has completed DONE, the hub writes the results, unbinds the engines and returns the context to IDLE (R319) -/
  | workItemComplete (c : CtxId)
  /-- CONTEXT_SAVE: When every engine has stopped, each rank's live state is written to the save area and the context becomes STOPPED (R321) -/
  | contextSave (c : CtxId)
  /-- CONTEXT_RESTORE: A resume binds the set, zero-fills it and restores each rank, tearing down on a bad record (R324) -/
  | contextRestore (c : CtxId)
  /-- PREEMPT_TIMEOUT: A set not wholly stopped within PTO withdraws the request or tears down under PTOKILL (R323) -/
  | preemptTimeout (c : CtxId)
  /-- TEARDOWN: The hub tears a context down: stops its engines, waits for transfers, releases resources and moves it to TORN (R327) -/
  | teardown (c : CtxId)
  /-- TEARDOWN_STALL: A teardown that has not finished its transfer wait within 10 ms is a device-fatal error (R332) -/
  | teardownStall (c : CtxId)
  /-- ERR_HEAD_WRITE: A host write of ERR_HEAD acknowledges records, or is ignored if it would exceed 64 (R328) -/
  | errHeadWrite (v : Word32)
  /-- FATAL_CONTAINMENT: A device-fatal error stops engines, takes slips down, reports AER and restricts register service (R333) -/
  | fatalContainment (cause : BitVec 8)
  /-- SLIP_DETECT: An enabled slip in DETECT that sees signal on every lane moves to FASTEQ or EQ (R338) -/
  | slipDetect (n : SlipId)
  /-- DETECT_TIMEOUT: A slip still in DETECT after DTO ms becomes FAILED with NOPARTNER (R338) -/
  | detectTimeout (n : SlipId)
  /-- FASTEQ_DONE: Equalisation from saved settings ends, going to CONFIG or to EQ on failure (R338) -/
  | fasteqDone (n : SlipId) (ok : Bool)
  /-- EQ_ATTEMPT_DONE: A full equalisation attempt ends, going to CONFIG, retrying, or FAILED with EQFAIL after three failures (R338) -/
  | eqAttemptDone (n : SlipId) (ok : Bool)
  /-- SLIP_CONFIG: CONFIG exchanges lane order, polarity and identity and brings the slip UP at the widest usable width or FAILED (R339) -/
  | slipConfig (n : SlipId) (mine : BitVec 8) (theirs : BitVec 8) (order : Fin 3) (inv : BitVec 8) (uid : Word64) (pslip : SlipId) (peer : BitVec 24)
  /-- REDETECT_TIMER: A FAILED slip returns to DETECT every REDET seconds (R340) -/
  | redetectTimer (n : SlipId)
  /-- SLIP_RETRAIN: A write of RETRAIN takes a slip down and back to DETECT (R340) -/
  | slipRetrain (n : SlipId)
  /-- SLIP_DISABLE: A write of 0 to FAB_Sn_CTL.EN takes the slip down to DOWN (R358) -/
  | slipDisable (n : SlipId)
  /-- LOSS_OF_SIGNAL: Loss of signal on a lane in use for 1 microsecond takes the slip down (R358) -/
  | lossOfSignal (n : SlipId)
  /-- DATA_FLIT_RECEIVE: A receiver checks a DATA flit's CRC and sequence, accepting it in order or sending NAK (R344) -/
  | dataFlitReceive (n : SlipId) (bytes : List Byte)
  /-- IDLE_FLIT_RECEIVE: A received IDLE flit delivers its acknowledgements and credits (R341) -/
  | idleFlitReceive (n : SlipId) (bytes : List Byte)
  /-- NAK: A received NAK makes the transmitter resend from the expected SEQ, taking the slip down at the retry limit (R344) -/
  | nak (n : SlipId) (bytes : List Byte)
  /-- CUT: A received CUT flit discards the partial message of its channel and is forwarded (R358) -/
  | cut (n : SlipId) (bytes : List Byte)
  /-- LPREQ: A received LPREQ leads the slip to answer LPACK and enter LP (R360) -/
  | lpreq (n : SlipId) (bytes : List Byte)
  /-- LPACK: A received LPACK completes the slip's entry to LP (R360) -/
  | lpack (n : SlipId) (bytes : List Byte)
  /-- LP_EXIT: A DATA-bearing exit from either end returns an LP slip to UP and may be a wake event in P2 (R360) -/
  | lpExit (n : SlipId) (partner : Bool)
  /-- REMOTE_REQUEST_TIMEOUT: A remote request without response within FAB_TMO completes with error (R359) -/
  | remoteRequestTimeout (tag : BitVec 16)
  /-- FAB_SR_MSG_GO: A write of FAB_SR_MSG with GO sends a source-routed message from device memory (R357) -/
  | fabSrMsgGo (d : Fin 2) (a : DevAddr)
  /-- WAKE_PATTERN_SEND: A write of FAB_Sn_CTL.WAKE sends eight wake bursts on a slip that is not UP (R361) -/
  | wakePatternSend (n : SlipId)
  /-- COLLECTIVE_STEP_START: A collective step starts on its engine, reads the member list and sends READY, or fails UNUSABLE (R373) -/
  | collectiveStepStart (e : EngId)
  /-- COLLECTIVE_STEP_COMPLETE: A step whose destination holds final values and whose messages are acknowledged adds INC and counts COL_DONE (R374) -/
  | collectiveStepComplete (d : Fin 2) (k : Fin 128)
  /-- COLLECTIVE_STEP_TIMEOUT: A step not complete at its TMO fails with TIMEOUT and records MISSR (R376) -/
  | collectiveStepTimeout (d : Fin 2) (k : Fin 128)
  /-- COL_GROUP_CFG_WRITE: A write of COL_Gg_CFG changes validity, epoch or rank of a group entry, or is refused under R382 (R381) -/
  | colGroupCfgWrite (g : Fin 256) (a : Acc) (v : Word64)
  /-- COL_GROUP_MEM_WRITE: A write of COL_Gg_MEM sets the member list of an invalid entry, or is refused (R382) -/
  | colGroupMemWrite (g : Fin 256) (a : Acc) (v : Word64)
  /-- COL_ACTIVE_WRITE: A write of COL_CTL.ACTIVE switches the active group set, or is refused while a step runs or waits (R388) -/
  | colActiveWrite (v : Word32)
  /-- POWER_INTERVAL: At each interval the arbiter samples requests and ceilings and sets target levels within the pool (R397) -/
  | powerInterval (temps : List Nat) (input : Nat)
  /-- LEVEL_CHANGE_COMPLETE: A lowering or raising of a consumer's operating point completes in the regulator sequencer order (R399) -/
  | levelChangeComplete (c : Fin 40)
  /-- VFAIL: A raise whose VREADY does not rise within 20 microseconds reverts and appends VFAIL (R400) -/
  | vfail (g : Fin 26)
  /-- THERMTRIP: A reading at or above TRIP tears down contexts holding engines and enters P2 (R401) -/
  | thermtrip (sensor : Fin 25) (tj : Nat)
  /-- OVERDRAW: An input power sample over the limit drops every engine group's ECLK to level 0 (R402) -/
  | overdraw (mw : Nat) (run : Nat)
  /-- COOLANT: A coolant reading outside 15 to 45 degrees sets PWR_STATUS.COOLANT and appends a record once per minute (R401) -/
  | coolant (inlet : BitVec 8)
  /-- BROWNOUT: A regulator load above ILIM in low-power mode turns the rail off and takes its engines offline (R403) -/
  | brownout (v : Fin 8) (amps : Nat)
  /-- IVR_RESTART: A write of PWR_IVRv.RESTART repeats the regulator soft start in low-power mode (R403) -/
  | ivrRestart (v : Fin 8)
  /-- PWR_REQ_WRITE: A write of PWR_REQc is accepted, or ignored with REJ when floors exceed the pool (R396) -/
  | pwrReqWrite (c : Fin 40) (v : Word32)
  /-- PWR_BUDGET_WRITE: A write of PWR_BUDGET is accepted, or ignored with REJ when out of range or floors exceed the pool (R396) -/
  | pwrBudgetWrite (v : Word32)
  /-- PWR_OPP_WRITE: A write of PWR_OPPl is accepted, or ignored with REJ when costs would decrease with level (R395) -/
  | pwrOppWrite (l : Fin 11) (v : Word32)
  /-- WAKE_EVENT: A wake source detected by the always-on logic sets its PWR_WAKE bit and starts an exit, or is latched during entry (R407) -/
  | wakeEvent (src : Fin 4) (n : SlipId)
  /-- POWER_GOOD: Input power good from the hot-swap controller begins a cold start (R415) -/
  | powerGood (mid : BitVec 5)
  /-- START_STEP_DONE: A start step sets its ready signal and the next step begins, READY setting at the end (R415) -/
  | startStepDone (step : Fin 12) (pass : BitVec 104)
  /-- START_STEP_TIMEOUT: A start step that misses its bound is repeated once, then ends the start with STARTFAIL (R416) -/
  | startStepTimeout (code : BitVec 8)
  /-- LATE_ENGINE_FAILURE: A bound slot that fails late is retired, its context torn down and a spare tested (R421) -/
  | lateEngineFailure (e : EngId)
  /-- SPARE_TEST_DONE: A spare's known-answer run ends, binding it under the logical number or trying the next spare or going OFFLINE (R421) -/
  | spareTestDone (e : EngId) (pass : Bool)
  /-- HUB_RETIRE: A write of HUB_RETIRE with GO retires the slot of a logical engine, or is refused (R423) -/
  | hubRetire (n : BitVec 7)
  /-- DCR_WRITE: Olmup writes and verifies the three copies of the configuration record with a new generation (R430) -/
  | dcrWrite (bad : Bool)
  /-- DCRCMD_SET_TOPOLOGY: HUB_DCRCMD CMD set topology takes the expected topology from a table in HBM (R433) -/
  | dcrcmdSetTopology (a : DevAddr)
  /-- FW_UPDATE: SEC_FWUPD CMD UPDATE verifies an image and writes it to the boot area (R451) -/
  | fwUpdate (a : DevAddr)
  /-- RECOV_START: HUB_RECOV CMD START begins a firmware push with its length (R452) -/
  | recovStart (len : BitVec 23)
  /-- RECOV_CHUNK: HUB_RECOV CMD CHUNK takes a 64 KiB chunk from HUB_RECOVWIN (R452) -/
  | recovChunk (off : BitVec 23)
  /-- RECOV_DONE: HUB_RECOV CMD DONE verifies the pushed image and resumes the start or returns to WAITING (R452) -/
  | recovDone (bad : Bool)
  /-- GET_MEASUREMENTS: An SPDM GET_MEASUREMENTS returns measurement blocks, signing an attestation report with the next LMS index when asked (R457) -/
  | getMeasurements (index : BitVec 8) (signed : Bool) (nonce : List Byte)
  /-- GET_CERTIFICATE: An SPDM GET_CERTIFICATE returns a certificate chain of slot 0 or 1 (R455) -/
  | getCertificate (slot : Fin 8)
  /-- SPDM_REQUEST: Other SPDM requests over DOE or MCTP are answered under the negotiated capabilities (R453) -/
  | spdmRequest (code : BitVec 8) (payload : List Byte)
  /-- SESSION_REQUEST: SEC_SCMD OP REQUEST starts opening a device session as requester (R459) -/
  | sessionRequest (k : Fin 16) (peer : BitVec 12)
  /-- SESSION_RESPOND: SEC_SCMD OP RESPOND arms the device to accept a session (R459) -/
  | sessionRespond (k : Fin 16) (peer : BitVec 12)
  /-- SESSION_CLOSE: SEC_SCMD OP CLOSE erases a session (R459) -/
  | sessionClose (k : Fin 16)
  /-- RELAY_INGO: A write of SEC_RELAYCTL.INGO delivers a relayed SPDM message to Olmup (R459) -/
  | relayIngo (len : BitVec 12)
  /-- MCTP_READ32: A vendor-defined MCTP READ32 returns a BAR0 register of the hub global, PWR_ or ERR_ block (R447) -/
  | mctpRead32 (off : Word32)
  /-- MCTP_WRITE32: A vendor-defined MCTP WRITE32 writes a BAR0 register of the hub global, PWR_ or ERR_ block (R447) -/
  | mctpWrite32 (off : Word32) (v : Word32)
  /-- PLDM_REQUEST: A PLDM request reads the module's numeric and state sensors (R447) -/
  | pldmRequest (sensor : Nat)
  /-- MCTP_CONTROL: An MCTP control message is answered, including endpoint ID assignment (R447) -/
  | mctpControl (cmd : BitVec 8) (eid : BitVec 8)
  /-- I3C_ADDRESS_ASSIGNMENT: SETDASA or SETAASA makes the module an I3C target, and a target reset returns it to SMBus (R447) -/
  | i3cAddressAssignment (a : Option (BitVec 7))
  /-- HUB_IRQSTAT_WRITE: A write of HUB_IRQSTAT clears interrupt source bits, keeping a concurrent event (R444) -/
  | hubIrqstatWrite (v : Word32)
  /-- PCIE_COMPLETION_TIMEOUT: A device read to host memory that times out ends its transfer with error (R440) -/
  | pcieCompletionTimeout (a : Word64) (n : Nat)
  /-- IVR_RESTART_COMPLETE: When a regulator's soft start after PWR_IVRv.RESTART completes, its slots run the known-answer run; passing slots return to service under their own logical numbers and failing slots are retired with cause 0x2 (R422) -/
  | ivrRestartComplete (v : Fin 8) (pass : BitVec 104)
  /-- FW_UPDATE_COMPLETE: Olmup finishes verifying and writing an update image, and SEC_FWUPD.STATE leaves BUSY for DONE or FAILED, raising interrupt source FWUPD (R451) -/
  | fwUpdateComplete (bad : Bool)
  /-- LANDING_DIRECT_ACCESS: A read or write of a direct Landing allocation is served from the Landing banks, not backed by HBM, and a double-bit error there is handled under R271 (R267) -/
  | landingDirectAccess (a : DevAddr) (n : Nat) (w : Option (List Byte))
  /-- PCIE_READ_COMPLETION: A PCI Express completion for a device-issued read of host memory delivers its data, or ends the transfer with error for UR, CA or poison (R440) -/
  | pcieReadCompletion (a : Word64) (status : Fin 4) (bytes : List Byte)
  /-- WEAR_LEVELLING: The FTL relocates data in the background for dynamic and static wear levelling and garbage collection, retiring blocks that fail and recording media errors outside a command (R280) -/
  | wearLevelling (b : Nat) (retire : Bool)
  /-- PARTNER_LINK_DOWN: A slip whose partner goes down goes down itself and appends LINKDOWN with cause 4 (R358) -/
  | partnerLinkDown (n : SlipId)
  /-- DOE_DISCOVERY: The DOE mailbox answers a DOE Discovery request (R453) -/
  | doeDiscovery (index : BitVec 8)
  /-- KVMAP_DEFERRED_WRITE: A deferred edit is written once no active walk pins its entry, and its KVMAP completes (R236) -/
  | kvmapDeferredWrite
  /-- MONITOR_FEED: A feed reaching an error monitor adds its sums and count, or sets FOREIGN, and closes the window when COUNT reaches the window size (R156) -/
  | monitorFeed
  /-- WIDEN_REQUEST: The hub judges a widening request against the budget, charging USED and writing the widening word, or refusing with WIDEN_DENIED (R158) -/
  | widenRequest
  /-- WIDEN_GRANT_ACCEPTED: When the widening word write is accepted, WIDE and GRANTED set; when it ends with error, USED falls back (R158) -/
  | widenGrantAccepted
  /-- MAP_COPIES_UPDATED: MEM_MAPSTAT.BUSY clears once every copy of a written map entry holds the new value (R250) -/
  | mapCopiesUpdated
  /-- FLASH_READ: A READ command copies or opens logical blocks into device memory (R285) -/
  | flashRead
  /-- FLASH_WRITE: A WRITE command copies or seals device memory into logical blocks (R285) -/
  | flashWrite
  /-- FLASH_TRIM: A TRIM command marks logical blocks unwritten (R285) -/
  | flashTrim
  /-- FLASH_IMPORT: An IMPORT command opens sealed chunks from host memory into device memory (R285) -/
  | flashImport
  /-- FLASH_NFETCH: An NFETCH command reads sealed data from a neighbour under a session on VC2 (R293) -/
  | flashNfetch
  /-- FLASH_GATE_POLL: At each poll interval the hub reads a gate word and starts a gated command when it reaches GVAL (R288) -/
  | flashGatePoll
  /-- NFETCH_REQUEST_SERVE: A source device checks the session, reads its memory and seals the response at its egress (R293) -/
  | nfetchRequestServe
  /-- NFETCH_RESPONSE: The requesting link die opens a sealed response and writes the plaintext, or discards an unmatched one (R293) -/
  | nfetchResponse
  /-- MODEL_UNLOAD: SEC_MODEL CMD UNLOAD erases keys, closes sessions and aborts flash commands, or is refused while contexts are active (R296) -/
  | modelUnload
  /-- MODEL_LOAD: SEC_MODEL CMD LOAD opens a model key blob, or is refused when STATE is not EMPTY (R296) -/
  | modelLoad
  /-- MODEL_COMMAND_COMPLETE: SEC_MODEL.STATE leaves BUSY for EMPTY, RESIDENT or FAILED when the command finishes (R296) -/
  | modelCommandComplete
  /-- FERRY_SWAP_OUT: A Ferry swap-out descriptor copies a page to a host slot and compare-and-swaps its entry (R242) -/
  | ferrySwapOut
  /-- FERRY_SWAP_IN: A Ferry swap-in descriptor copies a page from a host slot to a Boom unit and compare-and-swaps its entry (R242) -/
  | ferrySwapIn
  /-- FERRY_COMMIT_DEFERRED: A Ferry commit to a pinned entry is deferred and written once unpinned (R238) -/
  | ferryCommitDeferred
  /-- CODEC_OPEN: An OPEN job copies a stream record into a slot and resets its state, or ends with RANGE or STATE (R304) -/
  | codecOpen
  /-- CODEC_RELEASE: A RELEASE job clears the OUT hold on the buffers of its mask (R305) -/
  | codecRelease
  /-- CODEC_CLOSE: A CLOSE job aborts queued jobs of its slot, lets frames in progress finish and frees the slot (R311) -/
  | codecClose
  /-- CODEC_JOB_READ: The hub reads a job descriptor and stamps it with its frame deadline (R309) -/
  | codecJobRead
  /-- DISPATCH: The hub dispatches an eligible work item: binds the set, zero-fills, copies the entry image and starts the engines (R318) -/
  | dispatch
  /-- DEADLINE_MONITOR_MARK: A progress or phase mark updates the monitor, which may write the fall-back word or predict a miss (R325) -/
  | deadlineMonitorMark
  /-- ROUTE_MESSAGE: A router delivers a message locally or picks its egress slip, discarding it with UNROUTABLE or TTL when it cannot (R351) -/
  | routeMessage
  /-- RD: A destination serves a remote RD of its HBM or Landing and sends RDRSP, or an error response (R32) -/
  | rd
  /-- WR: A destination applies a remote WR and sends WRACK, or an error response (R32) -/
  | wr
  /-- REMOTE_ADDW: A destination applies a remote ADDW message at its adders (R32) -/
  | remoteAddw
  /-- REMOTE_ATOM: A destination applies a remote ATOM and returns ATOMRSP (R32) -/
  | remoteAtom
  /-- RDRSP: A requester receives read data and completes its request, or handles an error response as a hole (R342) -/
  | rdrsp
  /-- WRACK: A requester receives the acknowledgement of a remote write (R261) -/
  | wrack
  /-- ATOMRSP: A requester receives the old value of a remote atomic (R342) -/
  | atomrsp
  /-- PROBE: A PROBE seen for the first time is forwarded, answered with PREPLY and recorded (R356) -/
  | probe
  /-- PREPLY: A PREPLY is forwarded along its path and written to the reply buffer at the originator while COUNT is below LIMIT (R356) -/
  | preply
  /-- CFGRD: A CFGRD reads a FAB_ or COL_ register of the named link die and returns CFGRSP (R357) -/
  | cfgrd
  /-- CFGWR: A CFGWR writes a FAB_ or COL_ register, or is refused with CFGREFUSED while LOCK is 1 (R357) -/
  | cfgwr
  /-- CFGRSP: A CFGRSP is forwarded along its path and written to the reply buffer at the originator (R356) -/
  | cfgrsp
  /-- READY: A READY message grants credits, and a mismatch with the own instruction fails the step (R373) -/
  | readyMsg
  /-- DATA: A DATA message is written to the destination or staged for forwarding (R373) -/
  | dataMsg
  /-- PARTIAL: A PARTIAL message is staged, folded with the member's element and forwarded (R371) -/
  | partialMsg
  /-- CREDIT: A CREDIT message returns staging credits to the sender (R373) -/
  | creditMsg
  /-- ABORT: An ABORT of the entry's epoch sets BROKEN and fails a step in progress with ABORTED (R375) -/
  | abortMsg
  /-- ACK: An ACK ends the timer of an accepted COLL request (R373) -/
  | ackMsg
  /-- MOOR: PWR_STATE CMD MOOR enters P2 when the device is idle, or is refused (R405) -/
  | moor
  /-- LAYUP: PWR_STATE CMD LAYUP enters P3 when idle and the link is in L2, or is refused (R406) -/
  | layup
  /-- EXIT: PWR_STATE CMD EXIT starts an exit from P2 as a wake does (R407) -/
  | exitMoored
  /-- POWER_ENTRY_COMPLETE: A P2 or P3 entry ends, and a latched wake then starts the exit at once (R408) -/
  | powerEntryComplete
  /-- EXIT_STEP_DONE: An exit step sets its ready signal and the next domain step starts (R409) -/
  | exitStepDone
  /-- EXITFAIL: An exit step that misses its bound twice leaves the device sleeping with EXITFAIL (R409) -/
  | exitfail
  /-- PERST_DEASSERT: Deassertion of PERST# starts a cold or warm start, or leaves L2 as a wake (R413) -/
  | perstDeassert
  /-- PERST_ASSERT: Assertion of PERST# abandons a compute-only reset or a recovery push, or enters L2 after PME_TO_Ack (R434) -/
  | perstAssert
  /-- PME_TURN_OFF: The device answers PME_Turn_Off from D3hot with PME_TO_Ack (R442) -/
  | pmeTurnOff
  /-- WARM: HUB_RESET CMD WARM starts a warm start on the fast path or from step 3 (R424) -/
  | warmReset
  /-- COMPUTE: HUB_RESET CMD COMPUTE runs a compute-only reset, or is refused (R425) -/
  | computeReset
  /-- COLD: HUB_RESET CMD COLD starts a cold start (R413) -/
  | coldReset
  /-- LMS_RESERVATION_COMMIT: When the LMS index nears LMS_RSV, Olmup commits a record with a larger reservation (R432) -/
  | lmsReservationCommit
  /-- DCRCMD_WRITE: HUB_DCRCMD CMD write requests a configuration record write (R431) -/
  | dcrcmdWrite
  /-- DCRCMD_CLEAR_RETIRED: HUB_DCRCMD CMD clear retired list clears the retired slots of the record (R431) -/
  | dcrcmdClearRetired
  /-- DCRCMD_CLEAR_TOPOLOGY: HUB_DCRCMD CMD clear topology removes the expected topology (R431) -/
  | dcrcmdClearTopology
  /-- COMMITSVN: SEC_FWUPD CMD COMMITSVN raises MINSVN to the running image's SVN (R451) -/
  | commitsvn
  /-- CHALLENGE: An SPDM CHALLENGE is answered, or refused with ERROR when the LMS key is exhausted (R458) -/
  | challenge
  /-- SESSION_OPEN_TIMEOUT: A session open not complete within 10 s ends with ERR and SESSFAIL (R459) -/
  | sessionOpenTimeout
  /-- MATE_OPEN: Opening of MATE# signals power-fail so the hub starts no flash or record write (R446) -/
  | mateOpen
  /-- INPUT_POWER_LOSS: Module input power is lost or disconnected, all state except completed flash blocks is lost, and the next power good starts a cold start (R281) -/
  | inputPowerLoss
  /-- FERRY_INVALID_OP: A Ferry descriptor whose OP is neither swap out nor swap in ends with status 0x04 (R241) -/
  | ferryInvalidOp
  /-- FLASH_INVALID_OP: A flash command descriptor with an unassigned OP ends with status RANGE (R285) -/
  | flashInvalidOp
  /-- CODEC_INVALID_OP: A codec job descriptor with an unassigned OP ends with status RANGE (R302) -/
  | codecInvalidOp
  /-- COLL_INVALID_KIND: A received COLL message of a KIND not in Table 15-3 is discarded and counted in COL_STALE (R372) -/
  | collInvalidKind
  deriving DecidableEq, Repr

end Sys2Proof
end

