-- ==== Sys2Proof/Decode.lean ====
section
/-! DEFINITION. The instruction words of the engines (R75), and the command that a word of the opcode table spells: none, since every row of
the table has an empty list of fields. -/

namespace Sys2Proof.Machine

/-! ## Instruction words (Tables 3-3, 3-4, 4-8, 4-9) -/

/-- The operand fields of a first word. -/
def fieldsOf (w : Word64) : Fields := w.setWidth 56

/-- OP of an instruction (Tables 3-4, 4-8, 4-9); 0 for a command that is none. -/
def opOf : Instr → Nat
  | .nop _ w => bits w.toNat 63 56
  | .sig _ q _ => 64 * q.val + 0x01 | .wait _ q _ => 64 * q.val + 0x02 | .done .. => 0x03
  | .br .. => 0x04 | .jal .. => 0x05 | .jr .. => 0x06 | .loop .. => 0x07
  | .alu .. => 0x08 | .alui .. => 0x09 | .cmp .. => 0x0A | .cmpi .. => 0x0B | .plog .. => 0x0C | .adda .. => 0x0D
  | .lds .. => 0x0E | .sts .. => 0x0F | .sget .. => 0x10 | .flgclr .. => 0x11 | .tset .. => 0x12 | .tget .. => 0x13
  | .bload .. => 0x14 | .bext .. => 0x15 | .tblswap .. => 0x16 | .tlyRead .. | .tlyMark .. | .tlyAdd .. => 0x17
  | .li64 .. => 0x20 | .preempt .. => 0x21 | .tblload .. => 0x22 | .rsig .. => 0x43
  | .fill .. => 0x60 | .spill .. => 0x61 | .copy .. => 0x62 | .pref .. => 0x63 | .addw .. => 0x64 | .atom .. => 0x65 | .winfill .. => 0x66
  | .kvwalk .. => 0x68 | .kvmap .. => 0x69
  | .xch .. => 0x6C | .xredAllReduce .. | .xredReduceScatter .. => 0x6D | .xgather .. => 0x6E
  | .wgdrain .. => 0x84 | .mmaLoad .. | .mmaCompute .. => 0xA0 | .drain .. => 0xA1 | .wgpush .. => 0xA4
  | .vadd .. => 0xC8 | .vsub .. => 0xC9 | .vmul .. => 0xCA | .vmin .. => 0xCB | .vmax .. => 0xCC | .vmov .. => 0xCD | .vabs .. => 0xCE
  | .vneg .. => 0xCF | .vclamp .. => 0xD0 | .vtanh .. => 0xD8 | .vlogi .. => 0xD9
  | .steprun .. => 0xE0 | .cvt .. => 0xE1 | .rstat .. => 0xE2 | .smax .. => 0xE3 | .vfma .. => 0xE8 | .vfuse .. => 0xE9 | .vrot .. => 0xEA
  | _ => 0

/-- A first word: OP over the guard and the operand fields (Table 3-3). -/
def firstWord (op : Nat) (f : Fields) : Word64 := BitVec.ofNat 8 op ++ f

/-- The instruction of an OP, with the operand fields `f` of its first word `w0`, its second word, and the two words of the instruction that follows, which a
WGPUSH takes (R75, R130). An OP that is not assigned spells a NOP that carries its word, whose decode traps (R74). -/
def instrOfOp (e : EngId) (op : Nat) (f : Fields) (w0 w1 n1 n2 : Word64) : Instr :=
  match op with
  | 0x01 => .sig e 0 f
  | 0x02 => .wait e 0 f
  | 0x03 => .done e f
  | 0x04 => .br e f
  | 0x05 => .jal e f
  | 0x06 => .jr e f
  | 0x07 => .loop e f
  | 0x08 => .alu e f
  | 0x09 => .alui e f
  | 0x0A => .cmp e f
  | 0x0B => .cmpi e f
  | 0x0C => .plog e f
  | 0x0D => .adda e f
  | 0x0E => .lds e f
  | 0x0F => .sts e f
  | 0x10 => .sget e f
  | 0x11 => .flgclr e f
  | 0x12 => .tset e f
  | 0x13 => .tget e f
  | 0x14 => .bload e f
  | 0x15 => .bext e f
  | 0x16 => .tblswap e f
  | 0x17 => if bits f.toNat 51 49 = 0 then .tlyRead e f else if bits f.toNat 51 49 = 1 then .tlyMark e f else .tlyAdd e f
  | 0x20 => .li64 e f w1
  | 0x21 => .preempt e f w1
  | 0x22 => .tblload e f w1
  | 0x41 => .sig e 1 f
  | 0x42 => .wait e 1 f
  | 0x43 => .rsig e f
  | 0x60 => .fill e f w1
  | 0x61 => .spill e f w1
  | 0x62 => .copy e f w1
  | 0x63 => .pref e f w1
  | 0x64 => .addw e f w1
  | 0x65 => .atom e f w1
  | 0x66 => .winfill e f w1
  | 0x68 => .kvwalk e f w1
  | 0x69 => .kvmap e f w1
  | 0x6C => .xch e f w1
  | 0x6D => if bits f.toNat 15 14 = 0 then .xredAllReduce e f w1 else .xredReduceScatter e f w1
  | 0x6E => .xgather e f w1
  | 0x81 => .sig e 2 f
  | 0x82 => .wait e 2 f
  | 0x84 => .wgdrain e f
  | 0xA0 => if bits f.toNat 51 50 = 2 then .mmaLoad e f w1 else .mmaCompute e f w1
  | 0xA1 => .drain e f w1
  | 0xA4 => .wgpush e f w1 n1 n2
  | 0xC1 => .sig e 3 f
  | 0xC2 => .wait e 3 f
  | 0xC8 => .vadd e f
  | 0xC9 => .vsub e f
  | 0xCA => .vmul e f
  | 0xCB => .vmin e f
  | 0xCC => .vmax e f
  | 0xCD => .vmov e f
  | 0xCE => .vabs e f
  | 0xCF => .vneg e f
  | 0xD0 => .vclamp e f
  | 0xD8 => .vtanh e f
  | 0xD9 => .vlogi e f
  | 0xE0 => .steprun e f w1
  | 0xE1 => .cvt e f w1
  | 0xE2 => .rstat e f w1
  | 0xE3 => .smax e f w1
  | 0xE8 => .vfma e f w1
  | 0xE9 => .vfuse e f w1
  | 0xEA => .vrot e f w1
  | _ => .nop e w0

/-- The instruction that the words from an address on spell (R75). -/
def decodeWords (e : EngId) (w0 w1 n1 n2 : Word64) : Instr := instrOfOp e (bits w0.toNat 63 56) (fieldsOf w0) w0 w1 n1 n2

/-- The words of an engine's instruction, as `decodeWords` takes them; those that it does not have are 0. -/
def wordsOf (i : Instr) : Option (EngId × Word64 × Word64 × Word64 × Word64) :=
  let one (e : EngId) (f : Fields) := some (e, firstWord (opOf i) f, 0#64, 0#64, 0#64)
  let two (e : EngId) (f : Fields) (w : Word64) := some (e, firstWord (opOf i) f, w, 0#64, 0#64)
  match i with
  | .nop e w => some (e, w, 0#64, 0#64, 0#64)
  | .sig e _ f | .wait e _ f | .tlyRead e f | .tlyMark e f | .tlyAdd e f => one e f
  | .done e f | .br e f | .jal e f | .jr e f | .loop e f | .alu e f | .alui e f | .cmp e f | .cmpi e f | .plog e f | .adda e f
  | .lds e f | .sts e f | .sget e f | .flgclr e f | .tset e f | .tget e f | .bload e f | .bext e f | .tblswap e f | .rsig e f
  | .wgdrain e f | .vadd e f | .vsub e f | .vmul e f | .vmin e f | .vmax e f | .vmov e f | .vabs e f | .vneg e f | .vclamp e f
  | .vtanh e f | .vlogi e f => one e f
  | .li64 e f w | .preempt e f w | .tblload e f w | .fill e f w | .spill e f w | .copy e f w | .pref e f w | .addw e f w | .atom e f w
  | .winfill e f w | .kvwalk e f w | .kvmap e f w | .xch e f w | .xgather e f w | .drain e f w | .steprun e f w | .cvt e f w
  | .rstat e f w | .smax e f w | .vfma e f w | .vfuse e f w | .vrot e f w | .xredAllReduce e f w | .xredReduceScatter e f w
  | .mmaLoad e f w | .mmaCompute e f w => two e f w
  | .wgpush e f w n1 n2 => some (e, firstWord (opOf i) f, w, n1, n2)
  | _ => none

end Sys2Proof.Machine

namespace Sys2Proof

/-- The command that the low `nbits` bits of `w` spell: none, since no row of the table has bits. -/
def decodeTableWord (nbits w : Nat) : Option Instr :=
  match nbits, w with
  | _, _ => none

end Sys2Proof
end

