-- ==== Sys2Proof/Machine/Sha.lean ====
section
/-! DEFINITION. SHA-256 and SHA-384, HMAC and HKDF, which the specification names and does not define. PRESUMED (log entry 126): FIPS 180-4, FIPS 198-1 and
RFC 5869. -/

namespace Sys2Proof.Machine

/-- Bytes read most significant first, as a number. -/
def beNat (l : List Byte) : Nat := l.foldl (fun x b => 256 * x + b.toNat) 0

/-- The `n` low bytes of a number, most significant first. -/
def beBytes (n x : Nat) : List Byte := (leBytes n x).reverse

/-! ## Constants -/

/-- The largest x below 2^n + `lo` from `lo` with x ^ k at most v. -/
def rootBelow (k v : Nat) : Nat → Nat → Nat
  | 0, lo => lo
  | n + 1, lo => if (lo + 2 ^ n) ^ k ≤ v then rootBelow k v n (lo + 2 ^ n) else rootBelow k v n lo

/-- The first eighty primes. -/
def eightyPrimes : List Nat := (List.range 410).filter fun n => decide (2 ≤ n) && (List.range n).all fun d => d ≤ 1 || n % d != 0

/-- The first `w` bits of the fraction of the k-th root of a number below 512. -/
def rootBits (k w x : Nat) : Nat := rootBelow k (x * 2 ^ (k * w)) (w + 9) 0 % 2 ^ w

/-- A member of the family: its word, its rounds, its first hash value, its digest in bytes, and the rotations of its four functions; the last number of
a small one is a shift. -/
structure ShaKind where
  w : Nat
  rounds : Nat
  iv : List Nat
  out : Nat
  big0 : Nat × Nat × Nat
  big1 : Nat × Nat × Nat
  small0 : Nat × Nat × Nat
  small1 : Nat × Nat × Nat

/-- SHA-384: its first value comes from the ninth to the sixteenth prime. -/
def sha384Kind : ShaKind :=
  ⟨64, 80, ((eightyPrimes.drop 8).take 8).map (rootBits 2 64), 48, (28, 34, 39), (14, 18, 41), (1, 8, 7), (19, 61, 6)⟩

/-- SHA-256. -/
def sha256Kind : ShaKind :=
  ⟨32, 64, (eightyPrimes.take 8).map (rootBits 2 32), 32, (2, 13, 22), (6, 11, 25), (7, 18, 3), (17, 19, 10)⟩

namespace ShaKind

/-- The round constants. -/
def consts (h : ShaKind) : List Nat := (eightyPrimes.take h.rounds).map (rootBits 3 h.w)

/-- A word rotated to the right. -/
def rotr (h : ShaKind) (x n : Nat) : Nat := x / 2 ^ n + x % 2 ^ n * 2 ^ (h.w - n)
/-- Three rotations of a word together. -/
def bigMix (h : ShaKind) (r : Nat × Nat × Nat) (x : Nat) : Nat := h.rotr x r.1 ^^^ h.rotr x r.2.1 ^^^ h.rotr x r.2.2
/-- Two rotations of a word and a shift together. -/
def smallMix (h : ShaKind) (r : Nat × Nat × Nat) (x : Nat) : Nat := h.rotr x r.1 ^^^ h.rotr x r.2.1 ^^^ (x / 2 ^ r.2.2)

/-- The word that follows a window of sixteen of the schedule. -/
def nextWord (h : ShaKind) (win : List Nat) : Nat :=
  (h.smallMix h.small1 (win.getD 14 0) + win.getD 9 0 + h.smallMix h.small0 (win.getD 1 0) + win.getD 0 0) % 2 ^ h.w

/-- One round: the eight working variables and the window move on. -/
def round (h : ShaKind) (x : List Nat × List Nat) (k : Nat) : List Nat × List Nat :=
  let v (i : Nat) := x.1.getD i 0
  let choose := (v 4 &&& v 5) ^^^ ((2 ^ h.w - 1 - v 4) &&& v 6)
  let major := (v 0 &&& v 1) ^^^ (v 0 &&& v 2) ^^^ (v 1 &&& v 2)
  let t := v 7 + h.bigMix h.big1 (v 4) + choose + k + x.2.getD 0 0
  ((t + h.bigMix h.big0 (v 0) + major) % 2 ^ h.w :: v 0 :: v 1 :: v 2 :: (v 3 + t) % 2 ^ h.w :: [v 4, v 5, v 6],
    x.2.drop 1 ++ [h.nextWord x.2])

/-- Bytes of a word and of a block. -/
def wordBytes (h : ShaKind) : Nat := h.w / 8
def blockBytes (h : ShaKind) : Nat := 2 * h.w

/-- One block of a message added to the hash value. -/
def block (h : ShaKind) (hv : List Nat) (bs : List Byte) : List Nat :=
  let win := (List.range 16).map fun i => beNat ((bs.drop (h.wordBytes * i)).take h.wordBytes)
  let y := h.consts.foldl h.round (hv, win)
  (hv.zip y.1).map fun p => (p.1 + p.2) % 2 ^ h.w

/-- The padded message. -/
def pad (h : ShaKind) (m : List Byte) : List Byte :=
  let n := m.length + 1 + 2 * h.wordBytes
  m ++ 0x80#8 :: List.replicate ((h.blockBytes - n % h.blockBytes) % h.blockBytes) 0#8 ++ beBytes (2 * h.wordBytes) (8 * m.length)

/-- The digest of a message. -/
def digest (h : ShaKind) (m : List Byte) : List Byte :=
  let p := h.pad m
  let hv := (List.range (p.length / h.blockBytes)).foldl (fun a i => h.block a ((p.drop (h.blockBytes * i)).take h.blockBytes)) h.iv
  ((hv.map (beBytes h.wordBytes)).flatten).take h.out

end ShaKind

/-- SHA-384 and SHA-256 of a list of bytes. -/
def sha384 (m : List Byte) : List Byte := sha384Kind.digest m
def sha256 (m : List Byte) : List Byte := sha256Kind.digest m

/-- A list cut or filled with zeros to `n` bytes. -/
def resize (n : Nat) (l : List Byte) : List Byte := (l ++ List.replicate (n - l.length) 0#8).take n

/-- HMAC with SHA-384. -/
def hmac384 (key m : List Byte) : List Byte :=
  let k := resize 128 (if 128 < key.length then sha384 key else key)
  sha384 (k.map (· ^^^ 0x5C#8) ++ sha384 (k.map (· ^^^ 0x36#8) ++ m))

/-- HKDF-Expand with SHA-384 of at most 48 bytes. -/
def expand384 (prk info : List Byte) (n : Nat) : List Byte := (hmac384 prk (info ++ [1#8])).take n

/-- HKDF with SHA-384. -/
def hkdf384 (salt ikm info : List Byte) (n : Nat) : List Byte := expand384 (hmac384 salt ikm) info n

/-- The bytes of ASCII text. -/
def asciiBytes (t : String) : List Byte := t.toList.map fun c => BitVec.ofNat 8 c.toNat

end Sys2Proof.Machine
end

