-- ==== Sys2Proof/Machine/Lms.lean ====
section
/-! DEFINITION. The verification of an LMS signature of LMS_SHA256_M32_H20 with LMOTS_SHA256_N32_W4, which the specification names and does not define.
PRESUMED (log entry 126): SP 800-208 and RFC 8554. -/

namespace Sys2Proof.Machine

/-- Chains of a one-time signature, levels of the tree, and the type codes of both. -/
def lmsChains : Nat := 67
def lmsLevels : Nat := 20
def lmotsType : Nat := 3
def lmsType : Nat := 8

/-- The digit `i` of four bits of a list of bytes, most significant first. -/
def nibble (l : List Byte) (i : Nat) : Nat := (l.getD (i / 2) 0#8).toNat / (if i % 2 = 0 then 16 else 1) % 16

/-- The digest of a message with its checksum. -/
def lmsDigest (ident : List Byte) (q : Nat) (c m : List Byte) : List Byte :=
  let d := sha256 (ident ++ beBytes 4 q ++ beBytes 2 0x8181 ++ c ++ m)
  d ++ beBytes 2 (((List.range 64).map fun i => 15 - nibble d i).foldl (· + ·) 0 * 16)

/-- Chain `i` run from position `a` to its end. -/
def lmsChain (ident : List Byte) (q i a : Nat) (y : List Byte) : List Byte :=
  (List.range (15 - a)).foldl (fun t j => sha256 (ident ++ beBytes 4 q ++ beBytes 2 i ++ beBytes 1 (a + j) ++ t)) y

/-- The public key of the one-time signature that the chains give. -/
def lmsCandidate (ident : List Byte) (q : Nat) (d ys : List Byte) : List Byte :=
  sha256 (ident ++ beBytes 4 q ++ beBytes 2 0x8080 ++
    ((List.range lmsChains).map fun i => lmsChain ident q i (nibble d i) ((ys.drop (32 * i)).take 32)).flatten)

/-- The root that a leaf and its path give. -/
def lmsRoot (ident : List Byte) (q : Nat) (leaf path : List Byte) : List Byte :=
  (List.range lmsLevels).foldl (fun t i =>
    let node := (2 ^ lmsLevels + q) / 2 ^ i
    let p := (path.drop (32 * i)).take 32
    sha256 (ident ++ beBytes 4 (node / 2) ++ beBytes 2 0x8383 ++ (if node % 2 = 1 then p ++ t else t ++ p)))
    (sha256 (ident ++ beBytes 4 (2 ^ lmsLevels + q) ++ beBytes 2 0x8282 ++ leaf))

/-- A signature of 2,828 bytes over a message verifies under an identifier of 16 bytes and a root (R450). -/
def lmsGood (key : List Byte × List Byte) (m sig : List Byte) : Bool :=
  let q := beNat (sig.take 4)
  let ots := sig.drop 4
  let tree := ots.drop 2180
  let d := lmsDigest key.1 q ((ots.drop 4).take 32) m
  sig.length == 2828 && beNat (ots.take 4) == lmotsType && beNat (tree.take 4) == lmsType && decide (q < 2 ^ lmsLevels) &&
    lmsRoot key.1 q (lmsCandidate key.1 q d (ots.drop 36)) (tree.drop 4) == key.2

end Sys2Proof.Machine
end

