-- ==== Sys2Proof/Config.lean ====
section
/-! DEFINITION. What an implementation fixes and the free values: opaque constants without a body, so that nothing can
be proved of the value they give. Each is named in a row of the assumption log. -/

namespace Sys2Proof.Config

/-- The seed that SEED with MODE 1 writes for an operand of -0: R210 states none. -/
opaque rsqrtSeedNegZero : Word32

/-- A fresh open number for each value of the model's counter. -/
opaque freeNat : Nat → Nat

/-- Whether a request for an address is translated by a copy that still holds the old value of a map entry (R250): of the model's counter, the entry
and the address. -/
opaque mapStale : Nat → Nat → Nat → Bool

/-- The beats of a stack (0 to 11) or a Landing (12, 13) that move after their stamp in a microsecond (R258): of the model's counter and the memory. -/
opaque lateBeats : Nat → Nat → Nat

/-- What reaches the PCI Express function in a microsecond beside memory requests (R437, R441): of the model's counter, 1 a corrected error in its buffers, 2 and 3
the host puts it into D0 or D3hot, 4 to 13 the host programs the severity of an uncorrectable error, any other number nothing. -/
opaque functionEvent : Nat → Nat

/-- Byte `i` of the saved HBM training, and of the saved training of a slip (R427): their content is the silicon's. -/
opaque hbmSettings : Nat → Byte
opaque slipSettings : Nat → Nat → Byte

/-- What the identity key was made from at manufacture (R454). -/
opaque identitySeed : Nat

/-- What the decoding process of a stream's standard yields (R300, R308): of the stream record and the access units of the slot so far, the latest
first, the number that answers a question (Codec.lean names the questions). Frames are named by the number of the access unit that they come from, counted
from 1 at OPEN: which buffer holds one is the slot's, and no standard's. -/
opaque decode : List Nat → List (List Byte) → Nat → Nat

/-- Whether the latest frame references the frame of an access unit, and whether that frame is held for reference afterwards (R305, R307). -/
opaque refers : List Nat → List (List Byte) → Nat → Bool
opaque keeps : List Nat → List (List Byte) → Nat → Bool

/-- The decoded picture hash of a kind (R300): of the samples of each component, by rows. -/
opaque pictureHash : Nat → List (List (List Nat)) → Nat

/-- The sample that it yields in a component at a row and a column, the coding block to which a sample belongs, and whether a coding block had been
reconstructed when decoding stopped. -/
opaque decodeSample : List Nat → List (List Byte) → Nat → Nat → Nat → Nat
opaque codingBlock : List Nat → List (List Byte) → Nat → Nat → Nat → Nat
opaque reconstructed : List Nat → List (List Byte) → Nat → Bool

/-- The bytes that a unit saves in the state area of a slot after a frame (R309). -/
opaque stateArea : List Nat → List (List Byte) → Nat → Byte

/-- Whether a frame reads, of the frame of an access unit that it may reference, a row of a component. -/
opaque refRow : List Nat → List (List Byte) → Nat → Nat → Nat → Bool

/-- What encoding yields (R308): of the stream record and the source frames of the slot so far with their KEY and QP, the number of bytes (none) or the
byte at an index. -/
opaque encode : List Nat → List (List Byte) → Option Nat → Nat

/-- A sample of the reconstructed reference that encoding keeps. -/
opaque encodeSample : List Nat → List (List Byte) → Nat → Nat → Nat → Nat

/-- How many of the latest frames encoding keeps for reference, at most two (Table 12-2). -/
opaque encodeKept : List Nat → List (List Byte) → Nat

/-- The best vector of the quarter-resolution stage of a motion search (R312): of the parameter block, the current picture, the windows' part of the
reference, the block's number and its predictor, an index into the full-sample vectors of its window. -/
opaque coarseVector : List Byte → List Byte → List Byte → Nat → Int × Int → Nat

/-- SVN, VER and the body digest of the firmware image that the device leaves manufacture with, and MINSVN in its fuses then (R449, R450). -/
opaque factorySvn : Nat
opaque factoryVer : Nat
opaque factoryDigest : List Byte
opaque factoryMinSvn : Nat

/-- The spare capacity in percent, the blocks retired, the average program/erase count and the lead of the largest over it that the media leave
manufacture with (R280, R282). -/
opaque factorySpare : Nat
opaque factoryGrown : Nat
opaque factoryAvgPe : Nat
opaque factoryMaxPe : Nat

/-- The Caivo keys of an index in the boot ROM: the ECDSA point, and the identifier and root of the LMS key (R450). -/
opaque caivoKey : Nat → Nat × Nat
opaque caivoLms : Nat → List Byte × List Byte

/-- The LMS signature of bytes with an index (R457); its first 2,828 bytes are used. -/
opaque lmsSign : Nat → List Byte → List Byte

/-- The bytes of measurement block 1 to 5 whose content is a list of numbers (Table 18-8). -/
opaque block : Nat → List Nat → List Byte

/-- SHA-384 of the boot ROM, as a number. -/
opaque romDigest : Nat

/-- The certificate chain of slot 0 or 1 (R455). -/
opaque certChain : Nat → List Byte

/-- The response to an SPDM request under the standard (R453): of its code, its payload and the exchanges before it. -/
opaque spdmReply : Nat → List Byte → List (List Byte) → List Byte

/-- How a host session stands after an exchange (R453, R459): 0 nothing changes, 1 a session opens, 2 one ends, 3 the armed device session completes,
4 its verification fails. -/
opaque spdmEffect : Nat → List Byte → List (List Byte) → Nat

/-- The next request of a session open as requester (R459), of the session, the peer and the messages so far, and how the open stands after them: 0 it goes
on, 1 it completes, 2 verification fails. -/
opaque relayRequest : Nat → Nat → List (List Byte) → List Byte
opaque relayVerdict : Nat → Nat → List (List Byte) → Nat

/-- The SPDM export master secret of a session that has completed (R292): of the session, the peer and the messages. -/
opaque exportSecret : Nat → Nat → List (List Byte) → List Byte

end Sys2Proof.Config
end

