-- ==== Sys2Proof/Machine/Num.lean ====
section
/-! DEFINITION. Exact numbers and their roundings: the arithmetic that R10, R42, R200 and R470 rest on. A value is a NaN,
an infinity or an exact dyadic m * 2^e with a sign (so that both zeros exist); every operation is exact and every
rounding is one explicit step. -/

namespace Sys2Proof

/-- The sticky numeric flags, bit order of ENG_FLAGS (Table 2-13). -/
abbrev Flags := BitVec 5
/-- A NaN was produced from non-NaN operands. -/
def Flags.inv : Flags := 1#5
/-- A result overflowed to infinity. -/
def Flags.ovf : Flags := 2#5
/-- A result was rounded to a subnormal or zero from a non-zero value. -/
def Flags.unf : Flags := 4#5
/-- A division or reciprocal of zero produced an infinity. -/
def Flags.divz : Flags := 8#5
/-- A narrowing saturated an element or block. -/
def Flags.sat : Flags := 16#5

/-- A number of the device's arithmetic: an exact value, an infinity or a NaN. -/
inductive Xr where
  | nan
  | inf (neg : Bool)
  | fin (neg : Bool) (m : Nat) (e : Int)
  deriving DecidableEq, Repr

namespace Xr

/-- +0. -/
def zero : Xr := .fin false 0 0
/-- 1. -/
def one : Xr := .fin false 1 0

/-- The exact value of an integer. -/
def ofInt (x : Int) : Xr := .fin (decide (x < 0)) x.natAbs 0
/-- The exact value of a natural number times 2^e. -/
def ofNatE (m : Nat) (e : Int) : Xr := .fin false m e

def isNan : Xr → Bool
  | .nan => true
  | _ => false
def isInf : Xr → Bool
  | .inf _ => true
  | _ => false
def isZero : Xr → Bool
  | .fin _ 0 _ => true
  | _ => false
/-- The sign; a NaN has none. -/
def sign : Xr → Bool
  | .nan => false
  | .inf n => n
  | .fin n _ _ => n

def neg : Xr → Xr
  | .nan => .nan
  | .inf n => .inf (!n)
  | .fin n m e => .fin (!n) m e
def abs : Xr → Xr
  | .nan => .nan
  | .inf _ => .inf false
  | .fin _ m e => .fin false m e
/-- The same magnitude with the sign of a given value applied. -/
def withSign (n : Bool) (x : Xr) : Xr := if n then x.abs.neg else x.abs

/-- The signed integer of a sign and a magnitude. -/
def sInt (n : Bool) (m : Nat) : Int := if n then -(m : Int) else (m : Int)

/-- Exact sum. An exact zero sum of values that are not both -0 is +0. -/
def add : Xr → Xr → Xr
  | .nan, _ => .nan
  | _, .nan => .nan
  | .inf a, .inf b => if a = b then .inf a else .nan
  | .inf a, _ => .inf a
  | _, .inf b => .inf b
  | .fin sa ma ea, .fin sb mb eb =>
    if ma = 0 then (if mb = 0 then .fin (sa && sb) 0 0 else .fin sb mb eb)
    else if mb = 0 then .fin sa ma ea
    else
      let e := min ea eb
      let x := sInt sa (ma <<< (ea - e).toNat) + sInt sb (mb <<< (eb - e).toNat)
      if x = 0 then zero else .fin (decide (x < 0)) x.natAbs e

def sub (a b : Xr) : Xr := a.add b.neg

/-- Exact product. -/
def mul : Xr → Xr → Xr
  | .nan, _ => .nan
  | _, .nan => .nan
  | .inf a, .inf b => .inf (a != b)
  | .inf a, .fin sb mb _ => if mb = 0 then .nan else .inf (a != sb)
  | .fin sa ma _, .inf b => if ma = 0 then .nan else .inf (sa != b)
  | .fin sa ma ea, .fin sb mb eb => .fin (sa != sb) (ma * mb) (ea + eb)

/-- Exact scaling by a power of two. -/
def scale (x : Xr) (k : Int) : Xr :=
  match x with
  | .fin n m e => .fin n m (e + k)
  | y => y

/-- Numeric order of two values; false when either is a NaN. Both zeros are equal. -/
def lt (a b : Xr) : Bool :=
  match a, b with
  | .nan, _ => false
  | _, .nan => false
  | .inf sa, .inf sb => sa && !sb
  | .inf sa, _ => sa
  | _, .inf sb => !sb
  | .fin sa ma ea, .fin sb mb eb =>
    let e := min ea eb
    decide (sInt sa (ma <<< (ea - e).toNat) < sInt sb (mb <<< (eb - e).toNat))
/-- a ≤ b for non-NaN values. -/
def le (a b : Xr) : Bool := !a.isNan && !b.isNan && !(b.lt a)
/-- Numeric equality; false when either is a NaN. -/
def eqv (a b : Xr) : Bool := !a.isNan && !b.isNan && !(a.lt b) && !(b.lt a)

/-- IEEE 754 maximumNumber, -0 below +0. -/
def maxNum (a b : Xr) : Xr :=
  if a.isNan then b else if b.isNan then a
  else if a.lt b then b else if b.lt a then a
  else if a.sign then b else a
/-- IEEE 754 minimumNumber, -0 below +0. -/
def minNum (a b : Xr) : Xr :=
  if a.isNan then b else if b.isNan then a
  else if a.lt b then a else if b.lt a then b
  else if a.sign then a else b

/-- The integer part toward minus infinity of a finite value. -/
def floorI : Xr → Int
  | .fin n m e =>
    if 0 ≤ e then sInt n (m <<< e.toNat) else (sInt n m) / (2 ^ (-e).toNat : Nat)
  | _ => 0
/-- The nearest integer of a finite value, ties to even. -/
def rintI : Xr → Int
  | .fin n m e =>
    if 0 ≤ e then sInt n (m <<< e.toNat)
    else
      let k := (-e).toNat
      let q := m >>> k
      let r := m % 2 ^ k
      let q' := if 2 ^ k < 2 * r ∨ (2 * r = 2 ^ k ∧ q % 2 = 1) then q + 1 else q
      sInt n q'
  | _ => 0

end Xr

/-- The exponent of the leading bit of num / den, both positive. -/
def ratLog2 (num den : Nat) : Int :=
  let k : Int := (Nat.log2 num : Int) - (Nat.log2 den : Int)
  let below := if 0 ≤ k then decide (num < den <<< k.toNat) else decide (num <<< (-k).toNat < den)
  if below then k - 1 else k

/-- num / den * 2^e rounded to nearest, ties to even, in `p` significant bits and never finer than 2^qmin:
the integer significand and its exponent. -/
def roundPos (p : Nat) (qmin : Option Int) (num den : Nat) (e : Int) : Nat × Int :=
  let top := ratLog2 num den + e
  let q0 := top - (p : Int) + 1
  let q := match qmin with
    | none => q0
    | some m => max q0 m
  let d := e - q
  let n' := if 0 ≤ d then num <<< d.toNat else num
  let d' := if 0 ≤ d then den else den <<< (-d).toNat
  let f := n' / d'
  let r := n' % d'
  let f' := if d' < 2 * r ∨ (2 * r = d' ∧ f % 2 = 1) then f + 1 else f
  (f', q)

/-- A binary floating format of the IEEE 754 kind (R10). -/
structure FFmt where
  p : Nat
  emin : Int
  emax : Int
  expBits : Nat
  deriving DecidableEq, Repr

namespace FFmt

def fp32 : FFmt := ⟨24, -126, 127, 8⟩
def bf16 : FFmt := ⟨8, -126, 127, 8⟩
def fp16 : FFmt := ⟨11, -14, 15, 5⟩
def e5m2 : FFmt := ⟨3, -14, 15, 5⟩

/-- The exponent of the least subnormal. -/
def qmin (f : FFmt) : Int := f.emin - (f.p : Int) + 1

/-- Rounds a quotient num / den * 2^e with a sign to the format, with the flags OVF and UNF (R44, Table 2-13). -/
def roundRat (f : FFmt) (n : Bool) (num den : Nat) (e : Int) : Xr × Flags :=
  if num = 0 then (.fin n 0 0, 0)
  else
    let r := roundPos f.p (some f.qmin) num den e
    if r.1 = 0 then (.fin n 0 0, Flags.unf)
    else
      let top := (Nat.log2 r.1 : Int) + r.2
      if f.emax < top then (.inf n, Flags.ovf)
      else (.fin n r.1 r.2, if top < f.emin then Flags.unf else 0)

/-- Rounds a value once to the format. A NaN stays a NaN; INV is the caller's, who knows the operands. -/
def round (f : FFmt) : Xr → Xr × Flags
  | .nan => (.nan, 0)
  | .inf n => (.inf n, 0)
  | .fin n m e => f.roundRat n m 1 e

/-- The bits of a value that the format holds; a NaN is the canonical quiet NaN (R470). -/
def encode (f : FFmt) (x : Xr) : Nat :=
  let fb := f.p - 1
  let sgn (n : Bool) : Nat := if n then 2 ^ (f.expBits + fb) else 0
  match x with
  | .nan => (2 ^ f.expBits - 1) <<< fb + 2 ^ (fb - 1)
  | .inf n => sgn n + (2 ^ f.expBits - 1) <<< fb
  | .fin n m e =>
    if m = 0 then sgn n
    else
      let top := (Nat.log2 m : Int) + e
      if top < f.emin then
        let d := e - f.qmin
        sgn n + (if 0 ≤ d then m <<< d.toNat else m >>> (-d).toNat)
      else
        let d := e - (top - (fb : Int))
        let sig := if 0 ≤ d then m <<< d.toNat else m >>> (-d).toNat
        sgn n + ((top + f.emax).toNat <<< fb) + (sig - 2 ^ fb)

/-- The value of the bits of a format. -/
def decode (f : FFmt) (b : Nat) : Xr :=
  let fb := f.p - 1
  let n := bit b (f.expBits + fb)
  let ex := bits b (f.expBits + fb - 1) fb
  let fr := b % 2 ^ fb
  if ex = 2 ^ f.expBits - 1 then (if fr = 0 then .inf n else .nan)
  else if ex = 0 then .fin n fr f.qmin
  else .fin n (2 ^ fb + fr) (f.qmin + (ex : Int) - 1)

end FFmt

/-- The FP32 value of 32 bits. -/
def f32 (b : Nat) : Xr := FFmt.fp32.decode b
/-- The 32 bits of an FP32 value. -/
def enc32 (x : Xr) : Word32 := BitVec.ofNat 32 (FFmt.fp32.encode x)

/-- One rounding to FP32 with its flags; `nanIn` says that an operand was a NaN, so that a NaN sets no INV (R44, R93). -/
def rnd32 (nanIn : Bool) (x : Xr) : Xr × Flags :=
  let r := FFmt.fp32.round x
  (r.1, r.2 ||| (if x.isNan && !nanIn then Flags.inv else 0))

/-- One rounding to FP32, the value alone. -/
def round32 (x : Xr) : Xr := (FFmt.fp32.round x).1

/-- FP32 addition: one rounding, with flags. -/
def add32 (a b : Xr) : Xr × Flags := rnd32 (a.isNan || b.isNan) (a.add b)
def sub32 (a b : Xr) : Xr × Flags := rnd32 (a.isNan || b.isNan) (a.sub b)
def mul32 (a b : Xr) : Xr × Flags := rnd32 (a.isNan || b.isNan) (a.mul b)
/-- FP32 fused multiply-add: one rounding. -/
def fma32 (a b c : Xr) : Xr × Flags := rnd32 (a.isNan || b.isNan || c.isNan) ((a.mul b).add c)

/-- The quotient of a value by a positive natural number, rounded once to FP32. -/
def divNat32 (x : Xr) (n : Nat) : Xr × Flags :=
  match x with
  | .fin s m e => FFmt.fp32.roundRat s m n e
  | y => (y, 0)

/-! ## The working format W (R200) -/

/-- Rounds once to W: a 48-bit significand, exponents unbounded. -/
def wround : Xr → Xr
  | .fin n m e => if m = 0 then .fin n 0 0 else let r := roundPos 48 none m 1 e; .fin n r.1 r.2
  | y => y
def wadd (a b : Xr) : Xr := wround (a.add b)
def wsub (a b : Xr) : Xr := wround (a.sub b)
def wmul (a b : Xr) : Xr := wround (a.mul b)
def wfma (a b c : Xr) : Xr := wround ((a.mul b).add c)

/-! ## Stored element formats (Table 4-1) -/

/-- The stored formats of Table 4-1. -/
inductive Format where
  | fp32 | bf16 | fp16 | e4m3 | e5m2 | int8 | hb4f | hb4i | hb3c | hb2c
  deriving DecidableEq, Repr

namespace Format

/-- The format a 4-bit code names, if any. -/
def ofCode : Nat → Option Format
  | 0 => some .fp32 | 1 => some .bf16 | 2 => some .fp16 | 3 => some .e4m3 | 4 => some .e5m2
  | 5 => some .int8 | 6 => some .hb4f | 7 => some .hb4i | 8 => some .hb3c | 9 => some .hb2c
  | _ => none

/-- Bits per element (Table 4-1). -/
def bitsPer : Format → Nat
  | .fp32 => 32 | .bf16 => 16 | .fp16 => 16 | .e4m3 => 8 | .e5m2 => 8
  | .int8 => 8 | .hb4f => 4 | .hb4i => 4 | .hb3c => 3 | .hb2c => 2

def isMma : Format → Bool
  | .fp32 => false | .fp16 => false | _ => true
def isDest : Format → Bool
  | .hb3c => false | .hb2c => false | _ => true
/-- Formats that always carry block scales (R41). -/
def alwaysScaled : Format → Bool
  | .hb4f => true | .hb4i => true | .hb3c => true | .hb2c => true | _ => false
/-- 8-bit formats, which carry block scales or none. -/
def is8 : Format → Bool
  | .e4m3 => true | .e5m2 => true | .int8 => true | _ => false
def isCodebook : Format → Bool
  | .hb3c => true | .hb2c => true | _ => false
/-- The K per row pass of the class of a format (Table 2-2); a pair runs in the class of the lower rate. -/
def classK : Format → Nat
  | .hb3c => 1024 | .hb2c => 1024 | .hb4f => 512 | .hb4i => 512 | _ => 256

end Format

/-- The HB4F value of a 4-bit code (Table 5-1). -/
def hb4fValue (c : Nat) : Xr :=
  let n := bit c 3
  match c % 8 with
  | 0 => Xr.zero
  | 1 => .fin n 1 (-1)
  | 2 => .fin n 1 0
  | 3 => .fin n 3 (-1)
  | 4 => .fin n 2 0
  | 5 => .fin n 3 0
  | 6 => .fin n 4 0
  | _ => .fin n 6 0

/-- The E4M3 value of a byte (R139). -/
def e4m3Value (c : Nat) : Xr :=
  let n := bit c 7
  let ex := bits c 6 3
  let fr := c % 8
  if c % 128 = 127 then .nan
  else if ex = 0 then .fin n fr (-9)
  else .fin n (8 + fr) ((ex : Int) - 10)

/-- The E5M2 value of a byte (R139). -/
def e5m2Value (c : Nat) : Xr := FFmt.e5m2.decode (c % 256)

/-- The UE5M3 value of a block scale code from 0x01 to 0xFE (R140). -/
def ue5m3 (c : Nat) : Xr :=
  let e := bits c 7 3
  let m := c % 8
  if e = 0 then .fin false m (-17) else .fin false (8 + m) ((e : Int) - 18)

/-- The value of one stored element. `cb` gives the BF16 codebook entry of an index (R137). -/
def elemValue (f : Format) (cb : Nat → Nat) (c : Nat) : Xr :=
  match f with
  | .fp32 => f32 c
  | .bf16 => FFmt.bf16.decode c
  | .fp16 => FFmt.fp16.decode c
  | .e4m3 => e4m3Value c
  | .e5m2 => e5m2Value c
  | .int8 => Xr.ofInt (sext 8 c)
  | .hb4f => hb4fValue c
  | .hb4i => Xr.ofInt (sext 4 c)
  | .hb3c => FFmt.bf16.decode (cb (c % 8))
  | .hb2c => FFmt.bf16.decode (cb (c % 4))

/-- The code of element `i` of a row whose bytes are given by `rd`, packed as R138 lays down. -/
def elemCode (f : Format) (rd : Nat → Byte) (i : Nat) : Nat :=
  match f with
  | .fp32 => leNat [rd (4 * i), rd (4 * i + 1), rd (4 * i + 2), rd (4 * i + 3)]
  | .bf16 => leNat [rd (2 * i), rd (2 * i + 1)]
  | .fp16 => leNat [rd (2 * i), rd (2 * i + 1)]
  | .e4m3 => (rd i).toNat
  | .e5m2 => (rd i).toNat
  | .int8 => (rd i).toNat
  | .hb4f => bits (rd (i / 2)).toNat (4 * (i % 2) + 3) (4 * (i % 2))
  | .hb4i => bits (rd (i / 2)).toNat (4 * (i % 2) + 3) (4 * (i % 2))
  | .hb3c =>
    let b := 3 * (i / 8)
    let w := leNat [rd b, rd (b + 1), rd (b + 2)]
    bits w (3 * (i % 8) + 2) (3 * (i % 8))
  | .hb2c => bits (rd (i / 4)).toNat (2 * (i % 4) + 1) (2 * (i % 4))

/-- The bytes of a row of element codes, packed as R138 lays down; the row fills whole bytes. -/
def packCodes (f : Format) (cs : List Nat) : List Byte :=
  let total := (cs.foldr (fun c acc => c % 2 ^ f.bitsPer + (acc <<< f.bitsPer)) 0)
  leBytes (cs.length * f.bitsPer / 8) total

end Sys2Proof
end

