-- ==== Sys2Proof/Machine/RegMap.lean ====
section
/-! DEFINITION. The registers of BAR0 (Tables 19-2 to 19-13): what each word reads after a cold reset, which of its fields the host writes,
clears by writing 1, or clears by reading (Table 0-6), and which blocks answer in which states (Table 19-1). -/

namespace Sys2Proof.Machine

/-- Reset values of the hub global and PWR_ blocks (Tables 19-2, 19-3 and 16-3). -/
def hubReset (off : Nat) : Nat :=
  if off = 0x0 then 0x4D25B000
  else if off = 0x10 then 0x40000000
  else if 0x100 ≤ off && off < 0x2A0 then 0x7F0000
  else if 0x440 ≤ off && off < 0x470 then (off - 0x440) / 4
  else if 0x8000 ≤ off && off < 0x9000 then (if off % 16 = 12 then 1 else 0)
  else 0

/-- The cost of an engine group per level, in mW (Table 16-3). -/
def oppReset : List Nat := [5314, 6895, 8716, 10793, 13143, 15781, 18723, 21985, 25582, 29531, 33846]

def pwrReset (off : Nat) : Nat :=
  if off = 0x100000 then 1500
  else if off = 0x100004 then 50
  else if off = 0x10000C then 0xF0000000
  else if off = 0x10001C then 0x697300
  else if off = 0x100020 then 275000
  else if 0x100100 ≤ off && off < 0x100240 && off % 8 = 0 then 0x1FFF00
  else if 0x100400 ≤ off && off < 0x10042C then oppReset.getD ((off - 0x100400) / 4) 0
  else if 0x100500 ≤ off && off < 0x100520 then 0x80000019
  else 0

/-- Reset values of a link die's window (Table 19-10). -/
def linkReset (x : Nat) : Nat :=
  if x = 0x4 then 0x200000
  else if x = 0x8 then 1000
  else if x = 0xC then 0x01040802
  else if x = 0x18 then 0x200411
  else if 0x1000 ≤ x && x < 0x1800 then
    (if x % 256 = 0 then 0xC0006401 else if x % 256 = 0x20 then 8 else 0)
  else if 0x21000 ≤ x && x < 0x22000 && x % 32 = 0 then 0x03E80000
  else 0

/-- Reset values of the MEM_ and LND_ blocks (Tables 19-11 and 19-12). -/
def memReset (off : Nat) : Nat :=
  if off = 0x3000004 then 0x9FFFE000
  else if off = 0x3000008 then 0x9000
  else if 0x3001000 ≤ off && off < 0x3001C00 then
    (if off % 256 = 0 then 0x140407 else if off % 256 = 0xC then 0x80000018 else 0)
  else if 0x3800000 ≤ off && off < 0x3820000 then
    (if off % 65536 = 0xC then 32 else if off % 65536 = 0x10 then 0x200403 else 0)
  else 0

/-- Reset values of the COD_ and FLS_ blocks (Tables 19-7 and 19-8). -/
def engineBlockReset (off : Nat) : Nat :=
  if off = 0x800008 then 0x00FFFF00
  else if off = 0xC00014 then 1200
  else if off = 0xC00020 then 0x402462F6
  else if off = 0xC00024 then 1
  else if off = 0xC00030 then 100000
  else 0

/-- The reset value of the 32-bit word at a BAR0 offset (the Reset column of Tables 19-2 to 19-13). What the start loads reads as 0 until
it has. The vector control words of the MSI-X table are masked, as PCI Express has them. -/
def regReset (off : Nat) : Word32 :=
  BitVec.ofNat 32 (
    if off < 0x100000 then hubReset off
    else if off < 0x200000 then pwrReset off
    else if off < 0x300000 then 0
    else if off < 0x301000 then 0
    else if off < 0x302000 then (if off % 64 = 0 then 1000 else 0)
    else if off < 0x800000 then 0
    else if off < 0x1000000 then engineBlockReset off
    else if off < 0x2000000 then 0
    else if off < 0x3000000 then linkReset ((off - 0x2000000) % 0x800000)
    else memReset off)

/-! ## Fields -/

/-- The fields of a 32-bit word by access: RW and RWS, W1C, RC. Every other field is RO, WO or reserved. -/
structure WordDef where
  rw : Nat
  w1c : Nat
  rc : Nat
  deriving DecidableEq, Repr

/-- A register, arrayed or single: its first offset, the step and the count of its array, its word, and the high word of a 64-bit one. -/
structure RegRow where
  base : Nat
  step : Nat
  count : Nat
  lo : WordDef
  hi : Option WordDef
  deriving DecidableEq, Repr

/-- What stands at an offset: no register, a 32-bit register, or a word of a 64-bit one. -/
inductive Slot where
  | hole
  | single (d : WordDef)
  | low (d : WordDef)
  | high (d : WordDef)
  deriving DecidableEq, Repr

/-- What one row says of an offset. -/
def RegRow.find (r : RegRow) (off : Nat) : Slot :=
  if off < r.base || r.count ≤ (off - r.base) / r.step then .hole
  else
    let x := (off - r.base) % r.step
    match r.hi with
    | none => if x = 0 then .single r.lo else .hole
    | some h => if x = 0 then .low r.lo else if x = 4 then .high h else .hole

/-- What a list of rows says of an offset. -/
def findSlot (off : Nat) : List RegRow → Slot
  | [] => .hole
  | r :: t => match r.find off with
    | .hole => findSlot off t
    | x => x

/-- Table 19-2 -/
def hubRows : List RegRow :=
  [
   ⟨0x0, 0x8000000, 1, ⟨0, 0, 0⟩, none⟩,  -- IDREV
   ⟨0x4, 0x8000000, 1, ⟨0, 0, 0⟩, none⟩,  -- HUB_STATUS
   ⟨0x8, 0x8000000, 1, ⟨0, 0, 0⟩, none⟩,  -- ENG_COUNT
   ⟨0xC, 0x8000000, 1, ⟨0, 0x10000000, 0⟩, none⟩,  -- HUB_RESET
   ⟨0x10, 0x8000000, 1, ⟨0xE0000000, 0, 0⟩, none⟩,  -- HUB_RSTCTL
   ⟨0x14, 0x8000000, 1, ⟨0, 0, 0⟩, none⟩,  -- HUB_STARTMS
   ⟨0x18, 0x8000000, 1, ⟨0, 0x20000000, 0⟩, none⟩,  -- HUB_DCR
   ⟨0x20, 0x8000000, 1, ⟨0, 0, 0⟩, some ⟨0, 0, 0⟩⟩,  -- HUB_DCRGEN
   ⟨0x28, 0x8000000, 1, ⟨0xFFFFFFC0, 0, 0⟩, some ⟨0xFFFF, 0, 0⟩⟩,  -- HUB_DCRCMD
   ⟨0x30, 0x8000000, 1, ⟨0x7F, 0x40000000, 0⟩, none⟩,  -- HUB_RETIRE
   ⟨0x40, 0x8000000, 1, ⟨0x3FF, 0x80000000, 0⟩, none⟩,  -- HUB_BAR2_BASE
   ⟨0x44, 0x8000000, 1, ⟨0, 0, 0xFFFF⟩, none⟩,  -- HUB_BAR2_HOLE
   ⟨0x48, 0x8000000, 1, ⟨0xFFFFF000, 0, 0⟩, some ⟨0xFFFFFFFF, 0, 0⟩⟩,  -- HUB_HOST_BASE
   ⟨0x100, 0x4, 104, ⟨0, 0, 0⟩, none⟩,  -- HUB_SLOTk
   ⟨0x400, 0x8000000, 1, ⟨0, 0xFFF, 0⟩, none⟩,  -- HUB_IRQSTAT
   ⟨0x404, 0x8000000, 1, ⟨0xFFF, 0, 0⟩, none⟩,  -- HUB_IRQEN
   ⟨0x440, 0x4, 12, ⟨0xFF, 0, 0⟩, none⟩,  -- HUB_IRQVECi
   ⟨0x500, 0x8000000, 1, ⟨0, 0x10000000, 0⟩, none⟩,  -- HUB_RECOV
   ⟨0x504, 0x8000000, 1, ⟨0x7FFFFF, 0, 0⟩, none⟩]  -- HUB_RECOVARG

/-- Table 19-3 -/
def pwrRows : List RegRow :=
  [
   ⟨0x100000, 0x8000000, 1, ⟨0x7FF, 0x80000000, 0⟩, none⟩,  -- PWR_BUDGET
   ⟨0x100004, 0x8000000, 1, ⟨0x3FF, 0, 0⟩, none⟩,  -- PWR_CTL
   ⟨0x100008, 0x8000000, 1, ⟨0, 0x10000000, 0⟩, none⟩,  -- PWR_STATE
   ⟨0x10000C, 0x8000000, 1, ⟨0, 0xB000000, 0⟩, none⟩,  -- PWR_STATUS
   ⟨0x100010, 0x8000000, 1, ⟨0, 0xF, 0⟩, none⟩,  -- PWR_WAKE
   ⟨0x100014, 0x8000000, 1, ⟨0, 0, 0⟩, none⟩,  -- PWR_SPEND
   ⟨0x100018, 0x8000000, 1, ⟨0, 0, 0⟩, none⟩,  -- PWR_INPUT
   ⟨0x10001C, 0x8000000, 1, ⟨0xFFFF00, 0, 0⟩, none⟩,  -- PWR_THERM
   ⟨0x100020, 0x8000000, 1, ⟨0, 0, 0⟩, none⟩,  -- PWR_RESERVE
   ⟨0x100100, 0x8, 40, ⟨0xDF1FFF00, 0, 0⟩, none⟩,  -- PWR_REQc
   ⟨0x100104, 0x8, 40, ⟨0, 0, 0⟩, none⟩,  -- PWR_GRANTc
   ⟨0x100400, 0x4, 11, ⟨0xFFFF, 0, 0⟩, none⟩,  -- PWR_OPPl
   ⟨0x100500, 0x4, 8, ⟨0xFF, 0x40000000, 0⟩, none⟩]  -- PWR_IVRv

/-- Table 19-4 -/
def errRows : List RegRow :=
  [
   ⟨0x200000, 0x8000000, 1, ⟨0, 0x80000000, 0⟩, none⟩,  -- ERR_STATUS
   ⟨0x200004, 0x8000000, 1, ⟨0, 0, 0⟩, none⟩,  -- ERR_TAIL
   ⟨0x200008, 0x8000000, 1, ⟨0xFF, 0, 0⟩, none⟩,  -- ERR_HEAD
   ⟨0x20000C, 0x8000000, 1, ⟨0, 0, 0xFFFFFFFF⟩, none⟩,  -- ERR_OVF
   ⟨0x200010, 0x8000000, 1, ⟨0, 0, 0⟩, none⟩,  -- ERR_FATAL
   ⟨0x200100, 0x8, 4, ⟨0, 0, 0⟩, some ⟨0, 0, 0⟩⟩,  -- ERR_FIRSTw
   ⟨0x201000, 0x8, 256, ⟨0, 0, 0⟩, some ⟨0, 0, 0⟩⟩]  -- ERR_RECi

/-- Table 19-5 -/
def schRows : List RegRow :=
  [
   ⟨0x300000, 0x8000000, 1, ⟨0xFFFFFFC0, 0, 0⟩, some ⟨0xFFFF, 0, 0⟩⟩,  -- SCH_WORK_RING
   ⟨0x300008, 0x8000000, 1, ⟨0x8000001F, 0, 0⟩, none⟩,  -- SCH_WORK_CTL
   ⟨0x30000C, 0x8000000, 1, ⟨0xFFFF, 0, 0⟩, none⟩,  -- SCH_WORK_TAIL
   ⟨0x300010, 0x8000000, 1, ⟨0, 0, 0⟩, none⟩,  -- SCH_WORK_HEAD
   ⟨0x301000, 0x40, 64, ⟨0x80FFFFF, 0x10000000, 0⟩, none⟩,  -- SCH_CTXc_CTL
   ⟨0x301008, 0x40, 64, ⟨0xFFFFF000, 0, 0⟩, some ⟨0xFFFF, 0, 0⟩⟩,  -- SCH_CTXc_SAVE
   ⟨0x301010, 0x40, 64, ⟨0xFFFF, 0, 0⟩, none⟩,  -- SCH_CTXc_STRIDE
   ⟨0x301014, 0x40, 64, ⟨0xFFFFFFFF, 0, 0⟩, none⟩,  -- SCH_CTXc_SET0–SET2
   ⟨0x301018, 0x40, 64, ⟨0xFFFFFFFF, 0, 0⟩, none⟩,  -- SCH_CTXc_SET0–SET2
   ⟨0x30101C, 0x40, 64, ⟨0xFFFFFFFF, 0, 0⟩, none⟩,  -- SCH_CTXc_SET0–SET2
   ⟨0x301020, 0x40, 64, ⟨0, 0, 0⟩, none⟩,  -- SCH_CTXc_PROG
   ⟨0x301024, 0x40, 64, ⟨0, 0, 0⟩, none⟩,  -- SCH_CTXc_ELAPSED
   ⟨0x301028, 0x40, 64, ⟨0, 0, 0⟩, none⟩,  -- SCH_CTXc_MON
   ⟨0x30102C, 0x40, 64, ⟨0, 0, 0⟩, none⟩,  -- SCH_CTXc_PHASE
   ⟨0x301030, 0x40, 64, ⟨0, 0xC0000000, 0⟩, none⟩,  -- SCH_CTXc_PTSTAT
   ⟨0x307F00, 0x8000000, 1, ⟨0xFFFFF, 0, 0⟩, none⟩,  -- SCH_WIDEN_BUDGET
   ⟨0x307F04, 0x8000000, 1, ⟨0, 0, 0⟩, none⟩,  -- SCH_WIDEN_USED
   ⟨0x307F08, 0x8000000, 1, ⟨0, 0xC0000000, 0⟩, none⟩,  -- SCH_WIDEN_STATUS
   ⟨0x308040, 0x40, 255, ⟨0x7F80FFFF, 0, 0⟩, none⟩,  -- SCH_MON_CTLn
   ⟨0x308044, 0x40, 255, ⟨0xFFFFFFFF, 0, 0⟩, none⟩,  -- SCH_MON_WINn
   ⟨0x308048, 0x40, 255, ⟨0xFFFFFFFF, 0, 0⟩, some ⟨0xFFFFFFFF, 0, 0⟩⟩,  -- SCH_MON_TWINn
   ⟨0x308050, 0x40, 255, ⟨0, 0x90000000, 0xFFFF⟩, none⟩,  -- SCH_MON_STATn
   ⟨0x308054, 0x40, 255, ⟨0, 0, 0⟩, none⟩,  -- SCH_MON_COUNTn
   ⟨0x308058, 0x40, 255, ⟨0, 0, 0⟩, some ⟨0, 0, 0⟩⟩,  -- SCH_MON_SUMRn
   ⟨0x308060, 0x40, 255, ⟨0, 0, 0⟩, some ⟨0, 0, 0⟩⟩,  -- SCH_MON_SUMXn
   ⟨0x30C000, 0x8000000, 1, ⟨0xFFFFC000, 0, 0⟩, some ⟨0xFFFF, 0, 0⟩⟩,  -- SCH_BOOM_BASE
   ⟨0x30C008, 0x8000000, 1, ⟨0x3FFFFFF, 0, 0⟩, none⟩,  -- SCH_BOOM_UNITS
   ⟨0x30C010, 0x8000000, 1, ⟨0xFFFFFFC0, 0, 0⟩, some ⟨0xFFFF, 0, 0⟩⟩,  -- SCH_BOOM_SCALE
   ⟨0x30C018, 0x8000000, 1, ⟨0xFFFFFFFF, 0, 0⟩, some ⟨0xFFFFFFFF, 0, 0⟩⟩,  -- SCH_KV_MV9
   ⟨0x30C020, 0x8000000, 1, ⟨0, 0xFFFFFFFF, 0⟩, some ⟨0, 0xFFFFFFFF, 0⟩⟩,  -- SCH_KV_CHG
   ⟨0x30C028, 0x8000000, 1, ⟨0, 0, 0⟩, none⟩,  -- SCH_KV_STAT
   ⟨0x30C040, 0x8000000, 1, ⟨0xFFFFFFC0, 0, 0⟩, some ⟨0xFFFF, 0, 0⟩⟩,  -- SCH_FERRY_RING
   ⟨0x30C048, 0x8000000, 1, ⟨0x8000001F, 0, 0⟩, none⟩,  -- SCH_FERRY_CTL
   ⟨0x30C04C, 0x8000000, 1, ⟨0xFFFF, 0, 0⟩, none⟩,  -- SCH_FERRY_TAIL
   ⟨0x30C050, 0x8000000, 1, ⟨0, 0, 0⟩, none⟩,  -- SCH_FERRY_HEAD
   ⟨0x30C054, 0x8000000, 1, ⟨0, 0, 0xFFFFFFFF⟩, none⟩,  -- SCH_FERRY_CNT
   ⟨0x30C058, 0x8000000, 1, ⟨0xFFFFC000, 0, 0⟩, some ⟨0xFFFFFFFF, 0, 0⟩⟩,  -- SCH_FERRY_HOST
   ⟨0x30C060, 0x8000000, 1, ⟨0xFFFFFFC0, 0, 0⟩, some ⟨0xFFFFFFFF, 0, 0⟩⟩,  -- SCH_FERRY_HSCL
   ⟨0x30C200, 0x8, 64, ⟨0, 0, 0⟩, some ⟨0, 0x80000000, 0⟩⟩]  -- SCH_KV_ABSENTc

/-- Table 19-6 -/
def secRows : List RegRow :=
  [
   ⟨0x400000, 0x8000000, 1, ⟨0, 0, 0⟩, none⟩,  -- SEC_FW
   ⟨0x400008, 0x8000000, 1, ⟨0xFFFFFFC0, 0, 0⟩, some ⟨0xFFFF, 0x10000000, 0⟩⟩,  -- SEC_FWUPD
   ⟨0x400010, 0x8000000, 1, ⟨0, 0, 0⟩, some ⟨0, 0, 0⟩⟩,  -- SEC_UID
   ⟨0x400018, 0x8000000, 1, ⟨0, 0, 0⟩, some ⟨0, 0, 0⟩⟩,  -- SEC_LMS
   ⟨0x400020, 0x8000000, 1, ⟨0, 0, 0xFFFF⟩, none⟩,  -- SEC_ATT
   ⟨0x400028, 0x8000000, 1, ⟨0, 0, 0⟩, some ⟨0, 0x10000000, 0⟩⟩,  -- SEC_SCMD
   ⟨0x400030, 0x8000000, 1, ⟨0xFFF, 0, 0⟩, none⟩,  -- SEC_RELAYCTL
   ⟨0x400040, 0x4, 12, ⟨0, 0, 0⟩, none⟩,  -- SEC_FWDIGi
   ⟨0x402000, 0x8000000, 1, ⟨0, 0x10000000, 0⟩, none⟩,  -- SEC_MODEL
   ⟨0x402008, 0x8000000, 1, ⟨0xFFFFFFC0, 0, 0⟩, some ⟨0xFFFF, 0, 0⟩⟩,  -- SEC_MODEL_BLOB
   ⟨0x402010, 0x8000000, 1, ⟨0, 0, 0⟩, none⟩,  -- SEC_MODEL_ID
   ⟨0x402040, 0x4, 12, ⟨0, 0, 0⟩, none⟩,  -- SEC_MODEL_DIGESTi
   ⟨0x402080, 0x8000000, 1, ⟨0, 0, 0⟩, some ⟨0, 0x10000000, 0⟩⟩,  -- SEC_KCMD
   ⟨0x402100, 0x4, 32, ⟨0, 0, 0⟩, none⟩,  -- SEC_KSLOTk
   ⟨0x402200, 0x4, 16, ⟨0, 0, 0⟩, none⟩,  -- SEC_SESSk
   ⟨0x403000, 0x4, 512, ⟨0, 0, 0⟩, none⟩,  -- RO
   ⟨0x403800, 0x4, 512, ⟨0xFFFFFFFF, 0, 0⟩, none⟩]  -- RW

/-- Table 19-7 -/
def codRows : List RegRow :=
  [
   ⟨0x800000, 0x8000000, 1, ⟨0xFFFFFFC0, 0, 0⟩, some ⟨0xFFFF, 0, 0⟩⟩,  -- COD_RING
   ⟨0x800008, 0x8000000, 1, ⟨0x80FFFF1F, 0, 0⟩, none⟩,  -- COD_CTL
   ⟨0x80000C, 0x8000000, 1, ⟨0xFFFF, 0, 0⟩, none⟩,  -- COD_TAIL
   ⟨0x800010, 0x8000000, 1, ⟨0, 0, 0⟩, none⟩,  -- COD_HEAD
   ⟨0x800014, 0x8000000, 1, ⟨0, 0, 0xFFFFFFFF⟩, none⟩,  -- COD_DMG
   ⟨0x800018, 0x8000000, 1, ⟨0, 0, 0⟩, none⟩,  -- COD_UNITS
   ⟨0x800100, 0x4, 64, ⟨0, 0, 0⟩, none⟩,  -- COD_SLOTn
   ⟨0x802000, 0x8000000, 1, ⟨0, 0, 0xFFFFFFFF⟩, none⟩,  -- MSU_BLKS
   ⟨0x802004, 0x8000000, 1, ⟨0, 0, 0xFFFFFFFF⟩, none⟩]  -- MSU_EDGE

/-- Table 19-8 -/
def flsRows : List RegRow :=
  [
   ⟨0xC00000, 0x8000000, 1, ⟨0xFFFFFFC0, 0, 0⟩, some ⟨0xFFFF, 0, 0⟩⟩,  -- FLS_RING
   ⟨0xC00008, 0x8000000, 1, ⟨0x8000001F, 0, 0⟩, none⟩,  -- FLS_CTL
   ⟨0xC0000C, 0x8000000, 1, ⟨0xFFFF, 0, 0⟩, none⟩,  -- FLS_TAIL
   ⟨0xC00010, 0x8000000, 1, ⟨0, 0, 0⟩, none⟩,  -- FLS_HEAD
   ⟨0xC00014, 0x8000000, 1, ⟨0xFFFF, 0, 0⟩, none⟩,  -- FLS_POLL
   ⟨0xC00018, 0x8000000, 1, ⟨0, 0, 0⟩, none⟩,  -- FLS_STATUS
   ⟨0xC00020, 0x8000000, 1, ⟨0, 0, 0⟩, some ⟨0, 0, 0⟩⟩,  -- FLS_CAP
   ⟨0xC00028, 0x8000000, 1, ⟨0, 0, 0xFFFFFFFF⟩, none⟩,  -- FLS_ECC
   ⟨0xC0002C, 0x8000000, 1, ⟨0, 0, 0xFFFF0000⟩, none⟩,  -- FLS_RELOC
   ⟨0xC00030, 0x8000000, 1, ⟨0xFFFFFF, 0, 0⟩, none⟩,  -- FLS_RDTHR
   ⟨0xC00034, 0x8000000, 1, ⟨0, 0, 0⟩, none⟩]  -- FLS_WEAR

/-- Table 19-10, offsets from a link die's base -/
def linkRows : List RegRow :=
  [
   ⟨0x0, 0x8000000, 1, ⟨0x80000FFF, 0, 0⟩, none⟩,  -- FAB_ID
   ⟨0x4, 0x8000000, 1, ⟨0xC03F0000, 0, 0⟩, none⟩,  -- FAB_CTL
   ⟨0x8, 0x8000000, 1, ⟨0xFFFFF, 0, 0⟩, none⟩,  -- FAB_TMO
   ⟨0xC, 0x8000000, 1, ⟨0xFFFFFFFF, 0, 0⟩, none⟩,  -- FAB_QUANT
   ⟨0x10, 0x8000000, 1, ⟨0, 0, 0⟩, some ⟨0, 0, 0⟩⟩,  -- FAB_UID
   ⟨0x18, 0x8000000, 1, ⟨0xF3F, 0, 0⟩, none⟩,  -- FAB_ARB
   ⟨0x1C, 0x8000000, 1, ⟨0, 0, 0xFFFFFFFF⟩, none⟩,  -- FAB_LATE
   ⟨0x20, 0x8000000, 1, ⟨0, 0, 0xFFFFFFFF⟩, none⟩,  -- FAB_DROP
   ⟨0x24, 0x8000000, 1, ⟨0, 0, 0xFFFF⟩, none⟩,  -- FAB_STALE
   ⟨0x28, 0x8000000, 1, ⟨0xFFFFFFC0, 0, 0⟩, some ⟨0xFFFF, 0, 0⟩⟩,  -- FAB_SR_MSG
   ⟨0x30, 0x8000000, 1, ⟨0xFFFFFFC0, 0, 0⟩, some ⟨0xFFFF, 0, 0⟩⟩,  -- FAB_SR_BUF
   ⟨0x38, 0x8000000, 1, ⟨0xFFFF0000, 0, 0⟩, none⟩,  -- FAB_SR_STAT
   ⟨0x1000, 0x100, 8, ⟨0xDB00FFFF, 0, 0⟩, none⟩,  -- FAB_Sn_CTL
   ⟨0x1004, 0x100, 8, ⟨0, 0, 0⟩, none⟩,  -- FAB_Sn_STAT
   ⟨0x1008, 0x100, 8, ⟨0, 0, 0⟩, none⟩,  -- FAB_Sn_PEER
   ⟨0x1010, 0x100, 8, ⟨0, 0, 0⟩, some ⟨0, 0, 0⟩⟩,  -- FAB_Sn_PEERUID
   ⟨0x1018, 0x100, 8, ⟨0, 0, 0xFFFFFFFF⟩, none⟩,  -- FAB_Sn_ERR
   ⟨0x101C, 0x100, 8, ⟨0, 0, 0xFFFFFFFF⟩, none⟩,  -- FAB_Sn_EVT
   ⟨0x1020, 0x100, 8, ⟨0xFF, 0, 0⟩, none⟩,  -- FAB_Sn_RETRY
   ⟨0x10000, 0x4, 4096, ⟨0x8000FFFF, 0, 0⟩, none⟩,  -- FAB_RTd
   ⟨0x20000, 0x8000000, 1, ⟨0x3, 0x80000000, 0⟩, none⟩,  -- COL_CTL
   ⟨0x20004, 0x8000000, 1, ⟨0, 0, 0⟩, none⟩,  -- COL_STAT
   ⟨0x20008, 0x8000000, 1, ⟨0, 0, 0xFFFFFFFF⟩, none⟩,  -- COL_STALE
   ⟨0x2000C, 0x8000000, 1, ⟨0, 0, 0xFFFFFFFF⟩, none⟩,  -- COL_DONE
   ⟨0x20010, 0x8000000, 1, ⟨0, 0, 0xFFFFFFFF⟩, none⟩,  -- COL_FAIL
   ⟨0x21000, 0x20, 128, ⟨0x3FFF0FFF, 0, 0⟩, some ⟨0xFFC0FFFF, 0, 0⟩⟩,  -- COL_Gg_CFG
   ⟨0x21008, 0x20, 128, ⟨0xFFFFFFC0, 0, 0⟩, some ⟨0xFFFFFFF, 0, 0⟩⟩,  -- COL_Gg_MEM
   ⟨0x21010, 0x20, 128, ⟨0, 0, 0⟩, none⟩,  -- COL_Gg_STAT
   ⟨0x21014, 0x20, 128, ⟨0, 0, 0⟩, none⟩]  -- COL_Gg_STEP

/-- Table 19-11 -/
def memRows : List RegRow :=
  [
   ⟨0x3000000, 0x10, 64, ⟨0x7FFFF, 0, 0⟩, some ⟨0xFFFFE000, 0, 0⟩⟩,  -- MEM_MAPn word 0
   ⟨0x3000008, 0x10, 64, ⟨0xFFFFFFFF, 0, 0⟩, some ⟨0, 0, 0⟩⟩,  -- MEM_MAPn word 1
   ⟨0x3000400, 0x8000000, 1, ⟨0, 0x80000000, 0⟩, none⟩,  -- MEM_MAPSTAT
   ⟨0x3001000, 0x100, 12, ⟨0xF3F, 0, 0⟩, none⟩,  -- MEM_ARBs
   ⟨0x3001004, 0x100, 12, ⟨0, 0, 0xFFFFFFFF⟩, none⟩,  -- MEM_LATEs
   ⟨0x3001008, 0x100, 12, ⟨0, 0, 0xFFFFFFFF⟩, none⟩,  -- MEM_ECCs
   ⟨0x300100C, 0x100, 12, ⟨0x800000FF, 0, 0⟩, none⟩,  -- MEM_SCRUBs
   ⟨0x3001010, 0x100, 12, ⟨0, 0, 0⟩, some ⟨0, 0x80000000, 0⟩⟩,  -- MEM_UEADDRs
   ⟨0x3001018, 0x100, 12, ⟨0, 0, 0xFFFFFFFF⟩, none⟩,  -- MEM_ADDNANs
   ⟨0x300101C, 0x100, 12, ⟨0, 0, 0⟩, none⟩]  -- MEM_REPAIRs

/-- Table 19-12 -/
def lndRows : List RegRow :=
  [
   ⟨0x3800000, 0x10000, 2, ⟨0xFFFFFFFF, 0, 0⟩, none⟩,  -- LND_PARTd
   ⟨0x3800004, 0x10000, 2, ⟨0, 0, 0⟩, none⟩,  -- LND_REPAIRd
   ⟨0x3800008, 0x10000, 2, ⟨0, 0x80000000, 0⟩, none⟩,  -- LND_STATd
   ⟨0x380000C, 0x10000, 2, ⟨0xFF, 0, 0⟩, none⟩,  -- LND_TRKd
   ⟨0x3800010, 0x10000, 2, ⟨0xF3F, 0, 0⟩, none⟩,  -- LND_ARBd
   ⟨0x3800014, 0x10000, 2, ⟨0, 0, 0xFFFFFFFF⟩, none⟩,  -- LND_LATEd
   ⟨0x3800018, 0x10000, 2, ⟨0, 0, 0xFFFFFFFF⟩, none⟩,  -- LND_ECCd
   ⟨0x3800100, 0x8, 16, ⟨0x3FFF1FFF, 0, 0⟩, some ⟨0x80000000, 0, 0⟩⟩,  -- LND_DALLOCd_k
   ⟨0x3810100, 0x8, 16, ⟨0x3FFF1FFF, 0, 0⟩, some ⟨0x80000000, 0, 0⟩⟩]  -- LND_DALLOCd_k

/-- Table 19-13. -/
def tlyRows : List RegRow :=
  [⟨0x3C00000, 4, 3, ⟨0, 0, 0xFFFFFFFF⟩, none⟩]

/-- Registers marked * in Table 19-10 are one device-wide register behind both windows (R466): FAB_ID, FAB_CTL, FAB_TMO, FAB_UID and COL_CTL. -/
def canonOff (off : Nat) : Nat :=
  if off = 0x2800000 || off = 0x2800004 || off = 0x2800008 || off = 0x2800010 || off = 0x2800014 || off = 0x2820000 then
    off - 0x800000
  else off

/-- A tally register: the low or high word of TLY_En_s for n below 96 and s below 12 (Table 19-13). -/
def tlySlot (off : Nat) : Slot :=
  let x := off - 0x3C01000
  if off < 0x3C01000 || 96 ≤ x / 0x80 || 12 ≤ x % 0x80 / 8 then .hole
  else if x % 8 = 0 then .low ⟨0, 0, 0xFFFFFFFF⟩ else if x % 8 = 4 then .high ⟨0, 0, 0⟩ else .hole

/-- The MSI-X table and HUB_RECOVWIN, whose words the host writes whole; only bit 0 of a vector control word is a field. -/
def msixSlot (off : Nat) : Slot :=
  if off % 4 ≠ 0 then .hole
  else if 0x8000 ≤ off && off < 0x9000 then .single ⟨if off % 16 = 12 then 1 else if off % 16 = 0 then 0xFFFFFFFC else 0xFFFFFFFF, 0, 0⟩
  else if 0x9000 ≤ off && off < 0x9020 then .single ⟨0, 0, 0⟩
  else if 0x10000 ≤ off && off < 0x20000 then .single ⟨0xFFFFFFFF, 0, 0⟩
  else .hole

/-- What stands at a BAR0 offset outside the engine windows. -/
def slotAt (off : Nat) : Slot :=
  if off < 0x100000 then (match findSlot off hubRows with
    | .hole => msixSlot off
    | x => x)
  else if off < 0x200000 then findSlot off pwrRows
  else if off < 0x300000 then findSlot off errRows
  else if off < 0x400000 then findSlot off schRows
  else if off < 0x800000 then findSlot off secRows
  else if off < 0xC00000 then findSlot off codRows
  else if off < 0x1000000 then findSlot off flsRows
  else if off < 0x2000000 then .hole
  else if off < 0x3000000 then findSlot ((off - 0x2000000) % 0x800000) linkRows
  else if off < 0x3800000 then findSlot off memRows
  else if off < 0x3C00000 then findSlot off lndRows
  else if off < 0x4000000 then (match findSlot off tlyRows with
    | .hole => tlySlot off
    | x => x)
  else .hole

/-! ## Service -/

/-- How a block answers an access (Table 19-1): under its field maps; as if it held no register; with reads only; with ones in every bit of a
read; or not at all. -/
inductive Service where
  | served
  | empty
  | reads
  | ones
  | silent
  deriving DecidableEq, Repr

/-- The service of the block of an offset, in a device that is sleeping in P3, contained, in P2, or has READY 0. -/
def blockService (p3 fatal p2 ready : Bool) (off : Nat) : Service :=
  let blk := off / 0x100000
  if p3 then .silent
  else if fatal then (if blk = 0 || blk = 2 then .reads else .ones)
  else if blk ≤ 2 then .served
  else if !ready then .empty
  else if p2 then
    (if 8 ≤ blk && blk < 12 || 16 ≤ blk && blk < 22 || 48 ≤ blk then .ones else .served)
  else .served

end Sys2Proof.Machine
end

