-- ==== Sys2Proof/Machine/State.lean ====
section
/-! DEFINITION. The state of the device: everything the specification gives it, as plain data. The registers of BAR0 are
held in one sparse file under their offsets (R465); what the specification names beside them is held in records per unit. -/

namespace Sys2Proof.Machine

/-! ## Engines -/

/-- The s, a, p and t registers of an engine (Table 3-1). -/
structure RegFile where
  s : SMap Word64 := []
  a : SMap DevAddr := []
  p : SMap Bool := []
  t : SMap Word64 := []
  deriving DecidableEq, Repr

/-- An instruction in an issue queue with the register values it read at issue (R84). `live` is its guard (R73). An entry of the
deferred weight-gradient queue also holds the semaphore, increment and TAG of its WGPUSH (R130). -/
structure QEntry where
  instr : Instr
  pc : Nat
  regs : RegFile
  live : Bool
  wg : Bool := false
  sem : Nat := 0
  inc : Nat := 0
  tag : Nat := 0
  deriving DecidableEq, Repr

/-- What an accumulator row held, under tile · 256 + row, when an MMA wrote it, and whether a SIG.T has followed that MMA (R49, R114). -/
structure LateRow where
  key : Nat
  vals : List Nat
  signed : Bool := false
  deriving DecidableEq, Repr

/-- Where a Skidder descriptor stands: not started, running, wholly moved and waiting for its turn to signal (R56, R58), or a KVMAP in the
deferral buffer, whose place is free (R236). -/
inductive Stage where
  | waiting
  | started
  | done
  | deferred
  deriving DecidableEq, Repr

/-- A descriptor in a Skidder queue. `quiet`: its semaphore addition is suppressed by a stopping trap (R102). `id` names it to the
KV walker and the deferral buffer. -/
structure SkEntry where
  instr : Instr
  pc : Nat
  regs : RegFile
  id : Nat := 0
  stage : Stage := .waiting
  quiet : Bool := false
  /-- holds one of the die's stream trackers (R269) -/
  tracker : Bool := false
  /-- the window descriptor and slot image a WINFILL read when it started (R185), or the status of a walk -/
  held : List Byte := []
  deriving DecidableEq, Repr

/-- One copy of the stationary operand with the formats recorded at its load (R107, R109): the row bytes at 512 k + i, the
scale bytes at 256 blk + n, and the codebook entries as read at the load. -/
structure Stationary where
  fs : Nat := 3
  fm : Nat := 3
  nss : Bool := true
  nsm : Bool := true
  cbm : Nat := 0
  kb : Nat := 16
  rows : ByteMap := []
  scales : ByteMap := []
  book : List Byte := []
  deriving DecidableEq, Repr

/-- What the sequencer of an engine is doing: issuing; past a DONE (R82); stopped for a PREEMPT and waiting to report (R96);
stopped and reported; stopped by a trap of its own (R102); stopped by the teardown of its context (R327). -/
inductive IssueState where
  | going
  | done
  | stopping (f : Fields) (w2 : Word64)
  | stopped (f : Fields) (w2 : Word64)
  | faulted
  | torn
  deriving DecidableEq, Repr

/-- The read-only view of one Bucking slot (R184), but for BUSY, which follows from the queues. -/
structure BuckView where
  xflt : Bool := false
  xlev : Nat := 0
  iter : Nat := 0
  xext : Nat := 0
  xbnd : Nat := 0
  deriving DecidableEq, Repr

/-- One logical engine. -/
structure Engine where
  /-- the physical slot bound under this number, and whether it is in service (R26) -/
  slot : Nat := 0
  online : Bool := false
  /-- its slot has failed and a spare is sought (R421), with the spare that is being tested, plus 1 -/
  rebind : Bool := false
  spare : Nat := 0
  /-- the context bound to it (R316), with this engine's rank and the size of the set -/
  bound : Bool := false
  ctx : Nat := 0
  rank : Nat := 0
  nset : Nat := 0
  /-- no engine of the set issues before every engine holds its starting values (R92) -/
  started : Bool := false
  issue : IssueState := .going
  haltReq : Bool := false
  halted : Bool := false
  /-- a page absence of this engine is waiting for the next point (R96, R239) -/
  pageAbsent : Bool := false
  pc : Nat := 0
  regs : RegFile := {}
  slots : ByteMap := []
  views : SMap BuckView := []
  sems : SMap (BitVec 16) := []
  flags : Flags := 0#5
  cycles : Word64 := 0#64
  mhz : Nat := 1600
  tile : ByteMap := []
  /-- 64-bit words of tile and accumulator memory that hold a single-bit (1) or double-bit (2) error (R52) -/
  tileErr : SMap Nat := []
  acc : SMap Word32 := []
  accErr : SMap Nat := []
  /-- accumulator rows with the 256 values that each MMA found there which no WAIT.T has settled, the latest first (R49) -/
  late : List LateRow := []
  store : ByteMap := []
  bank : Bool := false
  active : Stationary := {}
  shadow : Option Stationary := none
  queues : SMap (List QEntry) := []
  fillQ : List SkEntry := []
  spillQ : List SkEntry := []
  deferred : List QEntry := []
  /-- tallies of the context on this engine, engine and software tallies under their numbers (R133) -/
  tallies : SMap Nat := []
  semSat : Bool := false
  eccCe : Bool := false
  faultValid : Bool := false
  faultCtx : Nat := 0
  faultCode : Nat := 0
  dbgUe : Bool := false
  dbgAinc : Bool := false
  dbgAddr : Nat := 0
  deriving DecidableEq, Repr

/-- An engine that nothing has written. -/
def Engine.reset : Nat → Engine := fun _ => {}

/-! ## Memories -/

/-- What is known of a byte of host memory: nothing, a value that was written there or delivered, or a read of it that ended
with UR, CA, poison or a timeout (R440). -/
inductive HostByte where
  | unread
  | data (b : Byte)
  | failed
  deriving DecidableEq, Repr

/-- The memories behind the device address space. Error marks: 1 a correctable error, 2 a new uncorrectable error, 3 a
poisoned line (R270). -/
structure Mem where
  /-- HBM bytes under stack · 72 GiB + offset in the stack (R248) -/
  hbm : ByteMap := []
  hbmErr : SMap Nat := []
  /-- direct Landing bytes under die · 512 MiB + offset (R267); marks per 64-bit word -/
  landing : ByteMap := []
  landErr : SMap Nat := []
  /-- HBM lines held by the Landing of a die, under die · 2^42 + line: 1 a copy, 2 a copy with a single-bit error, 3 one with
  a double-bit error (R260, R272) -/
  cached : SMap Nat := []
  /-- host memory as the device knows it -/
  host : SMap HostByte := []
  deriving DecidableEq, Repr

/-- What an unlisted host byte is. -/
def hostUnread : Nat → HostByte := fun _ => .unread
/-- No mark. -/
def noMark : Nat → Nat := fun _ => 0

/-! ## Contexts, page tables and monitors -/

/-- A work item bound to a context: its ring index, its descriptor, when step 3 of its dispatch ended, and the late count
then (R317 to R319, R325). -/
structure WorkItem where
  index : Nat
  words : List Nat
  startUs : Nat
  lateBase : Nat
  deriving DecidableEq, Repr

/-- What the hub keeps of a context beside its registers. -/
structure Ctx where
  /-- the engines of the set in rank order while a set is bound -/
  members : List Nat := []
  item : Option WorkItem := none
  /-- a pre-emption request is set (R320), since when -/
  preempt : Bool := false
  reqUs : Nat := 0
  /-- a RESUME is waiting for its set (R315) -/
  resuming : Bool := false
  savedNset : Nat := 0
  /-- the ranks that stood past DONE at the save: they have no record (R96) -/
  doneRanks : List Nat := []
  /-- INFO of the teardown record, SRC in [15:8] and CODE in [7:0] (R327), and when the teardown began -/
  cause : Nat := 0
  tearUs : Nat := 0
  /-- the collective steps that the teardown ended: their messages are awaited (R380) -/
  colIds : List Nat := []
  deriving DecidableEq, Repr

/-- A context that nothing has used. -/
def Ctx.reset : Nat → Ctx := fun _ => {}

/-- An active walk with its pinned range (R227, R236), the entries its first pass holds (R229), the Boom registers sampled at its
start (R224) and the rotary descriptor and position table read then (R230). -/
structure Walk where
  eng : Nat
  id : Nat
  ctx : Nat
  base : Nat
  n : Nat
  changed : Bool := false
  held : List Nat := []
  absent : Bool := false
  boom : Nat := 0
  scale : Nat := 0
  rot : List Byte := []
  pos : List Byte := []
  deriving DecidableEq, Repr

/-- An edit in the deferral buffer (R236). A Ferry commit carries the entry it expects. -/
structure Edit where
  addr : Nat
  value : Nat
  expect : Option Nat := none
  id : Nat := 0
  eng : Nat := 0
  ctx : Nat := 0
  rank : Nat := 0
  sem : Nat := 0
  inc : Nat := 0
  pc : Nat := 0
  quiet : Bool := false
  deriving DecidableEq, Repr

/-- The KV walkers' pinned ranges, the deferral buffer and the Ferry's descriptor in progress. -/
structure Kv where
  walks : List Walk := []
  edits : List Edit := []
  ferry : Bool := false
  deriving DecidableEq, Repr

/-- A feed on its way to an error monitor (R154, R155): the exact sums, SR in units of 2^-16 and SX in units of 2^-149 (none: infinite). -/
structure Feed where
  mon : Nat
  ctx : Nat
  count : Nat
  sumR : Nat
  sumX : Option Nat
  eng : Nat
  /-- the engine has been unbound since: the feed counts for its slot alone (R133, R468) -/
  quiet : Bool := false
  deriving DecidableEq, Repr

/-- The scheduler and the error monitors beside their registers. -/
structure Sched where
  /-- ring indices completed ahead of HEAD (R245, R319) -/
  workDone : List Nat := []
  feeds : List Feed := []
  /-- marks on their way to the deadline monitors: (context, SEL, VAL) (R133, R325) -/
  marks : List (Nat × Nat × Nat) := []
  /-- monitors whose widening requests wait to be judged, in order (R158) -/
  widenReqs : List Nat := []
  /-- monitors with a grant whose widening-word write is on its way (R158), and monitors whose release waits for it (R160) -/
  grants : List Nat := []
  releases : List Nat := []
  /-- beats counted late since reset (R258, R325) -/
  late : Nat := 0
  deriving DecidableEq, Repr

/-! ## Fabric -/

/-- A message (Tables 14-4, 14-10 and 15-2). Source-routed messages use `path` to `off` and `value`, collective ones `off` and `gid` to `dest`. -/
structure Msg where
  op : Nat
  src : Nat := 0
  dst : Nat := 0
  rq : Nat := 0
  pri : Nat := 0
  err : Bool := false
  ecode : Nat := 0
  tag : Nat := 0
  dl : Nat := 0
  len : Nat := 0
  addr : Nat := 0
  aty : Nat := 0
  aop : Nat := 0
  sess : Nat := 0
  seq : Nat := 0
  vc : Nat := 0
  ttl : Nat := 0
  path : Nat := 0
  rpath : Nat := 0
  ouid : Nat := 0
  off : Nat := 0
  value : Nat := 0
  gid : Nat := 0
  kind : Nat := 0
  epoch : Nat := 0
  step : Nat := 0
  instr : Nat := 0
  xm : Nat := 0
  rop : Nat := 0
  et : Nat := 0
  frm : Nat := 0
  cred : Nat := 0
  dest : Nat := 0
  data : List Byte := []
  /-- the ingress buffers it holds on the slip that it came from (R347) -/
  held : Nat := 0
  deriving DecidableEq, Repr

/-- A remote request of this device that has not been retired: who made it, for which descriptor, what it asks, when it started, and
how it stands: 0 outstanding, 1 answered, 2 ended with error (R359); and its message, while it waits for a TAG. -/
structure RemoteReq where
  tag : Nat
  rq : Nat
  id : Nat
  op : Nat
  addr : Nat
  pos : Nat
  len : Nat
  us : Nat
  status : Nat := 0
  ecode : Nat := 0
  data : List Byte := []
  msg : Option Msg := none
  deriving DecidableEq, Repr

/-- A flit of TYPE DATA as it travels end to end (Table 14-3): `rsp` is its class. At an egress it also has the requester index of Table 14-8, the DL and PRI of
its message and its stamp (R253), and the slip whose ingress buffer it still holds (R347). -/
structure Flit where
  dst : Nat
  vc : Nat
  rsp : Bool
  head : Bool
  tail : Bool
  ttl : Nat
  payload : List Byte
  source : Nat := 12
  dl : Nat := 0xFFFF
  pri : Nat := 0
  stamp : Nat := 0
  holds : Option Nat := none
  deriving DecidableEq, Repr

/-- Where the message that comes in on a channel and class goes: there is none, its HEAD waits at the router, it is for this device, it is forwarded to a slip, or
what is left of it is discarded. -/
inductive Onward where
  | none
  | waiting
  | here
  | slip (p : Nat)
  | drop
  deriving DecidableEq, Repr

/-- The message that comes in on a channel and class: where it goes, the flits of it that are kept until its TAIL, and its DL and PRI. -/
structure Ingress where
  goes : Onward := .none
  flits : List Flit := []
  dl : Nat := 0xFFFF
  pri : Nat := 0
  deriving DecidableEq, Repr

/-- No message comes in. -/
def Ingress.reset : Nat → Ingress := fun _ => {}

/-- A message at the router: from this device (slip 16) whole, or from a slip with its flits so far and whether its TAIL has come. -/
structure Transit where
  msg : Msg
  slip : Nat := 16
  flits : List Flit := []
  whole : Bool := true
  deriving DecidableEq, Repr

/-- The link state of one slip: the sequence numbers of R344, whether a DATA flit has been accepted and whether a NAK waits for its flit, the flits not yet sent, those awaiting
acknowledgement with how often each SEQ of them has been sent again, the deficits of R349, the messages that come in under 2 · VC + class, the credits used
likewise, and the training that Olmup does (R338). Per channel the arbiter holds the owner of the message half sent and of the grant, as 1 + 2 · index + class, the
beats of the grant, and 1 + the index of the saturated requester granted last (R255, R256). -/
structure Slip where
  txSeq : Nat := 0
  rxSeq : Nat := 0
  rxAny : Bool := false
  awaiting : Bool := false
  mid : SMap Nat := []
  grant : SMap Nat := []
  beats : SMap Nat := []
  sat : SMap Nat := []
  out : List Flit := []
  retry : List (Nat × Flit) := []
  resends : SMap Nat := []
  deficits : SMap Nat := []
  parts : SMap Ingress := []
  used : SMap Nat := []
  eqTries : Nat := 0
  fast : Bool := false
  detectUs : Nat := 0
  failUs : Nat := 0
  /-- LPREQ sent, LPACK awaited -/
  lpWait : Bool := false
  /-- an exit from LP is asked by this end -/
  lpOut : Bool := false
  /-- channels and classes on which a CUT leaves at the exit from LP -/
  cuts : List Nat := []
  /-- credits for the partner that go back at the exit from LP -/
  owed : SMap Nat := []
  deriving DecidableEq, Repr

/-- The router and the requesters' side of the fabric. -/
structure Fabric where
  /-- messages at the router -/
  routing : List Transit := []
  /-- messages delivered to this device, with the slip they came from -/
  inbox : List (Msg × Nat) := []
  /-- the flits that have left, each with its slip and its 256 bytes -/
  flits : List (Nat × List Byte) := []
  /-- slips on which the wake pattern has been sent -/
  wakes : List Nat := []
  reqs : List RemoteReq := []
  nextTag : Nat := 0
  slips : SMap Slip := []
  /-- the (OUID, TAG) pairs of the last 16 probes (R356) -/
  probes : List (Nat × Nat) := []
  /-- when each link die last appended a DISCARD and an EPOCHNEW record (R362, R391) -/
  discardUs : SMap (Option Nat) := []
  deriving DecidableEq, Repr

/-- A slip that nothing has touched. -/
def Slip.reset : Nat → Slip := fun _ => {}

/-! ## Collectives -/

/-- A message that a step has still to send: to which rank, of what KIND, for whose destination and at what offset; its bytes are read from `addr`
when it is sent, or stand in `data` (staged), whose sender `back` gets a credit then. -/
structure CSend where
  peer : Nat
  kind : Nat
  dest : Nat
  off : Nat
  len : Nat
  addr : Option Nat := none
  data : List Byte := []
  back : Option Nat := none
  deriving DecidableEq, Repr

/-- A collective step in progress at this member (R373). -/
structure CStep where
  eng : Nat
  id : Nat
  ctx : Nat
  gid : Nat
  step : Nat
  epoch : Nat
  ring : Bool
  instr : Nat
  xm : Nat
  et : Nat
  rop : Nat
  len : Nat
  src : Nat
  dst : Nat
  dl : Nat
  rank : Nat
  members : List Nat
  us : Nat
  /-- per rank: credits that have come, and messages sent against them, straight to its destination and to its staging -/
  credits : SMap Nat := []
  sentStraight : SMap Nat := []
  sentStaged : SMap Nat := []
  /-- ranks whose READY is awaited, and bytes awaited per rank -/
  awaitReady : List Nat := []
  awaitData : SMap Nat := []
  /-- bytes of the destination that hold their final value -/
  got : Nat := 0
  todo : List CSend := []
  /-- staged partials: rank, offset, bytes -/
  staged : List (Nat × Nat × List Byte) := []
  deriving DecidableEq, Repr

/-- The collective engines: steps in progress, descriptors waiting at an engine as (engine, descriptor), and messages held for a step that has
not begun (R375). -/
structure Coll where
  steps : List CStep := []
  waiting : List (Nat × Nat) := []
  held : List Msg := []
  deriving DecidableEq, Repr

/-! ## Flash and keys -/

/-- A flash command in progress: its ring index and its descriptor. -/
structure FlashCmd where
  index : Nat
  words : List Nat
  /-- its context has ended or been torn down since, so it adds nothing (R290) -/
  quiet : Bool := false
  deriving DecidableEq, Repr

/-- The flash translation layer, its commands and the keys of the security engine. -/
structure Flash where
  /-- the bytes of logical blocks under 4096 · LBA + i (R279) -/
  blocks : ByteMap := []
  /-- the physical block that holds a logical block, plus 1; 0 for one never written or trimmed -/
  phys : SMap Nat := []
  /-- reads of a physical block since it was last programmed (R280) -/
  reads : SMap Nat := []
  /-- logical blocks that decode after correction (1) or not at all (2) -/
  media : SMap Nat := []
  /-- FLS_STATUS, FLS_RELOC.GROWN and FLS_WEAR as the media hold them; none as manufactured (R280, R282) -/
  wear : Option (Nat × Nat × Nat) := none
  /-- the physical blocks that the FTL has retired, numbered as `phys` has them (R280) -/
  retired : List Nat := []
  cmds : List FlashCmd := []
  /-- indices completed ahead of HEAD (R289) -/
  done : List Nat := []
  /-- the key in each key slot (R287) -/
  keys : SMap (List Byte) := []
  /-- the key of each session and the number of responses sealed under it (R292, R293) -/
  sessKeys : SMap (List Byte) := []
  sessSeq : SMap Nat := []
  /-- the model command in progress: none, an unload, or a load with the model ID, digest and key that its blob gave (R296) -/
  unloading : Bool := false
  loading : Option (Option (Nat × List Byte × List Byte)) := none
  deriving DecidableEq, Repr

/-! ## Codec -/

/-- A stream slot (R304, R305): its record and owner, the holds REF and OUT and the buffers that frames in progress write, as masks of buffers, the
buffers that hold damaged frames, the frames in progress, the buffer of the frame that was output last, the inputs of its jobs so far, and which buffer holds
the frame of which of them, by their numbers from 1 on. -/
structure CSlot where
  open_ : Bool := false
  record : List Nat := []
  ctx : Nat := 0
  refs : Nat := 0
  outs : Nat := 0
  busy : Nat := 0
  damaged : Nat := 0
  infl : Nat := 0
  last : Option Nat := none
  hist : List (List Byte) := []
  frames : List (Nat × Nat) := []
  /-- its state area holds what a frame saved there (R309) -/
  saved : Bool := false
  /-- freed once its frames in progress have finished (R311) -/
  closing : Bool := false
  deriving DecidableEq, Repr

/-- How a job ended: its status, result words, and whether an error record goes with it. -/
structure CEnd where
  stat : Nat
  res0 : Nat
  res1 : Nat
  record : Bool
  deriving DecidableEq, Repr

/-- A codec job that the hub has read (R309): its ring index, descriptor and stamp, the unit that runs it with its buffer and the VCLK cycles that it has
run (R307), its end, and whether its signal is dropped (R290, R311). -/
structure CJob where
  index : Nat
  words : List Nat
  stamp : Nat
  unit : Option Nat := none
  buf : Nat := 0
  ran : Nat := 0
  ended : Option CEnd := none
  quiet : Bool := false
  deriving DecidableEq, Repr

/-- The codec and motion search. `last` is the slot of the saturated job that a unit took last (R309). -/
structure Codec where
  slots : SMap CSlot := []
  jobs : List CJob := []
  done : List Nat := []
  last : Nat := 0
  deriving DecidableEq, Repr

/-- A slot that nothing has opened. -/
def CSlot.reset : Nat → CSlot := fun _ => {}

/-! ## The configuration record -/

/-- An entry of the expected topology (R433). -/
structure TopoEntry where
  uid : Nat := 0
  slip : Nat := 0
  req : Bool := false
  deriving DecidableEq, Repr

/-- The content of a copy of the configuration record (Table 17-6). Of the training sections it says for which stacks and slips there are settings,
for a slip with its partner as 16 · UID + slip + 1. -/
structure Record where
  gen : Nat := 1
  lmsRsv : Nat := 0
  /-- the retired slots as a mask -/
  retired : Nat := 0
  hbm : Bool := false
  /-- MEM_REPAIRs, with the candidates in [31:16], and LND_REPAIRd -/
  memRepair : SMap Nat := []
  lndRepair : SMap Nat := []
  slips : SMap Nat := []
  topo : List TopoEntry := []
  deriving DecidableEq, Repr

/-- The configuration record: the bytes of its three copies (none: as manufactured), the largest generation of a copy that was intact at the last selection
or write, what the next write will hold, whether it is due, the commands that wait for the end of a write (R434), and the write in progress with the copy it stands at and whether a copy has failed (R427 to R432). `slips` are the saved slip settings in use, `newSlips` those that
wait for the next write (R338). -/
structure Dcr where
  copies : List (Option (List Byte)) := [none, none, none]
  topGen : Nat := 0
  cmds : List (Nat × Nat) := []
  next : Record := {}
  due : Bool := false
  writing : Option Record := none
  at_ : Nat := 0
  failed : Bool := false
  slips : SMap Nat := []
  newSlips : SMap Nat := []
  deriving DecidableEq, Repr

/-! ## Start, reset and power -/

/-- What is known of a firmware image: the fields SVN and VER and the digest (Table 18-7). -/
structure FwImage where
  svn : Nat
  ver : Nat
  digest : List Byte
  deriving DecidableEq, Repr

/-- The start logic (R413 to R426) with what the hub retains across a warm start (R424) and the boot area (R449). -/
structure Boot where
  /-- the module has input power, and the board straps it read then (R447) -/
  powered : Bool := false
  mid : Nat := 0
  /-- a start runs: its kind, 0 cold, 1 warm fast, 2 warm, 3 compute-only; its step, whether that is being repeated, and since when -/
  running : Bool := false
  kind : Nat := 0
  step : Nat := 0
  repeated : Bool := false
  startUs : Nat := 0
  /-- MREADY has set: BAR2 is served (R414) -/
  memReady : Bool := false
  /-- the last start reached READY; a trip, brown-out or fatal error has occurred since; the retained image, training and binding are good -/
  prevReady : Bool := false
  trouble : Bool := false
  retained : Bool := false
  /-- HUB_SLOTk and ENG_COUNT as a warm start found them -/
  binding : SMap Nat := []
  /-- the slots that passed the known-answer run, and brown-outs of a regulator during it (R418) -/
  pass : Nat := 0
  brown : SMap Nat := []
  /-- a TOPOMISMATCH and an LMS_EXHAUSTED record have been appended in this start -/
  topoSaid : Bool := false
  lmsSaid : Bool := false
  /-- uncorrectable ECC traps raised by the memory of a slot since the last cold start (Table 17-5) -/
  ueTraps : SMap Nat := []
  /-- the image of the boot area, none for the one it left manufacture with, and whether a write of it was cut off -/
  area : Option FwImage := none
  areaBad : Bool := false
  /-- the image that runs -/
  image : Option FwImage := none
  /-- MINSVN as raised by COMMITSVN; none as manufactured -/
  fuses : Option Nat := none
  /-- an image that the host pushes, and its length (R452) -/
  push : List Byte := []
  pushLen : Nat := 0
  deriving DecidableEq, Repr

/-- The power arbiter and the power controller (R392 to R409). -/
structure Power where
  /-- per consumer: the level in force, the target of the last interval, and 1 + the level a change in progress goes to -/
  level : SMap Nat := []
  target : SMap Nat := []
  moving : SMap Nat := []
  /-- per consumer: levels by which the thermal ceiling lies below the top; per die: consecutive intervals below THR - 3 -/
  drop : SMap Nat := []
  cool : SMap Nat := []
  /-- intervals for which the overdraw ceiling still holds at 0, and levels by which it lies below the top -/
  hold : Nat := 0
  overLow : Nat := 0
  /-- per group: intervals in which no raise is made (R400) -/
  blocked : SMap Nat := []
  /-- when the last interval began, when each die last appended THROTTLE, and when COOLANT was last appended -/
  lastUs : Option Nat := none
  throttleUs : SMap (Option Nat) := []
  coolantUs : Option Nat := none
  /-- the junction readings of the last interval -/
  temps : SMap Nat := []
  /-- PWR_OPPl, per consumer ACT and FLOOR, and the pool, as the last interval sampled them (R397, R411) -/
  opp : List Nat := []
  act : SMap Nat := []
  floor : SMap Nat := []
  pool : Nat := 0
  /-- per group: the level at which its ECLK stands; per consumer: the cost charged until a lowering in progress completes (R398, R399) -/
  clock : SMap Nat := []
  held : SMap Nat := []
  /-- slips with WAKEEN when P3 was entered -/
  wakeEn : Nat := 0
  /-- regulators whose rail is off, and those that a RESTART starts again -/
  dead : List Nat := []
  restarting : List Nat := []
  /-- a thermal trip holds the device in P2 until an EXIT (R401) -/
  tripped : Bool := false
  /-- an EXIT came during an entry (R401, R408) -/
  exitAsked : Bool := false
  /-- the state that an entry leads to, and the step of an exit with whether it is being repeated -/
  entry : Nat := 0
  exitStep : Nat := 0
  repeated : Bool := false
  /-- PERST# is asserted; PME_TO_Ack has been sent; the link is in L2; WAKE# is asserted (R407, R442) -/
  perst : Bool := false
  pmeAck : Bool := false
  l2 : Bool := false
  wakePin : Bool := false
  deriving DecidableEq, Repr

/-! ## The host's side -/

/-- What the SPDM responder negotiates (R453). -/
inductive SpdmAlgorithm where
  | ecdsaP384
  | sha384
  | dheSecp384r1
  | aes256Gcm
  | spdmKeySchedule
  deriving DecidableEq, Repr

/-- Its capabilities (R453). -/
inductive SpdmCapability where
  | cert
  | chal
  | measSig
  | keyEx
  | encrypt
  | mac
  | mutAuth
  | hbeat
  | keyUpd
  deriving DecidableEq, Repr

/-- An answer that leaves by DOE or MCTP. -/
inductive Answer where
  /-- measurement blocks by index, and whether they are signed with ECDSA -/
  | measurements (blocks : List (Nat × List Byte)) (signed : Bool)
  | challenge
  | certificate (slot : Nat) (chain : List Byte)
  | spdm (code : Nat) (payload : List Byte)
  /-- the SPDM version that the responder has -/
  | version (major minor : Nat)
  /-- SPDM ERROR with a code and vendor data -/
  | error (code data : Nat)
  | discovery (vendor type next : Nat)
  | capabilities (l : List SpdmCapability)
  | algorithms (l : List SpdmAlgorithm)
  | control (cmd eid : Nat)
  | sensor (value : Nat)
  | word (value : Nat)
  deriving DecidableEq, Repr

/-- A session open in progress at this device as requester: session, peer, since when, and the messages delivered so far (R459). -/
structure SessOpen where
  k : Nat
  peer : Nat
  us : Nat
  msgs : List (List Byte) := []
  deriving DecidableEq, Repr

/-- The sideband and the SPDM responder. -/
structure Sideband where
  /-- the dynamic address of an I3C target; none as an SMBus target -/
  i3c : Option Nat := none
  eid : Nat := 0
  /-- ALERT# is asserted: an MCTP answer is pending -/
  alert : Bool := false
  answers : List Answer := []
  /-- host sessions open, with the messages of each session exchange so far -/
  hostSessions : Nat := 0
  msgs : List (List Byte) := []
  opening : Option SessOpen := none
  /-- the session and peer armed by RESPOND, with since when -/
  armed : Option SessOpen := none
  deriving DecidableEq, Repr

/-- A BAR2 request that waits for the memory (R414, R426), with the device address it had when it came (R34): a read of so many bytes, or a
write. -/
inductive Bar2Req where
  | read (a n : Nat)
  | write (a : Nat) (bytes : List Byte)
  deriving DecidableEq, Repr

/-- The states of the PCI Express function (Table 18-1). -/
inductive DState where
  | d0
  | d3hot
  | d3cold
  deriving DecidableEq, Repr

/-- The capabilities that the function advertises (Table 18-1). -/
inductive PciCap where
  | powerManagement
  | pciExpress
  | msix
  | aer
  | doe
  | serialNumber
  | dataLinkFeature
  | physicalLayer (gts : Nat)
  | flitLogging
  | laneMargining
  deriving DecidableEq, Repr

/-- Severities of AER errors. -/
inductive AerSeverity where
  | correctable
  | nonFatal
  | fatal
  deriving DecidableEq, Repr

/-- A memory BAR of configuration space: the first of its two BAR registers, whether it is prefetchable, and its bytes. Each is a 64-bit BAR (R438). -/
structure PciBar where
  first : Nat
  prefetchable : Bool
  bytes : Nat
  deriving DecidableEq, Repr

/-- The limits of Table 18-1 (R437): rates in GT/s, widths in lanes, the least and the most of the payload and of a read request in bytes, bits of a tag in and
outside Flit mode, and non-posted requests outstanding. -/
structure PciLimits where
  rates : List Nat := [128, 64, 32, 16]
  widths : List Nat := [8, 4, 2, 1]
  payload : Nat × Nat := (128, 512)
  readRequest : Nat × Nat := (128, 4096)
  tagBits : Nat × Nat := (14, 10)
  outstanding : Nat := 1024
  deriving DecidableEq, Repr

/-- Configuration space: the identity of the function and its BARs, of which BAR4 and BAR5 are not implemented (R438), what it advertises (R437), and the
severities of the errors of Table 18-2 as they stand by default (R441). -/
structure PciConfig where
  vendor : Nat := 0x1F0C
  device : Nat := 0x4D25
  revision : Nat := 0xB0
  classCode : Nat := 0x120000
  subVendor : Nat := 0x1F0C
  subDevice : Nat := 0x0001
  /-- the Device Serial Number, which takes the UID with SEC_UID (R456) -/
  serial : Nat := 0
  caps : List PciCap := [.powerManagement, .pciExpress, .msix, .aer, .doe, .serialNumber, .dataLinkFeature, .physicalLayer 16, .physicalLayer 32,
    .physicalLayer 64, .physicalLayer 128, .flitLogging, .laneMargining]
  severity : List AerSeverity := [.nonFatal, .nonFatal, .nonFatal, .nonFatal, .fatal, .correctable]
  bars : List PciBar := [⟨0, false, 2 ^ 26⟩, ⟨2, true, 2 ^ 36⟩]
  limits : PciLimits := {}
  deriving DecidableEq, Repr

/-- The PCI Express function, its interrupts and what the device has sent to the host. -/
structure HostPort where
  config : PciConfig := {}
  dState : DState := .d0
  /-- the completion of the last read that a host or sideband made -/
  readData : Word64 := 0#64
  /-- bytes a BAR2 read returned, and whether the completion carried EP (R271) -/
  readBytes : List Byte := []
  readPoison : Bool := false
  /-- MSI-X Enable and Function Mask of the MSI-X capability -/
  msixEnable : Bool := false
  msixMask : Bool := false
  /-- messages sent: (address, data) -/
  msixSent : List (Nat × Nat) := []
  /-- AER errors reported, by their numbers (see reportAer), with the severity that stood -/
  aer : List (Nat × AerSeverity) := []
  /-- BAR2 requests that wait, oldest first -/
  held : List Bar2Req := []
  deriving DecidableEq, Repr

/-- A fundamental reset of the function leaves it in a D-state, with the default severities. DESIGN CHOICE (log entry 152): they do not outlast it. -/
def HostPort.functionReset (h : HostPort) (d : DState) : HostPort :=
  { h with dState := d, config := { h.config with severity := ({} : PciConfig).severity } }

/-! ## The machine -/

/-- The device. -/
structure State where
  /-- BAR0 registers under their byte offsets -/
  regs : SMap Word32 := []
  engines : SMap Engine := []
  mem : Mem := {}
  /-- words 0 and 1 of a map entry before its writes, while copies of it may still hold them (R250) -/
  mapOld : SMap (Option (Nat × Nat)) := []
  /-- MEM_LATEs of the twelve stacks, then LND_LATEd of the two dies (R258) -/
  lates : List Nat := List.replicate 14 0
  ctxs : SMap Ctx := []
  kv : Kv := {}
  sched : Sched := {}
  fabric : Fabric := {}
  coll : Coll := {}
  flash : Flash := {}
  codec : Codec := {}
  host : HostPort := {}
  dcr : Dcr := {}
  boot : Boot := {}
  power : Power := {}
  side : Sideband := {}
  /-- slots whose tile or accumulator memory showed an uncorrectable error in the access being made -/
  ueNow : List Nat := []
  /-- the holding register of each counter TLY_En_s, under its offset (R469) -/
  tlyHold : SMap Nat := []
  /-- a compute-only reset is in progress (R425) -/
  compReset : Bool := false
  /-- MATE# has opened and power-fail is signalled (R446) -/
  powerFail : Bool := false
  /-- the sequence number the next error takes (Table 13-6) -/
  errSeq : Nat := 0
  /-- microseconds since the last cold reset, and since HUB_STATUS.READY left 0 -/
  us : Nat := 0
  /-- identifier the next Skidder descriptor takes -/
  nextId : Nat := 0
  /-- the model's own counter behind its free values -/
  free : Nat := 0
  /-- commands waiting, first in first out -/
  pending : List Instr := []
  deriving DecidableEq, Repr

/-- The device before input power: every register at the reset value that RegMap gives it, every unit untouched, no command waiting.
DESIGN CHOICE: the host has enabled MSI-X, for which no command stands. -/
def State.reset : State :=
  let h : HostPort := { msixEnable := true }
  let s : State := { host := h }
  s

/-- What stops a run with a fault. -/
inductive Fault where
  /-- raised by no meaning: the device reports every error in its own registers and goes on. Safe: nothing answers it. -/
  | none
  deriving DecidableEq, Repr

/-- What stops a run with a refusal. -/
inductive Refusal where
  /-- raised by Dispatch for a command without a meaning, of which there is none. Safe. -/
  | notModelled (mnemonic : String)
  deriving DecidableEq, Repr

end Sys2Proof.Machine
end

