-- ==== Sys2Proof/Machine/Ops.lean ====
section
/-! DEFINITION. The named operations every meaning is written over: reading and writing a register and its fields, an engine,
a context; semaphores, tallies and flags; error records and interrupts; raising a trap. -/

namespace Sys2Proof.Machine

/-! ## Registers -/

namespace Off
def idrev : Nat := 0x0
def hubStatus : Nat := 0x4
def engCount : Nat := 0x8
def hubReset : Nat := 0xC
def hubRstctl : Nat := 0x10
def hubStartms : Nat := 0x14
def hubDcr : Nat := 0x18
def hubDcrgen : Nat := 0x20
def hubDcrcmd : Nat := 0x28
def hubRetire : Nat := 0x30
def bar2Base : Nat := 0x40
def bar2Hole : Nat := 0x44
def hostBase : Nat := 0x48
def slotReg (k : Nat) : Nat := 0x100 + 4 * k
def irqStat : Nat := 0x400
def irqEn : Nat := 0x404
def irqVec (i : Nat) : Nat := 0x440 + 4 * i
def recov : Nat := 0x500
def recovArg : Nat := 0x504
def msixEntry (v : Nat) : Nat := 0x8000 + 16 * v
def msixPba (v : Nat) : Nat := 0x9000 + 4 * (v / 32)
def errStatus : Nat := 0x200000
def errTail : Nat := 0x200004
def errHead : Nat := 0x200008
def errOvf : Nat := 0x20000C
def errFatal : Nat := 0x200010
def errFirst (w : Nat) : Nat := 0x200100 + 8 * w
def errRec (i w : Nat) : Nat := 0x201000 + 32 * i + 8 * w
def workRing : Nat := 0x300000
def workCtl : Nat := 0x300008
def workTail : Nat := 0x30000C
def workHead : Nat := 0x300010
/-- The register at an offset within the block of context `c` (Table 13-10). -/
def ctxReg (c o : Nat) : Nat := 0x301000 + 0x40 * c + o
def widenBudget : Nat := 0x307F00
def widenUsed : Nat := 0x307F04
def widenStatus : Nat := 0x307F08
/-- The register at an offset within the block of error monitor `n` (Tables 5-11 to 5-15). -/
def monReg (n o : Nat) : Nat := 0x308000 + 0x40 * n + o
def boomBase : Nat := 0x30C000
def boomUnits : Nat := 0x30C008
def boomScale : Nat := 0x30C010
def kvMv9 : Nat := 0x30C018
def kvChg : Nat := 0x30C020
def kvStat : Nat := 0x30C028
def ferryRing : Nat := 0x30C040
def ferryCtl : Nat := 0x30C048
def ferryTail : Nat := 0x30C04C
def ferryHead : Nat := 0x30C050
def ferryCnt : Nat := 0x30C054
def ferryHost : Nat := 0x30C058
def ferryHscl : Nat := 0x30C060
def kvAbsent (c : Nat) : Nat := 0x30C200 + 8 * c
def map0 (n : Nat) : Nat := 0x3000000 + 16 * n
def map1 (n : Nat) : Nat := 0x3000008 + 16 * n
def mapStat : Nat := 0x3000400
/-- The register at an offset within the block of HBM stack `s` (Table 10-6). -/
def memReg (s o : Nat) : Nat := 0x3001000 + 0x100 * s + o
/-- The register at an offset within the Landing block of die `d` (Table 10-7). -/
def lndReg (d o : Nat) : Nat := 0x3800000 + 0x10000 * d + o
def dalloc (d k : Nat) : Nat := lndReg d (0x100 + 8 * k)
def tlyWidenDenied : Nat := 0x3C00000
def tlyTblBusy : Nat := 0x3C00004
def tlyNegVar : Nat := 0x3C00008
def tly (n s : Nat) : Nat := 0x3C01000 + 0x80 * n + 8 * s
end Off

namespace State

/-- The 32-bit word at a BAR0 offset, as a number. -/
def reg (s : State) (off : Nat) : Nat := (SMap.get regReset s.regs off).toNat

/-- Sets the 32-bit word at a BAR0 offset. -/
def setReg (s : State) (off v : Nat) : State :=
  { s with regs := SMap.set regReset s.regs off (BitVec.ofNat 32 v) }

/-- The field [hi:lo] of the word at an offset. -/
def fld (s : State) (off hi lo : Nat) : Nat := bits (s.reg off) hi lo

/-- Sets the field [hi:lo] of the word at an offset. -/
def setFld (s : State) (off hi lo v : Nat) : State := s.setReg off (putBits (s.reg off) hi lo v)

/-- A 64-bit register: the low word stands at the lower offset (R11). -/
def reg64 (s : State) (off : Nat) : Nat := s.reg off + 2 ^ 32 * s.reg (off + 4)

/-- Sets a 64-bit register. -/
def setReg64 (s : State) (off v : Nat) : State := (s.setReg off v).setReg (off + 4) (v / 2 ^ 32)

/-- The field [hi:lo] of the 64-bit register at an offset. -/
def fld64 (s : State) (off hi lo : Nat) : Nat := bits (s.reg64 off) hi lo

/-- Sets the field [hi:lo] of the 64-bit register at an offset. -/
def setFld64 (s : State) (off hi lo v : Nat) : State := s.setReg64 off (putBits (s.reg64 off) hi lo v)

/-- Counts `n` events in the field [hi:lo], which holds at its largest value (R471). -/
def count (s : State) (off hi lo n : Nat) : State :=
  s.setFld off hi lo (min (s.fld off hi lo + n) (2 ^ (hi + 1 - lo) - 1))

/-- Counts `n` events in a 64-bit counter, which holds at its largest value (R471). -/
def count64 (s : State) (off n : Nat) : State := s.setReg64 off (min (s.reg64 off + n) (2 ^ 64 - 1))

/-! ## Units -/

/-- Logical engine `n`. -/
def eng (s : State) (n : Nat) : Engine := SMap.get Engine.reset s.engines n

/-- Replaces logical engine `n`. -/
def setEng (s : State) (n : Nat) (e : Engine) : State :=
  { s with engines := SMap.set Engine.reset s.engines n e }

/-- Changes logical engine `n`. -/
def modEng (s : State) (n : Nat) (f : Engine → Engine) : State := s.setEng n (f (s.eng n))

/-- Context `c`. -/
def ctx (s : State) (c : Nat) : Ctx := SMap.get Ctx.reset s.ctxs c

/-- Replaces context `c`. -/
def setCtx (s : State) (c : Nat) (x : Ctx) : State := { s with ctxs := SMap.set Ctx.reset s.ctxs c x }

/-- Changes context `c`. -/
def modCtx (s : State) (c : Nat) (f : Ctx → Ctx) : State := s.setCtx c (f (s.ctx c))

/-- SCH_CTXc_CTL.STATE (Table 13-1). -/
def ctxState (s : State) (c : Nat) : Nat := s.fld (Off.ctxReg c 0) 26 24

/-- Moves a context to a state of Table 13-1. -/
def setCtxState (s : State) (c v : Nat) : State := s.setFld (Off.ctxReg c 0) 26 24 v

/-- HUB_STATUS.READY. -/
def ready (s : State) : Bool := s.fld Off.hubStatus 31 31 == 1

/-- A device-fatal error has been contained (R333). -/
def fatal (s : State) : Bool := s.fld Off.hubStatus 30 30 == 1

/-! ## Interrupts (R443) -/

/-- Sends MSI-X vector `v` under the standard's masking rules: a masked vector sets its pending bit instead. -/
def sendVector (s : State) (v : Nat) : State :=
  if !s.host.msixEnable then s
  else if s.host.msixMask || s.fld (Off.msixEntry v + 12) 0 0 == 1 then
    s.setFld (Off.msixPba v) (v % 32) (v % 32) 1
  else { s with host := { s.host with
    msixSent := s.host.msixSent ++ [(s.reg64 (Off.msixEntry v), s.reg (Off.msixEntry v + 8))] } }

/-- Event of interrupt source `i`: a bit of HUB_IRQSTAT that goes from 0 to 1 sends the source's vector when enabled. -/
def raiseIrq (s : State) (i : Nat) : State :=
  if s.fld Off.irqStat i i == 1 then s
  else
    let s1 := s.setFld Off.irqStat i i 1
    if s.fld Off.irqEn i i == 1 then s1.sendVector (s.fld (Off.irqVec i) 7 0) else s1

/-! ## Error records (R328 to R330) -/

/-- Word 0 of an error record (Table 13-6). ENG 0x7F and CV 0 where there is none. -/
def recordWord0 (src code sev : Nat) (ctx eng : Option Nat) (seq : Nat) : Nat :=
  (src % 256) * 2 ^ 56 + (code % 256) * 2 ^ 48 + (sev % 4) * 2 ^ 46
    + (if ctx.isSome then 2 ^ 45 else 0) + (ctx.getD 0 % 64) * 2 ^ 39 + (eng.getD 0x7F % 128) * 2 ^ 32 + seq % 2 ^ 32

/-- Writes four 64-bit words from an offset up. -/
def setWords (s : State) (off : Nat) (w0 w1 w2 w3 : Nat) : State :=
  (((s.setReg64 off w0).setReg64 (off + 8) w1).setReg64 (off + 16) w2).setReg64 (off + 24) w3

/-- Appends an error record, or drops it while 64 records are unacknowledged; either takes the next SEQ and raises source
ERRREC. The first record since FIRSTV was cleared is copied to ERR_FIRST. -/
def appendRecord (s : State) (src code sev : Nat) (ctx eng : Option Nat) (info aux : Nat) : State :=
  let w0 := recordWord0 src code sev ctx eng s.errSeq
  let s0 := { s with errSeq := (s.errSeq + 1) % 2 ^ 32 }
  let tail := s.fld Off.errTail 7 0
  let pend := (tail + 256 - s.fld Off.errHead 7 0) % 256
  if 64 ≤ pend then (s0.count Off.errOvf 31 0 1).raiseIrq 4
  else
    let s1 := s0.setWords (Off.errRec (tail % 64) 0) w0 info aux s.us
    let s2 := (s1.setFld Off.errTail 7 0 (tail + 1)).setFld Off.errStatus 6 0 (pend + 1)
    let s3 := if s.fld Off.errStatus 31 31 == 1 then s2
      else (s2.setWords (Off.errFirst 0) w0 info aux s.us).setFld Off.errStatus 31 31 1
    s3.raiseIrq 4

/-! ## Tallies -/

/-- Counts events of an engine tally: in the context's count on the engine (R133) and in the host's view (R468). -/
def tally (s : State) (e sel n : Nat) : State :=
  if n = 0 || !(s.eng e).online then s
  else (s.modEng e fun g => { g with
      tallies := SMap.set (fun _ => 0) g.tallies sel (min (SMap.get (fun _ => 0) g.tallies sel + n) (2 ^ 64 - 1)) }).count64
    (Off.tly e sel) n

/-- Counts events of an engine tally in the host's view alone: the context that caused them no longer runs on the engine (R133, R468). -/
def tallySlot (s : State) (e sel n : Nat) : State := if n = 0 || !(s.eng e).online then s else s.count64 (Off.tly e sel) n

/-- Draws a value that the specification leaves open. -/
def draw (s : State) : State × Nat := ({ s with free := s.free + 1 }, Config.freeNat s.free)

/-- Sets sticky numeric flags (R93). -/
def raiseFlags (s : State) (e : Nat) (f : Flags) : State := s.modEng e fun g => { g with flags := g.flags ||| f }

end State

/-! ## Power (R404) -/

/-- PWR_STATE.STATE as stored: 2 P2, 3 P3; P0 and P1 alternate on their own. -/
def powerState (s : State) : Nat := s.fld 0x100008 1 0
/-- PWR_STATE.PHASE: 0 steady, 1 entering, 2 exiting. -/
def powerPhase (s : State) : Nat := s.fld 0x100008 3 2

/-- The function takes no memory request: in P3, in L2 and while PERST# is asserted (R406, R442), and in D3hot, where it serves configuration requests alone
(Table 18-1, log 128). -/
def hostSilent (s : State) : Bool := powerState s == 3 || s.power.perst || s.host.dState != .d0

namespace State

/-- How the block of an offset answers now (R464). -/
def service (s : State) (off : Nat) : Service :=
  blockService (s.fld 0x100008 1 0 == 3) s.fatal (s.fld 0x100008 1 0 == 2) s.ready off

/-- A host write reaches the registers of the block. From 0x0030_0000 on BAR0 alone leads there, which is silent in L2 (R442); below that the sideband does as
well (R464). -/
def writable (s : State) (off : Nat) : Bool := decide (s.service off = .served) && (decide (off < 0x300000) || !hostSilent s)

end State

/-- HBM does not answer the device's units: it is power-gated in P2, or a compute-only reset has it in self-refresh (R404, R426). -/
def memDown (s : State) : Bool := powerState s == 2 || (s.compReset && !s.boot.memReady)

/-! ## Registers of an engine -/

namespace RegFile

/-- s[n]; s0 reads as zero (Table 3-1). -/
def getS (r : RegFile) (n : Nat) : Nat := if n = 0 then 0 else (SMap.get (fun _ => 0#64) r.s n).toNat
/-- Writes s[n]; a write to s0 is discarded. -/
def setS (r : RegFile) (n v : Nat) : RegFile :=
  if n = 0 then r else { r with s := SMap.set (fun _ => 0#64) r.s n (BitVec.ofNat 64 v) }
/-- a[n]. -/
def getA (r : RegFile) (n : Nat) : Nat := (SMap.get (fun _ => 0#48) r.a n).toNat
/-- Writes a[n] modulo 2^48. -/
def setA (r : RegFile) (n v : Nat) : RegFile := { r with a := SMap.set (fun _ => 0#48) r.a n (BitVec.ofNat 48 v) }
/-- p[n]; p0 reads as 1. -/
def getP (r : RegFile) (n : Nat) : Bool := if n = 0 then true else SMap.get (fun _ => false) r.p n
/-- Writes p[n]; a write to p0 is discarded. -/
def setP (r : RegFile) (n : Nat) (v : Bool) : RegFile :=
  if n = 0 then r else { r with p := SMap.set (fun _ => false) r.p n v }
/-- t[n]. -/
def getT (r : RegFile) (n : Nat) : Nat := (SMap.get (fun _ => 0#64) r.t n).toNat
/-- Writes t[n]. -/
def setT (r : RegFile) (n v : Nat) : RegFile := { r with t := SMap.set (fun _ => 0#64) r.t n (BitVec.ofNat 64 v) }
/-- tN.BASE, tN.LEN and tN.PITCH (Table 3-2). -/
def tBase (r : RegFile) (n : Nat) : Nat := bits (r.getT n) 22 0
def tLen (r : RegFile) (n : Nat) : Nat := bits (r.getT n) 45 23
def tPitch (r : RegFile) (n : Nat) : Nat := bits (r.getT n) 59 46

end RegFile

/-- Tile memory is 6,291,456 bytes; a tile address is reduced modulo this (R50). -/
def tileSize : Nat := 6291456

namespace Engine

/-- Semaphore q[i]. -/
def sem (g : Engine) (i : Nat) : Nat := (SMap.get (fun _ => 0#16) g.sems i).toNat

/-- Sets semaphore q[i]. -/
def setSem (g : Engine) (i v : Nat) : Engine := { g with sems := SMap.set (fun _ => 0#16) g.sems i (BitVec.ofNat 16 v) }

/-- Adds to a semaphore: an addition that would pass 0xFFFF leaves 0xFFFF and sets SEM_SAT (R61). -/
def semAdd (g : Engine) (i v : Nat) : Engine :=
  if g.sem i + v ≤ 0xFFFF then g.setSem i (g.sem i + v)
  else { g.setSem i 0xFFFF with semSat := true }

/-- The entries of issue queue `q`. -/
def queue (g : Engine) (q : Nat) : List QEntry := SMap.get (fun _ => []) g.queues q

/-- Replaces the entries of issue queue `q`. -/
def setQueue (g : Engine) (q : Nat) (l : List QEntry) : Engine := { g with queues := SMap.set (fun _ => []) g.queues q l }

/-- Instructions that hold a place of issue queue `q`: the deferred entries that a WGDRAIN has brought before it hold none (R60, R131). -/
def places (g : Engine) (q : Nat) : Nat := ((g.queue q).filter fun x => !x.wg).length

/-- The four issue queues are empty. -/
def queuesEmpty (g : Engine) : Bool :=
  (g.queue 0).isEmpty && (g.queue 1).isEmpty && (g.queue 2).isEmpty && (g.queue 3).isEmpty

/-- Descriptors that hold a place in a Skidder queue: a deferred KVMAP does not (R56). -/
def occupancy (l : List SkEntry) : Nat := (l.filter fun x => decide (x.stage ≠ .deferred)).length

/-- Both Skidder queues are idle. -/
def skidderIdle (g : Engine) : Bool := occupancy g.fillQ == 0 && occupancy g.spillQ == 0

/-- Everything an instruction issued has ended; the deferred weight-gradient queue is empty too (R132). -/
def quiet (g : Engine) : Bool := g.queuesEmpty && g.skidderIdle && g.deferred.isEmpty

/-- The descriptors of a Skidder queue that a stop leaves to end, their semaphore additions suppressed: those that have started, a KVMAP in the
deferral buffer among them (R102, R236). -/
def runOn (l : List SkEntry) : List SkEntry :=
  (l.filter fun x => decide (x.stage = .started) || decide (x.stage = .deferred)).map fun x => { x with quiet := true }

/-- Steps 1 to 3 of R102: nothing more issues, waiting instructions and deferred entries are discarded, transfers already
started run on. -/
def stop (g : Engine) (st : IssueState) : Engine :=
  { g with
    issue := st
    queues := []
    deferred := []
    fillQ := runOn g.fillQ
    spillQ := runOn g.spillQ }

end Engine

namespace State

/-- The contexts states in which a teardown may begin (Table 13-2, R327). -/
def tearable (v : Nat) : Bool := v == 1 || v == 2 || v == 3 || v == 4 || v == 5

/-- Steps 1 and 2 of R327: the context moves to TEARDOWN, its pre-emption request is withdrawn, and every engine of its set
stops. No second teardown begins in a context that is in one (R331), and none after containment, where context states hold (R333). A deferred KVMAP of the
context adds nothing (R102). -/
def beginTeardown (s : State) (c cause : Nat) : State :=
  if s.fatal || !tearable (s.ctxState c) then s
  else
    let s1 := (s.setCtxState c 6).modCtx c fun x =>
      { x with preempt := false, resuming := false, cause := cause, tearUs := s.us }
    let s2 := (s.ctx c).members.foldl (fun t e => t.modEng e fun g =>
      g.stop (if g.issue = .faulted then .faulted else .torn)) s1
    { s2 with kv := { s2.kv with edits := s2.kv.edits.map fun d => if d.ctx = c then { d with quiet := true } else d } }

/-- Sets a pre-emption request of a RUNNING context, which moves to STOPPING (R320). -/
def requestPreempt (s : State) (c : Nat) : State :=
  if s.ctxState c = 2 then
    (s.setCtxState c 3).modCtx c fun x => { x with preempt := true, reqUs := s.us }
  else s

/-- Notes that tile or accumulator memory of engine `e` showed an uncorrectable error. -/
def noteUe (s : State) (e : Nat) (bad : Bool) : State :=
  if bad && !s.ueNow.contains (s.eng e).slot then { s with ueNow := s.ueNow ++ [(s.eng e).slot] } else s

/-- An ECC trap counts at every slot whose memory caused it (Table 17-5). -/
def countUe (s : State) (code : Nat) : State :=
  let b := s.boot
  let t := if code = 4 then s.ueNow.foldl (fun m k => SMap.set (fun _ => 0) m k (SMap.get (fun _ => 0) m k + 1)) b.ueTraps else b.ueTraps
  { s with boot := { b with ueTraps := t }, ueNow := [] }

/-- Raises a trap on engine `e`: ENG_FAULT takes it when VALID is 0 (R65), a record is appended, and a stopping trap stops the
engine and begins the teardown of its context (R102). `info` is the address of the trapping instruction. -/
def raiseTrap (s0 : State) (e code info aux : Nat) : State :=
  let s := s0.countUe code
  let g := s.eng e
  let s1 := if g.faultValid then s
    else s.setEng e { g with faultValid := true, faultCtx := g.ctx, faultCode := code }
  let s2 := s1.appendRecord 0x01 code (if code = 5 then 0 else 1) (some g.ctx) (some e) info aux
  if code = 5 then s2
  else (s2.modEng e fun h => h.stop .faulted).beginTeardown g.ctx (0x0100 + code)

end State

end Sys2Proof.Machine
end

