-- ==== Sys2Proof/Machine/Mem.lean ====
section
/-! DEFINITION. The device address space: interleave maps (R247, R248), who reaches which region (Table 1-7), reads and writes
with their ECC and poison rules (R246, R270 to R272), the lines that walks pin (R238), and the memory-side adders (R262). -/

namespace Sys2Proof.Machine

/-- The memories stand in canonical form: equal contents are equal data. -/
def Mem.wf (m : Mem) : Bool :=
  SMap.wf zeroByte m.hbm && SMap.wf noMark m.hbmErr && SMap.wf zeroByte m.landing && SMap.wf noMark m.landErr && SMap.wf noMark m.cached &&
    SMap.wf hostUnread m.host

/-- 72 GiB, the bytes of one stack. -/
def stackSize : Nat := 72 * 2 ^ 30
/-- 864 GiB, the bytes of the HBM region. -/
def hbmSize : Nat := 12 * stackSize

/-- Who makes an access; of a collective engine, whether a failure of the step that it is for raises a trap. -/
inductive Requester where
  | skidder (e : Nat)
  | ferry
  | codec
  | flash
  | sched
  | coll (trap : Bool)
  | remote
  | bar2
  deriving DecidableEq, Repr

/-- What stands at a device address: a byte of a stack, of a direct Landing allocation, of an engine's tile memory, of host
memory, or nothing. -/
inductive Place where
  | hbm (k : Nat)
  | landing (k : Nat)
  | tile (e x : Nat)
  | host (h : Nat)
  | hole
  deriving DecidableEq, Repr

/-- How a read or write ended: done, an access to a hole or a failed host read, an uncorrectable or poisoned line, or host
data that has not arrived yet. -/
inductive MemEnd where
  | ok
  | hole
  | ecc
  | wait
  deriving DecidableEq, Repr

/-- The part of a map entry's rule that decides coverage: 12 or 6 stacks (R248). -/
def mapStacks (mode : Nat) : Nat := if mode = 0 then 12 else 6

/-- Where entry (word 0, word 1) places a device address: stack · 72 GiB + offset in the stack (R248). -/
def mapPlace (w0 w1 a : Nat) : Option Nat :=
  let mode := bits w0 62 61
  let k := mapStacks mode
  let first := if mode = 2 then 6 else 0
  let lo := bits w0 18 0 * 2 ^ 21
  let u := a - lo
  if !bit w0 63 || a < lo || k * bits w1 15 0 * 2 ^ 21 ≤ u then none
  else
    let l := u / 256
    let g := l / k
    let r := l % k
    let i := (r + g + g / 64 + g / 4096) % k
    some ((first + i) * stackSize + (bits w1 31 16 * 2 ^ 21 + g * 256 + u % 256))

/-- A byte of a stack within its channels (R248): the line in the stack, its channel, and the line's index within the channel. -/
def channelPlace (off : Nat) : Nat × Nat × Nat :=
  let line := off / 64
  (line, (line ^^^ (line >>> 5) ^^^ (line >>> 10)) % 32, line >>> 5)

/-- No entry has an old value in a copy. -/
def noOld : Nat → Option (Nat × Nat) := fun _ => none

/-- The words of entry `n` that translate a request for address `a`: while a copy may be old, which value it holds is free, for a line as a whole (R250,
Table 10-5). -/
def entryWords (s : State) (n a : Nat) : Nat × Nat :=
  match SMap.get noOld s.mapOld n with
  | some w => if Config.mapStale s.free n (a / 64) then w else (s.reg64 (Off.map0 n), s.reg64 (Off.map1 n))
  | none => (s.reg64 (Off.map0 n), s.reg64 (Off.map1 n))

/-- The first of the entries from `n` up that covers an address, with its number (R247). -/
def mapFind (s : State) (a : Nat) : Nat → Nat → Option (Nat × Nat)
  | 0, _ => none
  | fuel + 1, n =>
    match mapPlace (entryWords s n a).1 (entryWords s n a).2 a with
    | some k => some (n, k)
    | none => mapFind s a fuel (n + 1)

/-- The HBM byte that the lowest-numbered valid covering entry gives for an address. -/
def hbmPlace (s : State) (a : Nat) : Option Nat := (mapFind s a 64 0).map (·.2)

/-- A valid direct allocation of die `d` covers offset `x` of its Landing (R28, R267). -/
def dallocCovers (s : State) (d x : Nat) : Bool :=
  (List.range 16).any fun k =>
    let w := s.reg64 (Off.dalloc d k)
    bit w 63 && decide (bits w 12 0 * 2 ^ 16 ≤ x) && decide (x < (bits w 12 0 + bits w 29 16) * 2 ^ 16)

/-- The place a device address reaches (Table 1-7, R29, R30). DESIGN CHOICE (log entry 113): the tile memory of a logical engine that is offline or not
below ENG_COUNT is a hole. -/
def place (s : State) (a : Nat) : Place :=
  if a < hbmSize then
    match hbmPlace s a with
    | some k => .hbm k
    | none => .hole
  else if 0x010000000000 ≤ a && a < 0x010040000000 then
    let x := a - 0x010000000000
    if dallocCovers s (x / 2 ^ 29) (x % 2 ^ 29) then .landing x else .hole
  else if 0x020000000000 ≤ a && a < 0x020030000000 then
    let x := a - 0x020000000000
    if decide (x % 2 ^ 23 < tileSize) && (s.eng (x / 2 ^ 23)).online then .tile (x / 2 ^ 23) (x % 2 ^ 23) else .hole
  else if 0x800000000000 ≤ a && a < 0x1000000000000 then
    .host ((s.fld64 Off.hostBase 63 12 * 4096 + (a - 0x800000000000)) % 2 ^ 64)
  else .hole

/-- Whether a requester reaches a place (the last column of Table 1-7, R32). -/
def reaches (r : Requester) (p : Place) : Bool :=
  match p with
  | .hole => false
  | .hbm _ => true
  | .landing _ => decide (r ≠ .bar2)
  | .tile _ _ => match r with
    | .skidder _ => true
    | _ => false
  | .host _ => match r with
    | .skidder _ | .ferry | .codec | .flash => true
    | _ => false

/-- The places of `n` bytes from `a` up. DESIGN CHOICE (log entry 153): those past 2^48 - 1 are holes; nothing wraps. -/
def places (s : State) (a n : Nat) : List Place := (List.range n).map fun i => place s (a + i)

/-- The value at a place; what has not arrived from the host reads as 0 here and is reported by `readEnd`. -/
def placeByte (s : State) : Place → Byte
  | .hbm k => s.mem.hbm.rd k
  | .landing k => s.mem.landing.rd k
  | .tile e x => (s.eng e).tile.rd x
  | .host h => match SMap.get hostUnread s.mem.host h with
    | .data b => b
    | _ => 0#8
  | .hole => 0#8

/-- Removes equal neighbours. -/
def dedup : List Nat → List Nat
  | a :: b :: t => if a = b then dedup (b :: t) else a :: dedup (b :: t)
  | l => l

/-- The HBM lines that a list of places touches, as (line of the stack space, device address of the line), in order. -/
def hbmLines (a : Nat) (ps : List Place) : List (Nat × Nat) :=
  let all := (ps.zipIdx).filterMap fun (p, i) => match p with
    | .hbm k => some (k / 64, (a + i) / 64 * 64)
    | _ => none
  all.foldl (fun acc x => if acc.any (fun y => y.1 == x.1) then acc else acc ++ [x]) []

/-- The 64-bit words of Landing memory that a list of places touches. -/
def landWords (ps : List Place) : List Nat :=
  dedup (ps.filterMap fun p => match p with
    | .landing k => some (k / 8)
    | _ => none)

/-- The 64-bit words of engine tile memory that a list of places touches. -/
def tileWords (ps : List Place) : List (Nat × Nat) :=
  (ps.filterMap fun p => match p with
    | .tile e x => some (e, x / 8)
    | _ => none).foldl (fun acc x => if acc.contains x then acc else acc ++ [x]) []

/-- The stack of a line of the stack space. -/
def lineStack (line : Nat) : Nat := line / (stackSize / 64)

/-- A row may become a repair candidate of its stack (R274). The spec leaves the division of a line's position into rows open, so whether this
line's row is one not yet recorded is a free value. -/
def repairCandidate (s : State) (st : Nat) : State :=
  let x := s.draw
  x.1.count (Off.memReg st 0x1C) 31 16 (x.2 % 2)

/-- A new uncorrectable or poisoned line: UE counts, the first address is held in MEM_UEADDRs, the line is poisoned, and a
record of source HBM is appended unless the block that traps appends its own (R271, R329). -/
def hbmUe (s : State) (line dev code : Nat) (record : Bool) : State :=
  let st := lineStack line
  let s0 := if SMap.get noMark s.mem.hbmErr line = 2 then repairCandidate s st else s
  let s1 := (s0.count (Off.memReg st 8) 31 16 1)
  let s2 := if bit (s1.reg64 (Off.memReg st 0x10)) 63 then s1
    else s1.setReg64 (Off.memReg st 0x10) (2 ^ 63 + dev % 2 ^ 48)
  let s3 := { s2 with mem := { s2.mem with hbmErr := SMap.set noMark s2.mem.hbmErr line 3 } }
  if record then s3.appendRecord 0x03 code 2 none none dev 0 else s3

/-- A corrected line: CE counts and the controller writes the line back (R270); past 16 corrected errors since CE was last read, its row may
become a repair candidate (R274). -/
def hbmCe (s : State) (line : Nat) : State :=
  let st := lineStack line
  let s1 := s.count (Off.memReg st 8) 15 0 1
  let s2 := if 16 < s1.fld (Off.memReg st 8) 15 0 then repairCandidate s1 st else s1
  { s2 with mem := { s2.mem with hbmErr := SMap.set noMark s2.mem.hbmErr line 0 } }

/-- Whether a requester's own trap stands for the record of an uncorrectable line (R329). -/
def trapsItself : Requester → Bool
  | .skidder _ | .coll true => true
  | _ => false

/-- ECC of the HBM lines read. -/
def eccHbm (r : Requester) : List (Nat × Nat) → State × Bool → State × Bool
  | [], x => x
  | (line, dev) :: t, (s, bad) =>
    let m := SMap.get noMark s.mem.hbmErr line
    if m = 0 then eccHbm r t (s, bad)
    else if m = 1 then eccHbm r t (hbmCe s line, bad)
    else eccHbm r t (hbmUe s line dev 0x01 (!trapsItself r), true)

/-- ECC of the direct Landing words read (R272): single-bit errors are corrected and counted, a double-bit error is handled as
R271 says, with a record of source Landing. -/
def eccLanding (r : Requester) : List Nat → State × Bool → State × Bool
  | [], x => x
  | w :: t, (s, bad) =>
    let m := SMap.get noMark s.mem.landErr w
    let d := w * 8 / 2 ^ 29
    if m = 0 then eccLanding r t (s, bad)
    else if m = 1 then eccLanding r t (s.count (Off.lndReg d 0x18) 15 0 1, bad)
    else
      let s1 := if trapsItself r then s
        else s.appendRecord 0x04 0x01 2 none none (0x010000000000 + w * 8) 0
      eccLanding r t (s1, true)

/-- ECC of tile-memory words read through the device address space (R52). -/
def eccTile : List (Nat × Nat) → State × Bool → State × Bool
  | [], x => x
  | (e, w) :: t, (s, bad) =>
    let m := SMap.get noMark (s.eng e).tileErr w
    if m = 0 then eccTile t (s, bad)
    else if m = 1 then eccTile t ((s.modEng e fun g => { g with eccCe := true }).tally e 6 1, bad)
    else eccTile t (s.noteUe e true, true)

/-- How the host bytes among the places stand. -/
def hostEnd (s : State) (ps : List Place) : MemEnd :=
  let hs := ps.filterMap fun p => match p with
    | .host h => some (SMap.get hostUnread s.mem.host h)
    | _ => none
  if hs.any (fun h => decide (h = .failed)) then .hole
  else if hs.any (fun h => decide (h = .unread)) then .wait
  else .ok

/-- Reads `n` bytes from device address `a`. -/
def memRead (s : State) (r : Requester) (a n : Nat) : State × MemEnd × List Byte :=
  let ps := places s a n
  if ps.any (fun p => !reaches r p) then (s, .hole, [])
  else
    match hostEnd s ps with
    | .ok =>
      let x := eccTile (tileWords ps) (eccLanding r (landWords ps) (eccHbm r (hbmLines a ps) (s, false)))
      if x.2 then (x.1, .ecc, []) else (x.1, .ok, ps.map (placeByte s))
    | e => (s, e, [])

/-! ## The Landing as a cache (R260, R266, R272) -/

/-- The number of bits set in a 16-bit mask. -/
def popcount (m : Nat) : Nat := ((List.range 16).filter fun i => bit m i).length

/-- The k-th set bit of a 16-bit mask, counted from bit 0. -/
def nthSet (m k : Nat) : Nat := ((List.range 16).filter fun i => bit m i).getD k 0

/-- The Landing partition of an HBM address under the LPART of the entry that translates it (R266). -/
def partitionOf (lpart a : Nat) : Option Nat :=
  if lpart = 0 then none
  else
    let ln := a / 64
    some (nthSet lpart ((ln ^^^ (ln >>> 16) ^^^ (ln >>> 32)) % popcount lpart))

/-- The address may be held in the Landing of die `d`: its partition is in cache mode. -/
def cacheable (s : State) (d a : Nat) : Bool :=
  match mapFind s a 64 0 with
  | none => false
  | some (n, _) =>
    match partitionOf (bits (entryWords s n a).1 60 45) a with
    | none => false
    | some p => bits (s.reg (Off.lndReg d 0)) (2 * p + 1) (2 * p) == 0

/-- Sets the mark of the copy of a line in the Landing of die `d`. -/
def setCached (s : State) (d line v : Nat) : State :=
  { s with mem := { s.mem with cached := SMap.set noMark s.mem.cached (d * 2 ^ 42 + line) v } }

/-- Lines looked up in the Landing of die `d` under a Landing policy: the lines that HBM must serve. A single-bit error in a copy is
corrected and counted; a double-bit error drops the copy and refetches it. -/
def landLookup (d lpol : Nat) : List (Nat × Nat) → State × List (Nat × Nat) → State × List (Nat × Nat)
  | [], x => x
  | (line, dev) :: t, (s, miss) =>
    if !cacheable s d dev then landLookup d lpol t (s, miss ++ [(line, dev)])
    else
      let m := SMap.get noMark s.mem.cached (d * 2 ^ 42 + line)
      let s1 := if m = 2 then s.count (Off.lndReg d 0x18) 15 0 1 else if m = 3 then s.count (Off.lndReg d 0x18) 31 16 1 else s
      if m = 1 || m = 2 then landLookup d lpol t (if lpol = 2 then setCached s1 d line 0 else s1, miss)
      else landLookup d lpol t (setCached s1 d line (if lpol = 0 then 1 else 0), miss ++ [(line, dev)])

/-- Reads `n` bytes through the Landing of die `d` under a Landing policy. -/
def memReadVia (s : State) (r : Requester) (d lpol a n : Nat) : State × MemEnd × List Byte :=
  let ps := places s a n
  if ps.any (fun p => !reaches r p) then (s, .hole, [])
  else
    match hostEnd s ps with
    | .ok =>
      let l := landLookup d lpol (hbmLines a ps) (s, [])
      let x := eccTile (tileWords ps) (eccLanding r (landWords ps) (eccHbm r l.2 (l.1, false)))
      -- a poisoned line is not kept
      let y := l.2.foldl (fun t m => if SMap.get noMark t.mem.hbmErr m.1 = 3 then setCached t d m.1 0 else t) x.1
      if x.2 then (y, .ecc, []) else (y, .ok, ps.map (placeByte s))
    | e => (s, e, [])

/-! ## Writes -/

/-- A write of bytes covers all 64 bytes of a line. -/
def wholeLine (ps : List Place) (line : Nat) : Bool :=
  (List.range 64).all fun i => ps.any fun p => decide (p = .hbm (line * 64 + i))

/-- The HBM lines of a write before its bytes land: a whole line clears its marks; a narrower write to a line with an
uncorrectable error is dropped, with a record of source HBM unless the block that traps appends its own (R271, R329). Answers the lines whose bytes are
dropped. -/
def writeLines (r : Requester) (ps : List Place) : List (Nat × Nat) → State × List Nat → State × List Nat
  | [], x => x
  | (line, dev) :: t, (s, drop) =>
    let m := SMap.get noMark s.mem.hbmErr line
    if m = 0 then writeLines r ps t (s, drop)
    else if wholeLine ps line then
      writeLines r ps t ({ s with mem := { s.mem with hbmErr := SMap.set noMark s.mem.hbmErr line 0 } }, drop)
    else if m = 1 then writeLines r ps t (hbmCe s line, drop)
    else writeLines r ps t (hbmUe s line dev 0x04 (!trapsItself r), line :: drop)

/-- Puts one byte at a place. A device write to host memory is what the host holds from then on. -/
def putPlace (s : State) (p : Place) (b : Byte) : State :=
  match p with
  | .hbm k => { s with mem := { s.mem with hbm := s.mem.hbm.wr k b } }
  | .landing k => { s with mem := { s.mem with landing := s.mem.landing.wr k b } }
  | .tile e x => s.modEng e fun g => { g with tile := g.tile.wr x b }
  | .host h => { s with mem := { s.mem with host := SMap.set hostUnread s.mem.host h (.data b) } }
  | .hole => s

/-- Puts bytes at places, leaving out the dropped HBM lines. -/
def putPlaces (drop : List Nat) : List (Place × Byte) → State → State
  | [], s => s
  | (p, b) :: t, s =>
    match p with
    | .hbm k => if drop.contains (k / 64) then putPlaces drop t s else putPlaces drop t (putPlace s p b)
    | _ => putPlaces drop t (putPlace s p b)

/-- The 64-byte lines of `n` bytes from `a`, each by the place of its first byte. -/
def lineStarts (s : State) (a n : Nat) : List Place :=
  if n = 0 then [] else (List.range ((a + n - 1) / 64 - a / 64 + 1)).map fun i => place s (64 * (a / 64 + i))

/-- A store of `n` bytes from `a` falls in a memory line that holds an entry of a walk's pinned range, under whichever device address (R238, R251). -/
def pinsStore (s : State) (w : Walk) (a n : Nat) : Bool :=
  let ls := lineStarts s w.base (8 * w.n)
  (lineStarts s a n).any fun p => decide (p ≠ .hole) && ls.contains p

/-- An ordinary store to memory lines: every active walk that pins one sets CHANGED, and its context's bit of
SCH_KV_CHG sets (R238). -/
def noteStore (s : State) (a n : Nat) : State :=
  if n = 0 then s
  else
    let hit (w : Walk) : Bool := pinsStore s w a n
    let s1 := { s with kv := { s.kv with walks := s.kv.walks.map fun w => if hit w then { w with changed := true } else w } }
    s.kv.walks.foldl (fun t w => if hit w then t.setFld64 Off.kvChg w.ctx w.ctx 1 else t) s1

/-- The Landing copies of an HBM line go (R260). -/
def invalidate (s : State) (line : Nat) : State :=
  { s with mem := { s.mem with cached := SMap.set noMark (SMap.set noMark s.mem.cached line 0) (2 ^ 42 + line) 0 } }

/-- The compute die from which a write comes. -/
def writerDie (s : State) : Requester → Option Nat
  | .skidder e => some ((s.eng e).slot / 52)
  | _ => none

/-- The writer's own copy of a line, which a write updates: a whole line leaves no error in it (R260, R272). -/
def copyMark (ps : List Place) (line m : Nat) : Nat := if m ≠ 0 && wholeLine ps line then 1 else m

/-- A write of an HBM line is accepted: every Landing copy goes but the writer's own. A write that was dropped leaves none. -/
def writeCopies (r : Requester) (ps : List Place) (drop : List Nat) (s : State) (line : Nat) : State :=
  match writerDie s r with
  | some d =>
    let m := SMap.get noMark s.mem.cached (d * 2 ^ 42 + line)
    if drop.contains line then invalidate s line else setCached (invalidate s line) d line (copyMark ps line m)
  | none => invalidate s line

/-- Writes that an ECC word of tile or Landing memory takes whole clear its error; a narrower write to a word with a double-bit
error is dropped, and to one with a single-bit error corrects it (R52, R272). Answers the words dropped. -/
def wordMarks (mark : Nat → Nat) (touched : List Nat) : List Nat × List Nat × List Nat :=
  -- (words cleared, words corrected and counted, words dropped)
  let ws := dedup touched
  let whole (w : Nat) : Bool := (touched.filter (· == w)).length == 8
  (ws.filter fun w => mark w != 0 && (whole w || mark w == 1),
   ws.filter fun w => mark w == 1 && !whole w,
   ws.filter fun w => mark w == 2 && !whole w)

/-- A narrow write to a direct Landing word with a double-bit error is dropped with a record of source Landing, unless the block that traps appends its own
(R271, R272, R329). -/
def landDropped (r : Requester) (ws : List Nat) (s : State) : State :=
  if trapsItself r then s else ws.foldl (fun t w => t.appendRecord 0x04 0x01 2 none none (0x010000000000 + w * 8) 0) s

/-- Stores bytes without noting the store to walks. -/
def memStore (s : State) (r : Requester) (a : Nat) (bs : List Byte) : State × MemEnd :=
  let ps := places s a bs.length
  if ps.any (fun p => !reaches r p) then (s, .hole)
  else
    let x := writeLines r ps (hbmLines a ps) (s, [])
    let s1 := (hbmLines a ps).foldl (fun t l => writeCopies r ps x.2 t l.1) x.1
    let lw := wordMarks (SMap.get noMark s1.mem.landErr) (ps.filterMap fun p => match p with
      | .landing k => some (k / 8)
      | _ => none)
    let s2 := { s1 with mem := { s1.mem with landErr := lw.1.foldl (fun m w => SMap.set noMark m w 0) s1.mem.landErr } }
    let s3 := lw.2.1.foldl (fun t w => t.count (Off.lndReg (w * 8 / 2 ^ 29) 0x18) 15 0 1) s2
    let tw := tileWords ps
    let s4 := tw.foldl (fun t ew => t.modEng ew.1 fun g =>
      if SMap.get noMark g.tileErr ew.2 = 0 then g else { g with tileErr := SMap.set noMark g.tileErr ew.2 0 }) s3
    let keep := (ps.zip bs).filter fun pb => match pb.1 with
      | .landing k => !lw.2.2.contains (k / 8)
      | _ => true
    (putPlaces x.2 keep (landDropped r lw.2.2 s4), if x.2.isEmpty && lw.2.2.isEmpty then .ok else .ecc)

/-- Writes bytes at a device address as an ordinary store. DESIGN CHOICE (log entry 140): a store that is dropped at a line with an uncorrectable error latches
as one that lands does; an adder operation so dropped does not. -/
def memWrite (s : State) (r : Requester) (a : Nat) (bs : List Byte) : State × MemEnd :=
  let x := memStore s r a bs
  if x.2 = .hole then x else (noteStore x.1 a bs.length, x.2)

/-- Reads one little-endian number of `n` bytes. -/
def memReadNat (s : State) (r : Requester) (a n : Nat) : State × MemEnd × Nat :=
  let x := memRead s r a n
  (x.1, x.2.1, leNat x.2.2)

/-! ## Memory-side adders (R262) -/

/-- Bytes of an element: FP32, BF16, INT32, INT64. -/
def elemSize (aty : Nat) : Nat := if aty = 0 then 4 else if aty = 1 then 2 else if aty = 2 then 4 else 8

/-- Table 10-3: the result of an element operation, and whether it made a NaN from operands that were none. -/
def adder (aty aop old v : Nat) : Nat × Bool :=
  if aty = 0 || aty = 1 then
    let f := if aty = 0 then FFmt.fp32 else FFmt.bf16
    let x := f.decode old
    let y := f.decode v
    let r := if aop = 0 then (f.round (x.add y)).1 else if aop = 1 then x.minNum y else x.maxNum y
    (f.encode r, r.isNan && !x.isNan && !y.isNan)
  else
    let w := 8 * elemSize aty
    let x := sext w old
    let y := sext w v
    (imod (if aop = 0 then x + y else if aop = 1 then min x y else max x y) (2 ^ w), false)

/-- Applies one element operation in HBM and answers the old value. A line with an uncorrectable error drops it: UE counts
and, where `code` is not 0, a record of source HBM with that code is appended (R271). Any place that is not HBM is a hole
(R124). -/
def adderOp (s : State) (code a aty aop v : Nat) : State × MemEnd × Nat :=
  let n := elemSize aty
  let ps := places s a n
  let ls := hbmLines a ps
  if ps.any (fun p => match p with
      | .hbm _ => false
      | _ => true) then (s, .hole, 0)
  else if ls.any (fun l => decide (2 ≤ SMap.get noMark s.mem.hbmErr l.1)) then
    (ls.foldl (fun t l => if 2 ≤ SMap.get noMark s.mem.hbmErr l.1 then hbmUe t l.1 l.2 code (code != 0) else t) s, .ecc, 0)
  else
    let s0 := ls.foldl (fun t l => if SMap.get noMark t.mem.hbmErr l.1 = 1 then hbmCe t l.1 else t) s
    let old := leNat (ps.map (placeByte s))
    let res := adder aty aop old v
    let s1 := ls.foldl (fun t l => invalidate t l.1) s0
    let s2 := putPlaces [] (ps.zip (leBytes n res.1)) s1
    let s3 := if res.2 then ls.foldl (fun t l => t.count (Off.memReg (lineStack l.1) 0x18) 31 0 1) s2 else s2
    (noteStore s3 a n, .ok, old)

end Sys2Proof.Machine
end

