-- ==== Sys2Proof/Machine/MemCmds.lean ====
section
/-! DEFINITION. The commands of the memory system: accesses of a line at its controller (R246, R259 to R262), scrubbing (R273), map entries (R249,
R250) and the Landing (R266 to R268, R272). Data that an access returns is left in the host port's read fields. -/

namespace Sys2Proof.Machine

/-- Leaves bytes that an access returned, with the poison mark of R271. -/
def answerBytes (s : State) (bs : List Byte) (poison : Bool) : State :=
  { s with host := { s.host with readBytes := bs, readPoison := poison } }

/-- Leaves a word that an access returned. -/
def answerWord (s : State) (v : Nat) : State := { s with host := { s.host with readData := BitVec.ofNat 64 v } }

/-- A 64-bit register after a write of one word or both (R11). -/
def accMerge (old : Nat) (a : Acc) (v : Nat) : Nat :=
  match a with
  | .low => old / 2 ^ 32 * 2 ^ 32 + v % 2 ^ 32
  | .high => v % 2 ^ 32 * 2 ^ 32 + old % 2 ^ 32
  | .both => v % 2 ^ 64

/-! ## Lines -/

/-- HBM_READ: the line of a device address; a hole answers nothing. -/
def lineRead (s : State) (a : Nat) : State :=
  let x := memRead s .sched (a / 64 * 64) 64
  answerBytes x.1 x.2.2 (decide (x.2.1 = .ecc))

/-- HBM_WRITE: bytes within one line. -/
def lineWrite (s : State) (a : Nat) (bs : List Byte) : State :=
  if (hbmPlace s a).isNone || 64 < a % 64 + bs.length then s else (memWrite s .sched a bs).1

/-- HBM_ADD_WRITE: one element; dropped on a poisoned line, with HBM record 0x03. -/
def lineAdd (s : State) (a aty aop v : Nat) : State :=
  if a % elemSize aty ≠ 0 then s else (adderOp s 0x03 a aty aop v).1

/-- HBM_ATOMIC: one element, whose old value is returned. -/
def lineAtomic (s : State) (a aty aop v : Nat) : State :=
  if a % elemSize aty ≠ 0 then s
  else
    let x := adderOp s 0x01 a aty aop v
    if x.2.1 = .ok then answerWord x.1 x.2.2 else x.1

/-- The device address that entry `n` places on a byte of a stack, if it does (R248). -/
def entryDevice (s : State) (key n : Nat) : Option Nat :=
  let w0 := s.reg64 (Off.map0 n)
  let w1 := s.reg64 (Off.map1 n)
  let mode := bits w0 62 61
  let k := mapStacks mode
  let first := if mode = 2 then 6 else 0
  let stack := key / stackSize
  let off := key % stackSize
  let soff := bits w1 31 16 * 2 ^ 21
  if stack < first || first + k ≤ stack || off < soff then none
  else
    let g := (off - soff) / 256
    let r := (stack - first + k - (g + g / 64 + g / 4096) % k) % k
    let a := bits w0 18 0 * 2 ^ 21 + (g * k + r) * 256 + off % 256
    if mapFind s a 64 0 = some (n, key) then some a else none

/-- The first device address that reaches a byte of a stack. -/
def deviceOf (s : State) (key : Nat) : Option Nat := (List.range 64).findSome? (entryDevice s key)

/-- The stacks are in self-refresh, in which the scrubbers pause (R273): in P2 until step 3 of the exit has ended (Table 16-7), and in a compute-only reset until
the memory is ready (R426). -/
def selfRefresh (s : State) : Bool :=
  (powerState s == 2 && !(powerPhase s == 2 && decide (3 < s.power.exitStep))) || (s.compReset && !s.boot.memReady)

/-- SCRUB_LINE: line `line` of stack `st` (R273). DESIGN CHOICE (log entry 151): of a line that is poisoned already nothing is counted or recorded. -/
def scrubLine (s : State) (st line : Nat) : State :=
  let l := st * (stackSize / 64) + line % (stackSize / 64)
  if s.fld (Off.memReg st 0xC) 31 31 = 0 || s.fatal || selfRefresh s then s
  else match SMap.get noMark s.mem.hbmErr l with
    | 1 => hbmCe s l
    | 2 => hbmUe s l ((deviceOf s (l * 64)).getD 0) 0x02 true
    | _ => s

/-! ## Map entries -/

/-- R249 on both words of an entry. -/
def mapEntryGood (w0 w1 : Nat) : Bool :=
  let k := mapStacks (bits w0 62 61)
  decide (1 ≤ bits w1 15 0) && decide (bits w0 18 0 + k * bits w1 15 0 ≤ 442368) && decide (bits w1 31 16 + bits w1 15 0 ≤ 36864)

/-- The fields of word 0 and of word 1 that hold a value. -/
def mapMask (second : Bool) (v : Nat) : Nat := if second then bits v 31 0 else bits v 63 45 * 2 ^ 45 + bits v 18 0

/-- The value that copies of entry `n` may hold until all of them are updated: the one before the first write since (R250). -/
def oldEntry (s : State) (n : Nat) : State :=
  let old := (SMap.get noOld s.mapOld n).getD (s.reg64 (Off.map0 n), s.reg64 (Off.map1 n))
  { s with mapOld := SMap.set noOld s.mapOld n (some old), free := s.free + 1 }

/-- MEM_MAP_WRITE: a write to word 0 or 1 of entry `n` (R249, R250). -/
def mapWrite (s : State) (n : Nat) (second : Bool) (a : Acc) (v : Nat) : State :=
  if !s.writable (Off.map0 n) then s
  else
    let o0 := s.reg64 (Off.map0 n)
    let o1 := s.reg64 (Off.map1 n)
    let w0 := if second then o0 else mapMask false (accMerge o0 a v)
    let w1 := if second then mapMask true (accMerge o1 a v) else o1
    if (!second && bits w0 62 61 == 3) || (bit w0 63 && !mapEntryGood w0 w1) then
      (s.setFld Off.mapStat 31 31 1).setFld Off.mapStat 5 0 n
    else (((oldEntry s n).setReg64 (Off.map0 n) w0).setReg64 (Off.map1 n) w1).setFld Off.mapStat 30 30 1

/-- MAP_COPIES_UPDATED (R250). -/
def mapCopied (s : State) : State := { s with mapOld := [] }.setFld Off.mapStat 30 30 0

/-! ## The Landing -/

/-- LANDING_READ: a line of HBM read on die `d` under a policy (R266). -/
def landingRead (s : State) (d lpol a : Nat) : State :=
  if (hbmPlace s a).isNone then s
  else
    let x := memReadVia s .sched d lpol (a / 64 * 64) 64
    answerBytes x.1 x.2.2 (decide (x.2.1 = .ecc))

/-- Mode of partition `p` of die `d`. -/
def partMode (s : State) (d p : Nat) : Nat := s.fld (Off.lndReg d 0) (2 * p + 1) (2 * p)

/-- Allocation `k` of die `d`, as (valid, first, length) in units of 64 KiB. -/
def allocOf (s : State) (d k : Nat) : Bool × Nat × Nat :=
  let w := s.reg64 (Off.dalloc d k)
  (bit w 63, bits w 12 0, bits w 29 16)

/-- A valid allocation of die `d` covers a part of partition `p`, 512 units of 64 KiB. -/
def partAllocated (s : State) (d p : Nat) : Bool :=
  (List.range 16).any fun k =>
    let a := allocOf s d k
    a.1 && decide (a.2.1 < 512 * (p + 1)) && decide (512 * p < a.2.1 + a.2.2)

/-- The partition that holds a cached line of the stack space. -/
def linePartition (s : State) (line : Nat) : Option Nat :=
  match deviceOf s (line * 64) with
  | none => none
  | some a => match mapFind s a 64 0 with
    | none => none
    | some (n, _) => partitionOf (bits (entryWords s n a).1 60 45) a

/-- Drops the lines of the partitions in a list from the Landing of die `d`. -/
def dropLines (s : State) (d : Nat) (ps : List Nat) : State :=
  if ps.isEmpty then s
  else
    let keep := s.mem.cached.filter fun e =>
      e.1 / 2 ^ 42 != d || (match linePartition s (e.1 % 2 ^ 42) with
        | some p => !ps.contains p
        | none => false)
    { s with mem := { s.mem with cached := keep } }

/-- The mode a partition takes under a write (R268): off where repair holds it off; direct while an allocation covers it. -/
def newMode (s : State) (d p v : Nat) : Nat × Bool :=
  let m := bits v (2 * p + 1) (2 * p)
  if s.fld (Off.lndReg d 4) p p = 1 then (3, false)
  else if partMode s d p = 1 && m != 1 && partAllocated s d p then (1, true)
  else (m, false)

/-- LND_PART_WRITE (R268). -/
def partWrite (s : State) (d v : Nat) : State :=
  if !s.writable (Off.lndReg d 0) then s
  else
    let ms := (List.range 16).map fun p => newMode s d p v
    let w := (ms.zipIdx.map fun x => x.1.1 * 4 ^ x.2).foldl (· + ·) 0
    let left := (List.range 16).filter fun p => partMode s d p == 0 && (ms.getD p (0, false)).1 != 0
    let s1 := (dropLines s d left).setReg (Off.lndReg d 0) w
    let s2 := if ms.any (·.2) then s1.setFld (Off.lndReg d 8) 31 31 1 else s1
    if left.isEmpty then s2 else s2.setFld (Off.lndReg d 8) 30 30 1

/-- PARTITION_DROP_DONE (R268). -/
def dropDone (s : State) (d : Nat) : State := s.setFld (Off.lndReg d 8) 30 30 0

/-- The checks of R267 on a declaration by allocation `k`. -/
def allocGood (s : State) (d k base size : Nat) : Bool :=
  decide (1 ≤ size) && decide (base + size ≤ 8192) &&
    ((List.range 16).all fun p => !(decide (base < 512 * (p + 1)) && decide (512 * p < base + size)) || partMode s d p == 1) &&
    ((List.range 16).all fun j =>
      let a := allocOf s d j
      j == k || !a.1 || decide (a.2.1 + a.2.2 ≤ base) || decide (base + size ≤ a.2.1))

/-- LND_DALLOC_WRITE (R267). -/
def allocWrite (s : State) (d k : Nat) (a : Acc) (v : Nat) : State :=
  if !s.writable (Off.dalloc d k) then s
  else
    let w := accMerge (s.reg64 (Off.dalloc d k)) a v
    let m := bits w 63 63 * 2 ^ 63 + bits w 29 16 * 2 ^ 16 + bits w 12 0
    if bit m 63 && !allocGood s d k (bits m 12 0) (bits m 29 16) then s.setFld (Off.lndReg d 8) 31 31 1
    else s.setReg64 (Off.dalloc d k) m

/-- LANDING_DIRECT_ACCESS: a read of `n` bytes, or a write, within a direct allocation (R267, R272). -/
def directAccess (s : State) (a n : Nat) (w : Option (List Byte)) : State :=
  match w with
  | some bs =>
    if (places s a bs.length).all (fun p => match p with
        | .landing _ => true
        | _ => false) then (memWrite s .sched a bs).1 else s
  | none =>
    if (places s a n).all (fun p => match p with
        | .landing _ => true
        | _ => false) then
      let x := memRead s .sched a n
      answerBytes x.1 x.2.2 (decide (x.2.1 = .ecc))
    else s

end Sys2Proof.Machine
end

