-- ==== Sys2Proof/Machine/Flags.lean ====
section
/-! DEFINITION. The sticky numeric flags (Table 2-13, R93): how the flags of the lanes of an instruction join, and the flags of an
arithmetic step. The flags of each rounding stand with the rounding in Num.lean. -/

namespace Sys2Proof

/-- The flags of a list of results. -/
def joinFlags (xs : List (Xr × Flags)) : Flags := xs.foldl (fun f x => f ||| x.2) 0

/-- FLGCLR: the flags that MASK names are cleared (R79). -/
def clearFlags (f : Flags) (mask : Nat) : Flags := f &&& ~~~(BitVec.ofNat 5 mask)

/-- The named flags of Table 2-13 as their bits: INV 0, OVF 1, UNF 2, DIVZ 3, SAT 4. -/
def flagSet (f : Flags) (i : Nat) : Bool := f.getLsbD i

end Sys2Proof
end

