-- ==== Sys2Proof/Machine/Legal.lean ====
section
/-! DEFINITION. What decode checks before issue (R74): reserved fields zero, and no field with a value that the encoding tables call
illegal. `legal` answers true for the commands that are not instructions of an engine. -/

namespace Sys2Proof.Machine

/-- The bits [hi:lo] of the operand fields of a first word are zero. -/
def z1 (f : Fields) (hi lo : Nat) : Bool := bits f.toNat hi lo == 0
/-- The bits [hi:lo] of a second word are zero. -/
def z2 (w : Word64) (hi lo : Nat) : Bool := bits w.toNat hi lo == 0

/-- SEL values of Table 3-8. -/
def sgetSel (n : Nat) : Bool := decide (n ≤ 7) || (decide (0x10 ≤ n) && decide (n ≤ 0x16))

/-- TLY (R133): SUB and the SEL values it accepts. -/
def legalTly (f : Fields) : Bool :=
  let sub := bits f.toNat 51 49
  let sel := bits f.toNat 43 36
  let soft := decide (0x10 ≤ sel) && decide (sel ≤ 0x1F)
  z1 f 35 32 && (if sub = 0 then decide (sel ≤ 0x0B) || soft else if sub = 1 then true else if sub = 2 then soft else false)

/-- The fields every transfer shares (Table 4-12). -/
def legalTransfer (f : Fields) (w2 : Word64) : Bool :=
  z1 f 11 0 && decide (bits f.toNat 17 14 ≤ 3) && bits f.toNat 13 12 != 3 && bits w2.toNat 46 45 != 3 &&
    (bit w2.toNat 44 || z2 w2 43 32)

/-- The fields of Table 4-13 that shall be 0 for AD and SD. -/
def zeroDest (f : Fields) : Bool := z1 f 25 23 && z1 f 22 18
/-- ATYPE and AOP shall be 0. -/
def zeroAtom (f : Fields) : Bool := z1 f 17 14 && z1 f 13 12

/-- The first word of a vector instruction (Table 4-7, R117), for an operation that takes source B, or none, or either. DESIGN CHOICE (log entry 116): FT may
hold any format where no operand lies in tile memory. -/
def legalVector (f : Fields) (needB needNone : Bool) : Bool :=
  let n := f.toNat
  let bk := bits n 39 38
  z1 f 15 0 && bits n 22 21 != 3 && (!bit n 37 || bits n 47 46 == 0) && (!bit n 36 || bits n 51 50 == 0) &&
    (bk != 1 || bits n 43 42 == 0) && (bk == 2 || z1 f 20 16) && (bk == 0 || bk == 1 || z1 f 43 40) &&
    (!needB || bk != 3) && (!needNone || bk == 3)

/-- A format code names an `MMA` operand, a destination or a source of Table 4-1. -/
def isMmaFmt (c : Nat) : Bool := match Format.ofCode c with
  | some f => f.isMma
  | none => false
def isDestFmt (c : Nat) : Bool := match Format.ofCode c with
  | some f => f.isDest
  | none => false
def isFmt (c : Nat) : Bool := (Format.ofCode c).isSome
def isBook (c : Nat) : Bool := c == 8 || c == 9
def is8Fmt (c : Nat) : Bool := c == 3 || c == 4 || c == 5
/-- The format carries block scales, given its NS bit. -/
def hasScales (c : Nat) (ns : Bool) : Bool := c == 6 || c == 7 || c == 8 || c == 9 || (is8Fmt c && !ns)
/-- The K per row pass of a format's class (Table 2-2). -/
def fmtK (c : Nat) : Nat := match Format.ofCode c with
  | some f => f.classK
  | none => 0

/-- The NS bit of an MMA load (R106). -/
def legalNs (c : Nat) (ns : Bool) : Bool := if c = 1 then ns else if is8Fmt c then true else !ns

/-- An MMA of either mode (R106). -/
def legalMma (f : Fields) (w2 : Word64) : Bool :=
  let n := f.toNat
  let m := bits n 51 50
  let w := w2.toNat
  let fs := bits w 63 60
  let fm := bits w 59 56
  if m = 3 then false
  else if m = 2 then
    z1 f 21 0 && z1 f 49 48 && z1 f 34 27 && z1 f 26 22 && isMmaFmt fs && isMmaFmt fm && legalNs fs (bit w 55) &&
      legalNs fm (bit w 54) && decide ((bits w 37 32 + 1) * 16 ≤ min (fmtK fs) (fmtK fm)) && (isBook fs || z2 w2 53 46) &&
      (isBook fm || z2 w2 45 38) && z2 w2 31 0
  else z1 f 21 0 && (bit n 26 || z1 f 25 22) && z2 w2 63 0

/-- CC other than 0b00 only for E4M3, E5M2, HB4F and HB4I (R115). -/
def legalCarry (cc fd : Nat) : Bool := cc == 0 || fd == 3 || fd == 4 || fd == 6 || fd == 7

/-- DRAIN (Table 4-4, R112, R115). -/
def legalDrain (f : Fields) (w2 : Word64) : Bool :=
  let n := f.toNat
  let cc := bits n 51 50
  let fd := bits n 22 19
  let nsd := bit n 6
  z1 f 5 0 && isDestFmt fd && (!nsd || is8Fmt fd) && (hasScales fd nsd || z1 f 43 40) && (cc != 0 || z1 f 39 36) &&
    legalCarry cc fd && (bit n 7 || z2 w2 55 48) && z2 w2 42 0

/-- CVT (Table 4-5, R115). -/
def legalCvt (f : Fields) (w2 : Word64) : Bool :=
  let n := f.toNat
  let cc := bits n 51 50
  let fi := bits n 49 46
  let fd := bits n 45 42
  let nsi := bit n 7
  let nsd := bit n 6
  z1 f 5 0 && isFmt fi && isDestFmt fd && (!nsi || is8Fmt fi) && (!nsd || is8Fmt fd) && (hasScales fi nsi || z1 f 37 34) &&
    (hasScales fd nsd || z1 f 29 26) && (cc != 0 || z1 f 25 22) && legalCarry cc fd && (isBook fi || z2 w2 55 48) && z2 w2 32 0

/-- The collective instructions (Table 4-15). -/
def legalColl (red : Bool) (f : Fields) (w2 : Word64) : Bool :=
  let n := f.toNat
  z1 f 13 0 && z2 w2 39 0 &&
    (if red then decide (bits n 21 18 ≤ 3) && bits n 17 16 != 3 && decide (bits n 15 14 ≤ 1) else z1 f 21 14)

/-- A WGPUSH is followed by an MMA or a DRAIN (R130). -/
def wgFollows (n1 : Word64) : Bool := bits n1.toNat 63 56 == 0xA0 || bits n1.toNat 63 56 == 0xA1

/-- R74: the encoding of the instruction is legal. A word whose OP is not NOP's comes as a NOP only where OP is unassigned. -/
def legal : Instr → Bool
  | .nop _ w => bits w.toNat 63 56 == 0 && z1 (fieldsOf w) 51 0
  | .done _ f | .tblswap _ f => z1 f 51 0
  | .sig _ _ f | .wait _ _ f => z1 f 46 16
  | .br _ f => z1 f 51 24
  | .jal _ f => z1 f 46 24
  | .jr _ f => z1 f 51 47 && z1 f 41 0
  | .loop _ f => z1 f 51 47 && z1 f 41 24 && !z1 f 46 42
  | .alu _ f => z1 f 36 32 && z1 f 23 0 && decide (bits f.toNat 31 24 ≤ 0x0D)
  | .alui _ f => z1 f 33 32 && decide (bits f.toNat 41 34 ≤ 0x0D)
  | .cmp _ f => z1 f 48 47 && z1 f 36 32 && z1 f 27 0 && decide (bits f.toNat 31 28 ≤ 5)
  | .cmpi _ f => z1 f 48 47 && z1 f 41 36 && decide (bits f.toNat 35 32 ≤ 5)
  | .plog _ f => z1 f 38 0 && bits f.toNat 40 39 != 3
  | .adda _ f => z1 f 40 32
  | .lds _ f | .sts _ f => z1 f 37 32
  | .sget _ f => z1 f 39 0 && sgetSel (bits f.toNat 46 40)
  | .flgclr _ f => z1 f 51 5
  | .tset _ f => z1 f 47 47 && z1 f 41 0
  | .tget _ f => z1 f 42 0
  | .bload _ f => z1 f 47 47 && z1 f 42 32
  | .bext _ f => z1 f 39 0 && decide (bits f.toNat 47 45 ≤ 5)
  | .li64 _ f _ => z1 f 46 0
  | .preempt _ f w2 => z1 f 46 32 && z2 w2 15 0
  | .tblload _ f w2 => z1 f 34 0 && z2 w2 63 32 && decide (bits f.toNat 46 41 + bits f.toNat 40 35 ≤ 63)
  | .tlyRead _ f | .tlyMark _ f | .tlyAdd _ f => legalTly f
  | .rsig _ f => z1 f 39 16
  | .wgdrain _ f => z1 f 42 0 && decide (bits f.toNat 51 43 ≤ 256)
  | .fill _ f w2 | .spill _ f w2 => legalTransfer f w2 && zeroDest f && zeroAtom f
  | .copy _ f w2 => legalTransfer f w2 && z1 f 43 40 && zeroAtom f && z2 w2 31 0
  | .pref _ f w2 => legalTransfer f w2 && z1 f 43 40 && zeroDest f && zeroAtom f && z2 w2 44 44 && z2 w2 31 0
  | .addw _ f w2 | .atom _ f w2 => legalTransfer f w2 && zeroDest f && z1 f 39 35 && z2 w2 46 45
  | .winfill _ f w2 => legalTransfer f w2 && zeroDest f && z1 f 39 35 && zeroAtom f && z2 w2 44 44
  | .kvwalk _ f w2 => z1 f 12 0 && z2 w2 47 47 && z2 w2 41 32 && bits w2.toNat 46 45 != 3 &&
      (bit f.toNat 22 || (z1 f 26 23 && z2 w2 31 0))
  | .kvmap _ f w2 => z1 f 29 0 && z2 w2 47 0
  | .xch _ f w2 | .xgather _ f w2 => legalColl false f w2
  | .xredAllReduce _ f w2 | .xredReduceScatter _ f w2 => legalColl true f w2
  | .mmaLoad _ f w2 | .mmaCompute _ f w2 => legalMma f w2
  | .drain _ f w2 => legalDrain f w2
  | .cvt _ f w2 => legalCvt f w2
  | .wgpush _ f w2 n1 _ => z1 f 42 0 && z2 w2 47 0 && wgFollows n1
  | .vadd _ f | .vsub _ f | .vmul _ f | .vmin _ f | .vmax _ f | .vclamp _ f => legalVector f true false
  | .vmov _ f | .vabs _ f | .vneg _ f | .vtanh _ f | .vlogi _ f => legalVector f false true
  | .vfma _ f w2 => legalVector f true false && z2 w2 58 0 && (!bit w2.toNat 59 || z2 w2 63 62)
  | .vfuse _ f w2 => legalVector f false true && z2 w2 63 59 && z2 w2 50 0
  | .vrot _ f w2 => legalVector f false true && z2 w2 63 51 && z2 w2 46 32
  | .steprun _ f w2 => legalVector f false false && z2 w2 49 0
  | .rstat _ f w2 =>
      let w := w2.toNat
      legalVector f false true && z2 w2 35 0 && bits w 63 62 != 3 && (bits w 63 62 == 2 || z2 w2 48 36) &&
        (!bit f.toNat 37 || decide (bits w 61 49 ≤ 255)) && (bits w 61 49 + 1) % (bits w 48 36 + 1) == 0
  | .smax _ f w2 => legalVector f false true && z2 w2 63 62 && z2 w2 48 32 &&
      (!bit f.toNat 37 || decide (bits w2.toNat 61 49 ≤ 255))
  | _ => true

end Sys2Proof.Machine
end

