-- ==== Sys2Proof/Machine/Narrow.lean ====
section
/-! DEFINITION. Narrowing with block scales, dither and error carry (R143 to R154), as pure functions of their inputs. -/

namespace Sys2Proof

/-- Precision and least exponent of the grid of a narrow destination, for its rounding (R147). Integers have an
unbounded precision and the unit grid. -/
def narrowGrid : Format → Nat × Int
  | .hb4f => (2, -1)
  | .e4m3 => (4, -9)
  | .e5m2 => (3, -16)
  | _ => (4096, 0)

/-- emax(f), the largest magnitude the converter writes (Table 5-4). -/
def narrowEmax : Format → Nat
  | .hb4f => 6 | .hb4i => 7 | .e4m3 => 448 | .e5m2 => 57344 | _ => 127

/-- h(f), half the smallest positive magnitude (Table 5-4). -/
def narrowHalf : Format → Xr
  | .hb4f => .fin false 1 (-2)
  | .hb4i => .fin false 1 (-1)
  | .e4m3 => .fin false 1 (-10)
  | .e5m2 => .fin false 1 (-17)
  | _ => .fin false 1 (-1)

/-- The code of a value that the format holds; a zero is the all-zero code whatever its sign (R147). -/
def narrowEncode (f : Format) (v : Xr) : Nat :=
  match v with
  | .fin n m e =>
    if m = 0 then 0
    else match f with
      | .hb4f => FFmt.encode ⟨2, 0, 1, 2⟩ v
      | .e4m3 => FFmt.encode ⟨4, -6, 7, 4⟩ v
      | .e5m2 => FFmt.e5m2.encode v
      | .hb4i => imod (Xr.sInt n (m <<< e.toNat)) 16
      | _ => imod (Xr.sInt n (m <<< e.toNat)) 256
  | _ => 0

/-- dither16 of R149. -/
def dither16 (seed pos : Nat) : Nat :=
  let w := 2 ^ 64
  let z := (pos % w) ^^^ ((seed * 0x9E3779B97F4A7C15) % w)
  let z := ((z ^^^ (z >>> 30)) * 0xBF58476D1CE4E5B9) % w
  let z := ((z ^^^ (z >>> 27)) * 0x94D049BB133111EB) % w
  let z := z ^^^ (z >>> 31)
  z >>> 48

/-- round_elem: the value of `f` that the quotient v / sg rounds to, and whether it saturated (R147, R149). `sg` is
positive and finite; `v` is not a NaN. -/
def roundElem (f : Format) (v sg : Xr) (dith : Option Nat) : Xr × Bool :=
  let mx := narrowEmax f
  let lim (n : Bool) : Xr := .fin n mx 0
  match v, sg with
  | .inf n, _ => (lim n, true)
  | .fin n m e, .fin _ sm se =>
    if m = 0 then (Xr.zero, false)
    else
      let k := e - se
      let big := (Xr.lt (Xr.mul (.fin false mx 0) sg) (.fin false m e))
      if big then (lim n, true)
      else
        let g := narrowGrid f
        let near := roundPos g.1 (some g.2) m sm k
        match dith with
        | none => (.fin n near.1 near.2, false)
        | some u =>
          let q := near.2
          let d := k - q
          let num := if 0 ≤ d then m <<< d.toNat else m
          let den := if 0 ≤ d then sm else sm <<< (-d).toNat
          let lo := num / den
          let r := num % den
          if r = 0 || Xr.le (Xr.mul (.fin false mx 0) sg) (.fin false m e) then (.fin n near.1 near.2, false)
          else
            let up := if n then !(decide (u * den < (den - r) * 65536)) else decide (u * den < r * 65536)
            (.fin n (if up then lo + 1 else lo) q, false)
  | _, _ => (Xr.zero, false)

/-- round_e5m2_sat of R150, as the residual byte. -/
def roundE5m2Sat (d : Xr) : Nat :=
  match d with
  | .nan => 0
  | .inf n => if n then 0xFB else 0x7B
  | .fin n m e =>
    if Xr.lt (.fin false 57344 0) (.fin false m e) then (if n then 0xFB else 0x7B)
    else
      match FFmt.e5m2.roundRat n m 1 e with
      | (.fin n' m' e', _) => if m' = 0 then 0 else FFmt.e5m2.encode (.fin n' m' e')
      | _ => if n then 0xFB else 0x7B

/-- The fixed settings of one narrowing instruction. -/
structure NarrowCfg where
  f : Format
  /-- carry control, Table 4-6 -/
  cc : Nat
  /-- the destination global scale after R145 -/
  g : Xr
  seed : Nat
  dither : Bool
  /-- the destination carries block scales -/
  scaled : Bool
  deriving DecidableEq, Repr

/-- What one block of 16 (or, in a page, 512) elements narrows to. -/
structure NarrowOut where
  codes : List Nat
  rout : List Nat
  scale : Nat
  saturated : Bool
  flags : Flags
  nans : Nat
  deriving DecidableEq, Repr

/-- The destination global scale of R145 and the flag it raises. -/
def destScale (w : Nat) : Xr × Flags :=
  let x := f32 w
  let ex := bits w 30 23
  if bit w 31 || ex = 0 || ex = 255 then (Xr.one, Flags.inv) else (x, 0)

/-- v[i] of R146: the input plus the carried residual, rounded once to FP32. -/
def carryIn (cc : Nat) (x : Xr) (r : Nat) : Xr × Flags :=
  let c := if cc = 1 || cc = 3 then e5m2Value r else Xr.zero
  add32 x c

/-- Block scale code of R146 from the largest magnitude of the block, and whether the block is saturated. -/
def scaleCode (f : Format) (g amax : Xr) : Nat × Bool :=
  let unit := Xr.mul g (.fin false (narrowEmax f) 0)
  if Xr.lt (Xr.mul unit (.fin false 114688 0)) amax then (0xFE, true)
  else if Xr.le amax (Xr.mul (Xr.mul g (.fin false 1 (-17))) (narrowHalf f)) then (0, false)
  else
    match (List.range 254).find? (fun i => Xr.le amax (Xr.mul unit (ue5m3 (i + 1)))) with
    | some i => (i + 1, false)
    | none => (0xFE, false)

/-- One element after the scale is known: code, residual byte, flags and whether it saturated without a block scale. -/
def narrowElem (c : NarrowCfg) (scale : Nat) (sg v : Xr) (pos : Nat) : Nat × Nat × Flags × Bool :=
  if v.isNan then (0, 0, 0, false)
  else if c.scaled && scale = 0 then (0, roundE5m2Sat v, 0, false)
  else
    let q := roundElem c.f v sg (if c.dither then some (dither16 c.seed pos) else none)
    let d := v.sub (q.1.mul sg)
    (narrowEncode c.f q.1, roundE5m2Sat d, if q.2 then Flags.sat else 0, q.2)

/-- An element of a 16-bit or 32-bit destination (R151). -/
def wideElem (f : Format) (g v : Xr) : Nat × Nat × Flags :=
  let fm := match f with
    | .bf16 => FFmt.bf16
    | .fp16 => FFmt.fp16
    | _ => FFmt.fp32
  match v with
  | .nan => (fm.encode .nan, 0, 0)
  | .inf n => (fm.encode (.inf n), 0, 0)
  | .fin n m e =>
    match g with
    | .fin _ gm ge =>
      let r := fm.roundRat n m gm (e - ge)
      (fm.encode r.1, roundE5m2Sat (v.sub (r.1.mul g)), r.2)
    | _ => (0, 0, 0)

/-- Narrows one block: `xs` the inputs, `rin` the residual bytes read, `pos` the position of the first element. -/
def narrowBlock (c : NarrowCfg) (xs : List Xr) (rin : List Nat) (pos : Nat) : NarrowOut :=
  let vs := (xs.zip rin).map fun p => carryIn c.cc p.1 p.2
  let vf := vs.foldl (fun fl p => fl ||| p.2) (0 : Flags)
  let nans := (vs.filter fun p => p.1.isNan).length
  match c.f with
  | .fp32 | .bf16 | .fp16 =>
    let es := vs.map fun p => wideElem c.f c.g p.1
    { codes := es.map (·.1), rout := es.map (·.2.1), scale := 0, saturated := false,
      flags := es.foldl (fun fl p => fl ||| p.2.2) vf, nans := nans }
  | _ =>
    let amax := vs.foldl (fun a p => if p.1.isNan then a else Xr.maxNum a p.1.abs) Xr.zero
    let sc := if c.scaled then scaleCode c.f c.g amax else (0x78, false)
    let sg := if c.scaled then (ue5m3 sc.1).mul c.g else c.g
    let es := (List.range vs.length).zip vs |>.map fun p => narrowElem c sc.1 sg p.2.1 (pos + p.1)
    { codes := es.map (·.1), rout := es.map (·.2.1), scale := if c.scaled then sc.1 else 0, saturated := sc.2,
      flags := es.foldl (fun fl p => fl ||| p.2.2.1) (vf ||| (if sc.2 then Flags.sat else 0)), nans := nans }

/-- The sum of |x| of R155 in units of 2^-149; none is an infinite sum. A NaN adds 0. -/
def sumAbs (xs : List Xr) : Option Nat :=
  xs.foldl (fun acc x => match acc, x with
    | none, _ => none
    | some a, .nan => some a
    | some _, .inf _ => none
    | some a, .fin _ m e => some (a + (if 0 ≤ e + 149 then m <<< (e + 149).toNat else m >>> (-(e + 149)).toNat))) (some 0)

/-- The sum of |e5m2_value(r_out)| of R155 in units of 2^-16. -/
def sumRes (rs : List Nat) : Nat :=
  rs.foldl (fun a r => a + (match e5m2Value (r % 128) with
    | .fin _ m e => m <<< (e + 16).toNat
    | _ => 0)) 0

end Sys2Proof
end

