-- ==== Sys2Proof/Machine/Operands.lean ====
section
/-! DEFINITION. Operand forms: tile and accumulator accesses with their error correction (R50 to R53), rows of a region (R104),
element formats in rows (R105, R138), block scales and codebooks (R137, R142), and loop nests of the Bucking table (R164 to R176). -/

namespace Sys2Proof.Machine

/-- The bits [hi:lo] of the operand fields of a first word. -/
def fld (f : Fields) (hi lo : Nat) : Nat := bits f.toNat hi lo
/-- The bits [hi:lo] of a second word. -/
def fld2 (w : Word64) (hi lo : Nat) : Nat := bits w.toNat hi lo

/-! ## Tile memory with its error correction -/

/-- The 64-bit word `w` of tile memory overlaps the `n` bytes from tile address `a`, which wrap (R50). -/
def inSpan (a n w : Nat) : Bool :=
  let d := (8 * w + tileSize - a % tileSize) % tileSize
  decide (0 < n) && (decide (d < n) || decide (tileSize - d < 8))

/-- The `n` bytes from tile address `a` cover word `w` whole. -/
def coversWord (a n w : Nat) : Bool :=
  let d := (8 * w + tileSize - a % tileSize) % tileSize
  decide (d + 8 ≤ n) || decide (tileSize + 7 ≤ n)

/-- The bytes at a tile address. -/
def tileBytes (g : Engine) (a n : Nat) : List Byte := (List.range n).map fun i => g.tile.rd ((a + i) % tileSize)

/-- Puts bytes at a tile address, byte after byte. -/
def putTile (g : Engine) : Nat → List Byte → Engine
  | _, [] => g
  | a, b :: t => putTile { g with tile := g.tile.wr (a % tileSize) b } (a + 1) t

/-- Counts `n` corrected words: ECC_CE sets and tally 0x06 counts (R52). -/
def noteCe (s : State) (e n : Nat) : State :=
  if n = 0 then s else (s.modEng e fun g => { g with eccCe := true }).tally e 6 n

/-- Reads bytes of tile memory: answers whether a double-bit error was among them (R52). -/
def tileRead (s : State) (e a n : Nat) : State × Bool × List Byte :=
  let g := s.eng e
  let hit := g.tileErr.filter fun p => inSpan a n p.1
  let bad := hit.any fun p => p.2 == 2
  ((noteCe s e (hit.filter fun p => p.2 == 1).length).noteUe e bad, bad, tileBytes g a n)

/-- Reads bytes of tile memory of which only those that `need` names are read: an error in a word that holds none of them does not count
(R42, R142). -/
def tileReadSome (s : State) (e a n : Nat) (need : Nat → Bool) : State × Bool × List Byte :=
  let g := s.eng e
  let hit := g.tileErr.filter fun p => inSpan a n p.1 && (List.range n).any fun i => need i && (a + i) % tileSize / 8 == p.1
  let bad := hit.any fun p => p.2 == 2
  ((noteCe s e (hit.filter fun p => p.2 == 1).length).noteUe e bad, bad, tileBytes g a n)

/-- Writes bytes of tile memory: a word written whole loses its error; a part of a word with a single-bit error corrects it; a
part of a word with a double-bit error is dropped, which is answered (R52). -/
def tileWrite (s : State) (e a : Nat) (bs : List Byte) : State × Bool :=
  let g := s.eng e
  let n := bs.length
  let hit := g.tileErr.filter fun p => inSpan a n p.1
  if hit.isEmpty then (s.setEng e (putTile g a bs), false)
  else
    let lost := hit.filter fun p => p.2 == 2 && !coversWord a n p.1
    let fixed := hit.filter fun p => p.2 == 1 && !coversWord a n p.1
    let keep := lost.map fun p => (p.1, tileBytes g (8 * p.1) 8)
    let g1 := putTile g a bs
    let g2 := keep.foldl (fun h k => putTile h (8 * k.1) k.2) g1
    let g3 := { g2 with tileErr := g.tileErr.filter fun p => !inSpan a n p.1 || lost.any fun q => q.1 == p.1 }
    ((noteCe (s.setEng e g3) e fixed.length).noteUe e (!lost.isEmpty), !lost.isEmpty)

/-! ## Accumulator memory -/

/-- The key of an accumulator element: tile modulo 4, row modulo 256, column. -/
def accKey (tile row col : Nat) : Nat := tile % 4 * 65536 + row % 256 * 256 + col

/-- Reads `n` elements of an accumulator row. -/
def accRead (s : State) (e tile row n : Nat) : State × Bool × List Nat :=
  let g := s.eng e
  let lo := accKey tile row 0
  let hit := g.accErr.filter fun p => decide (lo ≤ 2 * p.1) && decide (2 * p.1 < lo + n)
  let bad := hit.any fun p => p.2 == 2
  ((noteCe s e (hit.filter fun p => p.2 == 1).length).noteUe e bad, bad,
    (List.range n).map fun c => (SMap.get (fun _ => 0#32) g.acc (lo + c)).toNat)

/-- The key after an element's: past column 255 the row that follows in the tile, modulo 256. -/
def accNext (k : Nat) : Nat := k / 65536 * 65536 + (k + 1) % 65536

/-- Puts elements into an accumulator row from its column 0. -/
def putAcc (g : Engine) : Nat → List Word32 → Engine
  | _, [] => g
  | k, v :: t => putAcc { g with acc := SMap.set (fun _ => 0#32) g.acc k v } (accNext k) t

/-- Writes an even number of elements of an accumulator row: each 64-bit word is written whole. What is past column 255 goes into the rows that follow. -/
def accWrite (s : State) (e tile row : Nat) (vs : List Word32) : State :=
  s.modEng e fun g =>
    let lo := accKey tile row 0
    let g1 := putAcc g lo vs
    { g1 with accErr := g.accErr.filter fun p => !(decide (2 * p.1 / 65536 = lo / 65536) && decide ((2 * p.1 + 65536 - lo % 65536) % 65536 < vs.length)) }

/-- Writes any number of elements of an accumulator row: of an odd number the last is half a word, whose single-bit error is corrected and counted, and
whose double-bit error drops the element (R52). Answers a dropped write. -/
def accWriteSome (s : State) (e tile row : Nat) (vs : List Word32) : State × Bool :=
  let lo := accKey tile row 0
  let m := SMap.get noMark (s.eng e).accErr ((lo / 65536 * 65536 + (lo + vs.length - 1) % 65536) / 2)
  if vs.length % 2 = 0 || m = 0 then (accWrite s e tile row vs, false)
  else if m = 1 then (noteCe (accWrite s e tile row vs) e 1, false)
  else ((accWrite s e tile row vs.dropLast).noteUe e true, true)

/-- A row that an MMA is about to write keeps what it holds for the reads that are not interlocked against that write (R49). -/
def keepLate (g : Engine) (tile row : Nat) : Engine :=
  let vals := (List.range 256).map fun c => (SMap.get (fun _ => 0#32) g.acc (accKey tile row 0 + c)).toNat
  { g with late := { key := accKey tile row 0 / 256, vals := vals } :: g.late }

/-- Writes a row of results of the array. -/
def accWriteArray (s : State) (e tile row : Nat) (vs : List Word32) : State := accWrite (s.modEng e fun g => keepLate g tile row) e tile row vs

/-- What an unsettled row may read as to an instruction that is not interlocked: what it holds, or what an MMA found there that no WAIT.T has settled. -/
def lateRows (g : Engine) (tile row : Nat) : List (List Nat) := (g.late.filter fun r => r.key == accKey tile row 0 / 256).map (·.vals)

/-- A DRAIN reads a row of 256 elements. It is not interlocked against the array's writes (R49, R114): of a row that is not settled it reads a value of
the row before one of them, or after all; which of these is free. -/
def accReadDrain (s : State) (e tile row : Nat) : State × Bool × List Nat :=
  let x := accRead s e tile row 256
  match lateRows (s.eng e) tile row with
  | [] => x
  | olds =>
    let d := x.1.draw
    (d.1, x.2.1, olds.getD (d.2 % (olds.length + 1)) x.2.2)

/-- A SIG of queue `q` has been made: one of the tensor queue follows the MMAs before it (R114). -/
def noteSig (g : Engine) (q : Nat) : Engine := if q = 2 then { g with late := g.late.map fun r => { r with signed := true } } else g

/-- A WAIT of queue `q` for `v` has passed: one of the tensor queue settles the rows whose MMA such a SIG followed, and no others (R88, R89, R114).
DESIGN CHOICE (log entry 141): whichever semaphore the two name. -/
def noteWait (g : Engine) (q v : Nat) : Engine := if q = 2 && decide (0 < v) then { g with late := g.late.filter fun r => !r.signed } else g

/-! ## Rows -/

/-- The tile address of row `i` of region `t` (R104). -/
def rowAddr (r : RegFile) (t i : Nat) : Nat := (r.tBase t + (i % 2 ^ 64) * r.tPitch t * 16) % tileSize

/-- Bytes of `n` elements of a format. -/
def rowBytes (f : Format) (n : Nat) : Nat := (n * f.bitsPer + 7) / 8

/-- The bytes of a list as a function of the index. -/
def byteAt (bs : List Byte) (i : Nat) : Byte := bs.getD i 0#8

/-- The 16 bytes of a table-store slot of the active bank (R106). -/
def storeSlot (g : Engine) (n : Nat) : List Byte :=
  (List.range 16).map fun i => g.store.rd ((if g.bank then 4096 else 0) + 16 * n + i)

/-- The active bank as a byte function. -/
def activeBank (g : Engine) (i : Nat) : Byte := g.store.rd ((if g.bank then 4096 else 0) + i % 4096)

/-- Entry `i` of a codebook (R137). -/
def bookEntry (book : List Byte) (i : Nat) : Nat := leNat [byteAt book (2 * i), byteAt book (2 * i + 1)]

/-- The values of `n` elements of a row of bytes. -/
def rowValues (f : Format) (book : List Byte) (bs : List Byte) (n : Nat) : List Xr :=
  (List.range n).map fun i => elemValue f (bookEntry book) (elemCode f (byteAt bs) i)

/-- A block-scaled value: scale code 0x00 reads as +0, 0xFF as a NaN with INV (R142). -/
def scaledValue (v : Xr) (code : Nat) : Xr × Flags :=
  if code = 0 then (Xr.zero, 0) else if code = 255 then (.nan, Flags.inv) else (v.mul (ue5m3 code), 0)

/-- The format of a 2-bit FT field (R105). -/
def ftFormat (ft : Nat) : Format := if ft = 1 then .bf16 else if ft = 2 then .fp16 else .fp32

/-- A source row of a vector instruction: a region, an accumulator tile, a scalar in every lane, or none (Table 4-7). -/
inductive Lanes where
  | region (t : Nat)
  | acc (tile : Nat)
  | scalar (w : Nat)
  | absent
  deriving DecidableEq, Repr

/-- Reads `n` lanes of row `i` of a source. -/
def readLanes (s : State) (e : Nat) (r : RegFile) (k : Lanes) (ft i n : Nat) : State × Bool × List Xr :=
  match k with
  | .region t =>
    let f := ftFormat ft
    let x := tileRead s e (rowAddr r t i) (rowBytes f n)
    (x.1, x.2.1, rowValues f [] x.2.2 n)
  | .acc t =>
    let x := accRead s e t (i % 256) n
    (x.1, x.2.1, x.2.2.map f32)
  | .scalar w => (s, false, List.replicate n (f32 w))
  | .absent => (s, false, List.replicate n Xr.zero)

/-- Bytes of values in an element format. -/
def encodeRow (f : Format) (xs : List Xr) : List Byte :=
  match f with
  | .bf16 => (xs.map fun x => leBytes 2 (FFmt.bf16.encode x)).flatten
  | .fp16 => (xs.map fun x => leBytes 2 (FFmt.fp16.encode x)).flatten
  | _ => (xs.map fun x => leBytes 4 (FFmt.fp32.encode x)).flatten

/-- Converts an FP32 result to the element format of the destination, rounding to nearest even (R117). -/
def toFt (ft : Nat) (x : Xr) : Xr × Flags :=
  if ft = 1 then FFmt.bf16.round x else if ft = 2 then FFmt.fp16.round x else (x, 0)

/-- Writes FP32 results as row `i` of a destination: a region in FT, or an accumulator tile in FP32. Answers a dropped write and
the flags of the conversion. -/
def writeLanes (s : State) (e : Nat) (r : RegFile) (k : Lanes) (ft i : Nat) (xs : List Xr) : State × Bool × Flags :=
  match k with
  | .acc t =>
    let w := accWriteSome s e t (i % 256) (xs.map enc32)
    (w.1, w.2, 0)
  | .region t =>
    let ys := xs.map (toFt ft)
    let w := tileWrite s e (rowAddr r t i) (encodeRow (ftFormat ft) (ys.map (·.1)))
    (w.1, w.2, ys.foldl (fun f y => f ||| y.2) 0)
  | _ => (s, false, 0)

/-- Runs a step over a list of row numbers until one meets an uncorrectable error. -/
def rowLoop (step : Nat → State → State × Bool) : List Nat → State → State × Bool
  | [], s => (s, false)
  | i :: t, s =>
    let x := step i s
    if x.2 then x else rowLoop step t x.1

/-- Ends an instruction: an uncorrectable error raises the trap in its context (R52). -/
def finish (e pc : Nat) (x : State × Bool) : State := if x.2 then x.1.raiseTrap e 4 pc 0 else x.1

/-! ## Loop nests -/

/-- A level record of a Bucking slot (Table 6-2): strides, padding kinds and padding values of operands 0, 1 and 2. -/
structure Level where
  bound : Nat
  ext : Nat
  ord : Nat
  strs : List Int
  padks : List Nat
  padvs : List Nat
  deriving DecidableEq, Repr

/-- The stride of operand `o`. -/
def Level.str (l : Level) (o : Nat) : Int := l.strs.getD o 0
/-- The padding kind of operand `o`. -/
def Level.padk (l : Level) (o : Nat) : Nat := l.padks.getD o 0
/-- The padding value of operand `o`. -/
def Level.padv (l : Level) (o : Nat) : Nat := l.padvs.getD o 0

/-- The little-endian 64-bit word at byte `o` of slot `bn`. -/
def slotWord (g : Engine) (bn o : Nat) : Nat := leNat (g.slots.rdN (256 * bn + o) 8)

/-- Level `l` of a slot. -/
def slotLevel (g : Engine) (bn l : Nat) : Level :=
  let w (k : Nat) := slotWord g bn (64 + 32 * l + 8 * k)
  { bound := bits (w 0) 23 0
    ext := bits (w 0) 47 24
    ord := bits (w 0) 49 48
    strs := [sext 32 (bits (w 1) 31 0), sext 32 (bits (w 1) 63 32), sext 32 (bits (w 2) 31 0)]
    padks := [bits (w 0) 51 50, bits (w 0) 53 52, bits (w 0) 55 54]
    padvs := [bits (w 2) 63 32, bits (w 3) 31 0, bits (w 3) 63 32] }

/-- The active levels of a slot, level 0 first: NLEV 6 and 7 both mean six (R165). -/
def slotLevels (g : Engine) (bn : Nat) : List Level :=
  (List.range (min 6 (bits (slotWord g bn 0) 2 0))).map (slotLevel g bn)

/-- The lowest active level whose extent passes its bound (R170). -/
def extentFault (ls : List Level) : Option Nat := ls.findIdx? fun l => decide (l.bound < l.ext)

/-- Iterations of each level; level 0 counts granules (R171). -/
def levelCounts (ls : List Level) (granule : Nat) : List Nat :=
  ls.zipIdx.map fun p => if p.2 = 0 then (p.1.ext + granule - 1) / granule else p.1.ext

/-- The indices of pass `p` of a level in the order of Table 6-3. -/
def levelOrder (n ord p : Nat) : List Nat :=
  let up := if ord = 0 then true else if ord = 1 then false else if ord = 2 then p % 2 == 0 else p % 2 == 1
  if up then List.range n else (List.range n).reverse

/-- The points of a nest in visit order: for each level, innermost first, its index and whether it is the first of its pass. -/
def nestPoints (ls : List (Nat × Nat)) : List (List (Nat × Bool)) :=
  -- ls: (iterations, order code) of the levels, level 0 first
  ls.reverse.foldl (fun pre l =>
    (pre.zipIdx.map fun p => (levelOrder l.1 l.2 p.2).zipIdx.map fun q => (q.1, q.2 == 0) :: p.1).flatten) [[]]

/-- The offset of operand `o` at a point (R172). -/
def nestOffset (ls : List Level) (pt : List (Nat × Bool)) (o : Nat) : Int :=
  (ls.zip pt).foldl (fun a p => a + p.1.str o * (p.2.1 : Int)) 0

/-- The view of slot `bn` (R184). -/
def slotView (g : Engine) (bn : Nat) : BuckView := SMap.get (fun _ => ({} : BuckView)) g.views bn

/-- Changes the view of slot `bn`. -/
def modView (g : Engine) (bn : Nat) (f : BuckView → BuckView) : Engine :=
  { g with views := SMap.set (fun _ => ({} : BuckView)) g.views bn (f (slotView g bn)) }

/-- EXTENT on a slot that an instruction starts: its view takes the failing level and ITER 0, then the stopping trap is raised (R170, R184). `aux` is
the TAG of a deferred entry (Table 4-16). -/
def extentTrap (s : State) (e pc aux bn l : Nat) (lv : Level) : State :=
  (s.modEng e fun g => modView g bn fun v =>
    { v with xflt := true, xlev := l, iter := 0, xext := lv.ext, xbnd := lv.bound }).raiseTrap e 2 pc aux

/-- ITER of a slot's view (R184). -/
def setIter (s : State) (e bn n : Nat) : State := s.modEng e fun g => modView g bn fun v => { v with iter := n % 2 ^ 32 }

end Sys2Proof.Machine
end

