-- ==== Sys2Proof/Machine/Sfu.lean ====
section
/-! DEFINITION. The special functions of the vector queue as pure functions (R200 to R219, R230, R231): the built-in
functions, the MV9 forms, micro-programs, the fused stage, row statistics, the soft maximum and the rotary code. -/

namespace Sys2Proof

/-! ## Constants (Table 8-1, R231) -/

/-- log2(e) rounded to W (Table 8-1). -/
def log2eW : Xr := .fin false 0xB8AA3B295C18 (-47)
/-- ln 2 rounded to W (Table 8-1). -/
def ln2W : Xr := .fin false 0xB17217F7D1CF (-48)
/-- log2(e) rounded to FP32 (Table 8-1). -/
def log2e32 : Xr := .fin false 0xB8AA3B (-23)
/-- ln 2 rounded to FP32 (Table 8-1). -/
def ln2F32 : Xr := .fin false 0xB17218 (-24)
/-- 2/pi rounded to W (R231). -/
def twoOverPi : Xr := .fin false 0xA2F9836E4E44 (-48)
/-- The 24-bit head of pi/2 (R231). DEDUCED: rounded to nearest, as R201 rounds the constants. -/
def pio2Hi : Xr := .fin false 0xC90FDB (-23)
/-- The tail of pi/2 beyond its head, rounded to W (R231). -/
def pio2Lo : Xr := .fin true 0xBBBD2E7B9676 (-72)
def expSeedSigW0 : List Nat := [0xB504F333F9DE, 0xB6FD91E328D1, 0xB8FBAF4762FC, 0xBAFF5AB2133E, 0xBD08A39F580C, 0xBF1799B67A73, 0xC12C4CCA6671, 0xC346CCDA2497, 0xC5672A115507, 0xC78D74C8ABBA, 0xC9B9BD866E2F, 0xCBEC14FEF272, 0xCE248C151F85, 0xD06333DAEF2B, 0xD2A81D91F12B, 0xD4F35AABCFEE]
def expSeedSigW1 : List Nat := [0xD744FCCAD69D, 0xD99D15C278B0, 0xDBFBB797DAF2, 0xDE60F4825E0F, 0xE0CCDEEC2A95, 0xE33F8972BE8A, 0xE5B906E77C83, 0xE8396A503C4C, 0xEAC0C6E7DD24, 0xED4F301ED994, 0xEFE4B99BDCDB, 0xF281773C5A00, 0xF5257D152487, 0xF7D0DF730AD1, 0xFA83B2DB722A, 0xFD3E0C0CF487]
def expSeedSigW2 : List Nat := [0x800000000000, 0x8164D1F3BC03, 0x82CD8698AC2C, 0x843A28C3ACDE, 0x85AAC367CC48, 0x871F61969E8D, 0x88980E8092DB, 0x8A14D575496F, 0x8B95C1E3EA8C, 0x8D1ADF5B7E5C, 0x8EA4398B45CD, 0x9031DC431467, 0x91C3D373AB12, 0x935A2B2F13E7, 0x94F4EFA8FEF7, 0x96942D372018]
def expSeedSigW3 : List Nat := [0x9837F0518DB9, 0x99E0459320B8, 0x9B8D39B9D54E, 0x9D3ED9A72D00, 0x9EF5326091A1, 0xA0B0510FB971, 0xA27043030C49, 0xA43515AE09E7, 0xA5FED6A9B151, 0xA7CD93B4E965, 0xA9A15AB4EA7C, 0xAB7A39B5A93F, 0xAD583EEA42A1, 0xAF3B78AD690A, 0xB123F581D2AC, 0xB311C412A911]
/-- The 48-bit significands of EXPSEED[i] = 2^((i - 32)/64), i = 0 to 63 (Table 8-1); below i = 32 the value is the significand times 2^-48, from i = 32 on times 2^-47. -/
def expSeedSigW : List Nat := expSeedSigW0 ++ expSeedSigW1 ++ expSeedSigW2 ++ expSeedSigW3
def expSeedSig320 : List Nat := [0xB504F3, 0xB8FBAF, 0xBD08A4, 0xC12C4D, 0xC5672A, 0xC9B9BE, 0xCE248C, 0xD2A81E, 0xD744FD, 0xDBFBB8, 0xE0CCDF, 0xE5B907, 0xEAC0C7, 0xEFE4BA, 0xF5257D, 0xFA83B3]
def expSeedSig321 : List Nat := [0x800000, 0x82CD87, 0x85AAC3, 0x88980F, 0x8B95C2, 0x8EA43A, 0x91C3D3, 0x94F4F0, 0x9837F0, 0x9B8D3A, 0x9EF532, 0xA27043, 0xA5FED7, 0xA9A15B, 0xAD583F, 0xB123F6]
/-- The 24-bit significands of the MV9 EXPSEED[i] = 2^((i - 16)/32), i = 0 to 31 (Table 8-1). -/
def expSeedSig32 : List Nat := expSeedSig320 ++ expSeedSig321

/-- EXPSEED[i] in W. -/
def expSeedW (i : Nat) : Xr := .fin false (expSeedSigW.getD i 0) (if i < 32 then -48 else -47)
/-- EXPSEED[i] of the MV9 form. -/
def expSeed9 (i : Nat) : Xr := .fin false (expSeedSig32.getD i 0) (if i < 16 then -24 else -23)
/-- 1/k rounded to a precision. -/
def recip (p k : Nat) : Xr := let r := roundPos p none 1 k 0; .fin false r.1 r.2
/-- RCPSEED[i] = 64 / (64 + i + 0.5), rounded to W. -/
def rcpSeedW (i : Nat) : Xr := let r := roundPos 48 none 128 (129 + 2 * i) 0; .fin false r.1 r.2
/-- RCPSEED[i] = 32 / (32 + i + 0.5), rounded to FP32. -/
def rcpSeed9 (i : Nat) : Xr := let r := roundPos 24 none 64 (65 + 2 * i) 0; .fin false r.1 r.2

/-- An integer clamped to a range of naturals. -/
def clampI (x : Int) (hi : Nat) : Nat := if x < 0 then 0 else if (hi : Int) < x then hi else x.toNat

/-! ## Native primitives (R202, R203) -/

/-- exp_w. -/
def expW (t : Xr) : Xr :=
  if t.isNan then .nan
  else if Xr.lt (.fin false 128 0) t then .inf false
  else if Xr.lt t (.fin true 256 0) then Xr.zero
  else
    let n := (wmul t log2eW).rintI
    let f := wsub t (wmul (Xr.ofInt n) ln2W)
    let g := wmul f log2eW
    let i := clampI ((wadd g (.fin false 1 (-1))).scale 6).floorI 63
    let h := wmul (wsub g ((Xr.ofInt ((i : Int) - 32)).scale (-6))) ln2W
    let q := [5, 4, 3, 2, 1].foldl (fun q k => wfma (wmul h (recip 48 k)) q Xr.one) Xr.one
    (wmul (expSeedW i) q).scale n

/-- The binary exponent and the fraction of a positive finite value, the latter's top `b` bits. -/
def topFrac (x : Xr) (b : Nat) : Int × Nat :=
  match x with
  | .fin _ m e => let l := Nat.log2 m; ((l : Int) + e, (m <<< b) >>> l - 2 ^ b)
  | _ => (0, 0)

/-- rcp_w for d > 0. -/
def rcpW (d : Xr) : Xr :=
  match d with
  | .inf _ => Xr.zero
  | .nan => .nan
  | .fin _ _ _ =>
    let t := topFrac d 6
    let step (y : Xr) : Xr := wfma y (wfma d.neg y Xr.one) y
    step (step (step ((rcpSeedW t.2).scale (-t.1))))

/-- The FP32 exponential e32 of the library (R203) with its rounding flags. -/
def e32 (t : Xr) : Xr × Flags := rnd32 t.isNan (expW t)

/-- tanh in W, native (R204); the argument is not a NaN. -/
def tanhW (x : Xr) : Xr :=
  let a := x.abs
  if a.isZero then x
  else
    let r :=
      if Xr.lt a (.fin false 1 (-12)) then a
      else if Xr.le (.fin false 19 (-1)) a then Xr.one
      else
        let m := wsub (expW (wmul (.fin true 2 0) a)) Xr.one
        wmul m.neg (rcpW (wadd m (.fin false 2 0)))
    Xr.withSign x.sign r

/-- logistic in W, native (R204); the argument is not a NaN. -/
def logisticW (x : Xr) : Xr :=
  if Xr.le Xr.zero x then rcpW (wadd Xr.one (expW x.neg))
  else
    let u := expW x
    wmul u (rcpW (wadd Xr.one u))

/-! ## MV9 forms (R207) -/

/-- Flushes an FP32 subnormal to zero with its sign. -/
def ftz (x : Xr) : Xr :=
  match x with
  | .fin n m e => if (Nat.log2 m : Int) + e < -126 then .fin n 0 0 else .fin n m e
  | y => y
/-- One FP32 step of the MV9 unit: rounded, then flushed. -/
def r9 (x : Xr) : Xr := ftz (round32 x)

/-- exp9. The range limits are compared exactly, as hundredths. -/
def exp9 (t : Xr) : Xr :=
  let t100 := Xr.mul t (.fin false 100 0)
  if t.isNan then .nan
  else if Xr.lt (.fin false 8872 0) t100 then .inf false
  else if Xr.lt t100 (.fin true 8734 0) then Xr.zero
  else
    let n := (r9 (t.mul log2e32)).rintI
    let f := r9 (t.sub (r9 ((Xr.ofInt n).mul ln2F32)))
    let g := r9 (f.mul log2e32)
    let i := clampI ((r9 (g.add (.fin false 1 (-1)))).scale 5).floorI 31
    let h := r9 ((r9 (g.sub ((Xr.ofInt ((i : Int) - 16)).scale (-5)))).mul ln2F32)
    let q := [3, 2, 1].foldl (fun q k => r9 (((r9 (h.mul (recip 24 k))).mul q).add Xr.one)) Xr.one
    r9 ((r9 ((expSeed9 i).mul q)).scale n)

/-- rcp9 for d > 0. -/
def rcp9 (d : Xr) : Xr :=
  match d with
  | .inf _ => Xr.zero
  | .nan => .nan
  | .fin _ _ _ =>
    let t := topFrac d 5
    let step (y : Xr) : Xr := r9 ((y.mul (r9 ((d.neg.mul y).add Xr.one))).add y)
    step (step (r9 ((rcpSeed9 t.2).scale (-t.1))))

/-- tanh_mv9. DEDUCED (log entry 124): ±0 gives ±0, as the rule states; the steps give 2 · rcp9(2) = 1 − 2^-24. -/
def tanh9 (x0 : Xr) : Xr :=
  let x := ftz x0
  let a := x.abs
  let r := if x.isZero then Xr.zero else if Xr.le (.fin false 9 0) a then Xr.one
    else r9 (Xr.one.sub (r9 ((Xr.fin false 2 0).mul (rcp9 (r9 ((exp9 (r9 (a.scale 1))).add Xr.one))))))
  Xr.withSign x.sign r

def logistic9 (x0 : Xr) : Xr := rcp9 (r9 (Xr.one.add (exp9 (ftz x0).neg)))

/-- A built-in function of one lane: the FP32 result and the flags of that result alone (R206). A finite argument whose
exact function value is not zero and whose result is zero sets UNF. -/
def builtin (tanh m9 : Bool) (x : Xr) : Xr × Flags :=
  if x.isNan then (.nan, 0)
  else
    let w := match tanh, m9 with
      | true, false => tanhW x
      | true, true => tanh9 x
      | false, false => logisticW x
      | false, true => logistic9 x
    let r := FFmt.fp32.round w
    let lost := r.1.isZero && !x.isInf && !(tanh && x.isZero)
    (r.1, r.2 ||| (if lost then Flags.unf else 0))

/-! ## Micro-programs (R207 to R210) -/

/-- VCLAMP and the CLAMP of magnitude P: min(max(a, -|b|), |b|), the canonical NaN for a NaN operand. -/
def clampMag (a b : Xr) : Xr :=
  if a.isNan || b.isNan then .nan else (Xr.minNum (Xr.maxNum a b.abs.neg) b.abs)

/-- The FP32 entry `j` of the seed table at line `tl` of a table-store bank (R210). -/
def seedEntry (bank : Nat → Byte) (tl j : Nat) : Xr :=
  let b := fun i => bank ((64 * tl + 4 * j + i) % 4096)
  f32 (leNat [b 0, b 1, b 2, b 3])

/-- SEED of R210. DESIGN CHOICE (log entries 23 and 154): MODE 1 at -0 gives a free seed and sets no flag, and MODE 2 passes a subnormal entry without UNF. -/
def seedStep (bank : Nat → Byte) (tl mode : Nat) (a : Xr) : Xr × Flags :=
  match a with
  | .nan => (.nan, 0)
  | .inf n =>
    if mode = 1 then (if n then (.nan, Flags.inv) else (Xr.zero, 0))
    else if mode = 2 then (seedEntry bank tl (if n then 0 else 63), 0)
    else (.fin n 0 0, 0)
  | .fin n m e =>
    if mode = 2 then (seedEntry bank tl (clampI ((Xr.fin n m (e + 6)).floorI) 63), 0)
    else if m = 0 then
      if mode = 1 then (if n then (f32 Config.rsqrtSeedNegZero.toNat, 0) else (.inf false, Flags.divz))
      else (.inf n, Flags.divz)
    else if mode = 1 then
      if n then (.nan, Flags.inv)
      else
        let t := topFrac a 5
        let odd := t.1 % 2
        let ent := seedEntry bank tl (odd.toNat * 32 + t.2)
        rnd32 ent.isNan (ent.scale (-((t.1 - odd) / 2)))
    else
      let t := topFrac a 6
      let ent := seedEntry bank tl t.2
      let r := rnd32 ent.isNan (ent.scale (-t.1))
      (if n then r.1.neg else r.1, r.2)

/-- A·2^k with the exponent held where an FP32 result no longer depends on it. -/
def scaleClamped (a : Xr) (k : Int) : Xr := a.scale (max (-2000) (min 2000 k))

/-- The condition of SEL (R208). -/
def selCond (mode : Nat) (a k : Xr) : Bool :=
  match mode with
  | 1 => Xr.le a k
  | 2 => Xr.eqv a k
  | 3 => a.isNan
  | 4 => Xr.lt a.abs k
  | 5 => Xr.le k a.abs
  | _ => Xr.lt a k

/-- One step word run on the eight step registers: the registers after it, the result and its flags. DESIGN CHOICE (log entry 123): the n of RED that is zero
carries the sign of A. DESIGN CHOICE (log entry 154): a flush by FZ sets no flag. DEDUCED (log entry 22): EXP2 with an infinite B multiplies A by infinity or 0. -/
def stepWord (bank : Nat → Byte) (w : Nat) (v : List Xr) : List Xr × Xr × Flags :=
  let fz := bit w 58
  let fl (x : Xr) : Xr := if fz then ftz x else x
  let d := bits w 57 55
  let k := fl (f32 (bits w 31 0))
  let a := fl (v.getD (bits w 54 52) Xr.zero)
  let b := if bit w 45 then k else fl (v.getD (bits w 51 49) Xr.zero)
  let c := if bit w 44 then k else fl (v.getD (bits w 48 46) Xr.zero)
  let mode := bits w 43 41
  let tl := bits w 40 35
  let out (r : Xr × Flags) : List Xr × Xr × Flags := (v.set d (fl r.1), fl r.1, r.2)
  match bits w 63 60 with
  | 1 =>
    match a with
    | .fin _ _ _ =>
      let n := Xr.ofInt (if mode = 1 then a.floorI else a.rintI)
      let n' := if n.isZero then Xr.withSign a.sign n else n
      let r := sub32 a n'
      ((v.set (bits w 48 46) (fl n')).set d (fl r.1), fl r.1, r.2)
    | .inf n => ((v.set (bits w 48 46) (.inf n)).set d .nan, .nan, Flags.inv)
    | .nan => ((v.set (bits w 48 46) .nan).set d .nan, .nan, 0)
  | 2 => out (seedStep bank tl mode a)
  | 3 => out (mul32 a b)
  | 4 => out (fma32 a b c)
  | 5 =>
    let e := fma32 a.neg b Xr.one
    let r := fma32 b (fl e.1) b
    out (r.1, r.2 ||| e.2)
  | 6 =>
    match b with
    | .fin _ _ _ => out (rnd32 a.isNan (scaleClamped a b.rintI))
    | .inf n => out (mul32 a (if n then Xr.zero else .inf false))
    | .nan => out (.nan, 0)
  | 7 => out (rnd32 true (if selCond mode a k then b else c))
  | 8 => out (rnd32 true (if a.isNan || b.isNan || c.isNan then .nan else Xr.minNum (Xr.maxNum a b) c))
  | _ => out (.nan, Flags.inv)

/-- Runs at most `n` step words from word `pc` modulo 512; the result is that of the first END or of the last word. -/
def stepRunFrom (bank : Nat → Byte) : Nat → Nat → List Xr → Xr → Flags → Xr × Flags
  | 0, _, _, r, f => (r, f)
  | n + 1, pc, v, _, f =>
    let w := leNat ((List.range 8).map fun i => bank (8 * (pc % 512) + i))
    let o := stepWord bank w v
    if bit w 59 then (o.2.1, f ||| o.2.2) else stepRunFrom bank n (pc + 1) o.1 o.2.1 (f ||| o.2.2)

/-- A micro-program on one lane (R209): at most sixteen words from ENTRY. -/
def microProgram (bank : Nat → Byte) (entry : Nat) (v0 v1 v2 v3 : Xr) : Xr × Flags :=
  stepRunFrom bank 16 entry [v0, v1, v2, v3, Xr.zero, Xr.zero, Xr.zero, Xr.zero] Xr.zero 0

/-! ## The fused stage (R214, Table 8-7) -/

/-- A fused-stage descriptor (Table 8-6). -/
structure FusedDesc where
  act : Nat
  m9 : Bool
  be : Bool
  bf : Bool
  entry : Nat
  boff : Nat
  alpha : Xr
  beta : Xr
  p : Xr
  deriving DecidableEq, Repr

/-- The descriptor in slot `fsd` of a bank. -/
def fusedDesc (bank : Nat → Byte) (fsd : Nat) : FusedDesc :=
  let w (j : Nat) : Nat := leNat ((List.range 8).map fun i => bank ((16 * fsd + 8 * j + i) % 4096))
  { act := bits (w 0) 63 60, m9 := bit (w 0) 59, be := bit (w 0) 58, bf := bit (w 0) 57,
    entry := bits (w 0) 56 48, boff := bits (w 0) 45 23,
    alpha := f32 (bits (w 1) 31 0), beta := f32 (bits (w 1) 63 32), p := f32 (bits (w 2) 31 0) }

/-- The activation of Table 8-7. -/
def activation (bank : Nat → Byte) (fd : FusedDesc) (z x : Xr) : Xr × Flags :=
  match fd.act with
  | 0 => (z, 0)
  | 1 => if z.isNan || Xr.lt Xr.zero z then (z, 0) else (Xr.zero, 0)
  | 2 => if z.isNan || Xr.lt Xr.zero z then (z, 0) else mul32 z fd.p
  | 3 => rnd32 true (clampMag z fd.p)
  | 4 => builtin true fd.m9 z
  | 5 => builtin false fd.m9 z
  | 6 =>
    let l := builtin false fd.m9 z
    let r := mul32 z l.1
    (r.1, r.2 ||| l.2)
  | 7 =>
    let u1 := mul32 z z
    let u2 := mul32 u1.1 z
    let u3 := fma32 u2.1 (f32 0x3D372713) z
    let u4 := mul32 u3.1 (f32 0x3F4C422A)
    let t := builtin true fd.m9 u4.1
    let h := mul32 (.fin false 1 (-1)) z
    let r := fma32 h.1 t.1 h.1
    (r.1, u1.2 ||| u2.2 ||| u3.2 ||| u4.2 ||| t.2 ||| h.2 ||| r.2)
  | 8 => microProgram bank fd.entry z x fd.p Xr.zero
  | _ => (.nan, Flags.inv)

/-- The fused stage on one lane; `b` is the widened bias element or +0. -/
def fusedStage (bank : Nat → Byte) (fd : FusedDesc) (x b : Xr) : Xr × Flags :=
  let z := fma32 fd.alpha x b
  let a := activation bank fd z.1 x
  let y := mul32 a.1 fd.beta
  (y.1, z.2 ||| a.2 ||| y.2)

/-! ## Row statistics (R216) -/

/-- compensated_add of R216 with its flags. -/
def compAdd (s c d : Xr) : Xr × Xr × Flags :=
  let t := add32 s d
  let big := Xr.le d.abs s.abs
  let u := if big then sub32 s t.1 else sub32 d t.1
  let w := if big then add32 u.1 d else add32 u.1 s
  let c' := add32 c w.1
  (t.1, c'.1, t.2 ||| u.2 ||| w.2 ||| c'.2)

/-- The sums of the statistics: s1, c1, s2, c2 and the flags of the operations that make them. -/
abbrev StatSums := Xr × Xr × Xr × Xr × Flags

/-- One turn of the loop of R216: element `x` with the shift `k`. -/
def statsAdd (k : Xr) (a : StatSums) (x : Xr) : StatSums :=
  let d := sub32 x k
  let dd := mul32 d.1 d.1
  let s1 := compAdd a.1 a.2.1 d.1
  let s2 := compAdd a.2.2.1 a.2.2.2.1 dd.1
  (s1.1, s1.2.1, s2.1, s2.2.1, a.2.2.2.2 ||| d.2 ||| dd.2 ||| s1.2.2 ||| s2.2.2)

/-- The statistics of one row or group (R216): the two values written, the flags of every operation of the algorithm, and whether the variance was
clamped. A NaN among the elements makes both values NaN and takes no flag away. -/
def rowStats (rms : Bool) (xs : List Xr) : Xr × Xr × Flags × Bool :=
  let k := if rms then Xr.zero else xs.headD Xr.zero
  let acc := xs.foldl (statsAdd k) (Xr.zero, Xr.zero, Xr.zero, Xr.zero, 0)
  let t1 := add32 acc.1 acc.2.1
  let t2 := add32 acc.2.2.1 acc.2.2.2.1
  let m1 := divNat32 t1.1 xs.length
  let m2 := divNat32 t2.1 xs.length
  let fl := acc.2.2.2.2 ||| t1.2 ||| t2.2 ||| m1.2 ||| m2.2
  let nan := xs.any Xr.isNan
  if rms then (if nan then .nan else Xr.zero, if nan then .nan else m2.1, fl, false)
  else
    let ve := m2.1.sub (m1.1.mul m1.1)
    let mean := add32 k m1.1
    if nan then (.nan, .nan, fl ||| mean.2, false)
    else if Xr.lt ve Xr.zero then (mean.1, Xr.zero, fl ||| mean.2, true)
    else
      let v := rnd32 (m1.1.isNan || m2.1.isNan) ve
      (mean.1, if v.1.isZero then Xr.zero else v.1, fl ||| v.2 ||| mean.2, false)

/-! ## Soft maximum (R218, R219) -/

/-- Splits a row into chunks of 256 elements, at most `n` of them. -/
def chunks256 : Nat → List Xr → List (List Xr)
  | 0, _ => []
  | _ + 1, [] => []
  | n + 1, xs => xs.take 256 :: chunks256 n (xs.drop 256)

/-- The exact sum of a list of values. -/
def exactSum (xs : List Xr) : Xr := xs.foldl Xr.add Xr.zero

/-- One chunk of R218 on the running maximum and sum. -/
def smaxChunk (ms : Xr × Xr × Flags) (ys : List Xr) : Xr × Xr × Flags :=
  let m := ms.1
  let mn := ys.foldl Xr.maxNum m
  let f := if Xr.eqv m mn then (Xr.one, 0) else e32 (m.sub mn)
  let es := ys.map fun y => e32 (y.sub mn)
  let cs := if Xr.eqv mn (.inf true) then (Xr.zero, 0) else rnd32 false (exactSum (es.map (·.1)))
  let ef := if Xr.eqv mn (.inf true) then (0 : Flags) else es.foldl (fun a e => a ||| e.2) 0
  let p := mul32 ms.2.1 f.1
  let s := add32 p.1 cs.1
  (mn, s.1, ms.2.2 ||| f.2 ||| ef ||| cs.2 ||| p.2 ||| s.2)

/-- SMAX of one logical row, each result rounded to FP32 (R219). DESIGN CHOICE (log entry 122): the special rows are judged on y, and the flags of SCL · x are
not raised there. -/
def softMax (scl : Xr) (xs : List Xr) : List Xr × Flags :=
  let ys := xs.map fun x => mul32 scl x
  let y := ys.map (·.1)
  let mx := y.foldl Xr.maxNum (.inf true)
  if scl.isNan || y.any Xr.isNan || Xr.eqv mx (.inf false) then
    (xs.map fun _ => .nan, if scl.isNan || xs.any Xr.isNan then 0 else Flags.inv)
  else if Xr.eqv mx (.inf true) then (xs.map fun _ => Xr.zero, 0)
  else
    let r0 := (chunks256 xs.length y).foldl smaxChunk (.inf true, Xr.zero, ys.foldl (fun a p => a ||| p.2) 0)
    let r := rnd32 false (rcpW r0.2.1)
    let os := y.map fun v =>
      let e := e32 (v.sub r0.1)
      let o := mul32 e.1 r.1
      (o.1, e.2 ||| o.2)
    (os.map (·.1), os.foldl (fun a o => a ||| o.2) (r0.2.2 ||| r.2))

/-! ## Three-axis rotary code (R230 to R232) -/

/-- A rotary descriptor (Table 9-6). -/
structure RotDesc where
  ft : Xr
  rt : Xr
  fh : Xr
  rh : Xr
  fw : Xr
  rw : Xr
  nt : Nat
  nh : Nat
  nw : Nat
  pm : Bool
  w4 : Nat
  gw : Nat
  gh : Nat
  tstep : Xr
  t0 : Xr
  deriving DecidableEq, Repr

/-- Reads a rotary descriptor whose 64-bit words are given. -/
def rotDesc (w : Nat → Nat) : RotDesc :=
  { ft := f32 (bits (w 0) 63 32), rt := f32 (bits (w 0) 31 0), fh := f32 (bits (w 1) 63 32), rh := f32 (bits (w 1) 31 0),
    fw := f32 (bits (w 2) 63 32), rw := f32 (bits (w 2) 31 0), nt := bits (w 3) 63 56, nh := bits (w 3) 55 48,
    nw := bits (w 3) 47 40, pm := bit (w 3) 39, w4 := w 4, gw := bits (w 5) 63 48, gh := bits (w 5) 47 32,
    tstep := f32 (bits (w 5) 31 0), t0 := f32 (bits (w 6) 63 32) }

/-- R232. -/
def RotDesc.valid (d : RotDesc) : Bool :=
  d.nt + d.nh + d.nw == 128 && d.nt % 2 == 0 && d.nh % 2 == 0 && d.nw % 2 == 0 && (!d.pm || (d.gw != 0 && d.gh != 0))

/-- The position triple of a token index (R230). DESIGN CHOICE (log entry 149): the one rounding of pt sets neither OVF nor UNF. `tab` gives the FP32 words 0 to 2 of the position table for PM 0. -/
def rotPos (d : RotDesc) (tab : Nat → Xr) (i : Nat) : Xr × Xr × Xr :=
  if d.pm then
    let g := d.w4 + i
    (round32 (d.t0.add ((Xr.ofNatE (g / (d.gw * d.gh)) 0).mul d.tstep)),
      Xr.ofNatE (g / d.gw % d.gh) 0, Xr.ofNatE (g % d.gw) 0)
  else (tab 0, tab 1, tab 2)

/-- theta(a, q): the iteration of R231. -/
def rotTheta (f r : Xr) : Nat → Xr
  | 0 => f
  | q + 1 => wmul (rotTheta f r q) r

/-- A polynomial in r2 by Horner's rule, highest coefficient first. -/
def hornerW (r2 : Xr) : List Xr → Xr
  | [] => Xr.zero
  | c :: cs => cs.foldl (fun a k => wfma a r2 k) c

/-- The Horner coefficient (-1)^(k / 2) / k! rounded to W. -/
def rotCoef (k fact : Nat) : Xr :=
  let r := roundPos 48 none 1 fact 0
  .fin (k / 2 % 2 == 1) r.1 r.2

def sinCoefs : List Xr :=
  [(15, 1307674368000), (13, 6227020800), (11, 39916800), (9, 362880), (7, 5040), (5, 120), (3, 6), (1, 1)].map
    fun p => rotCoef p.1 p.2
def cosCoefs : List Xr :=
  [(16, 20922789888000), (14, 87178291200), (12, 479001600), (10, 3628800), (8, 40320), (6, 720), (4, 24), (2, 2),
    (0, 1)].map fun p => rotCoef p.1 p.2

/-- (sin, cos) of an angle in W (R231). -/
def rotSinCos (phi : Xr) : Xr × Xr :=
  match phi with
  | .fin _ _ _ =>
    let kq := (wmul phi twoOverPi).rintI
    let k := Xr.ofInt kq
    let r := wsub (wsub phi (wmul k pio2Hi)) (wmul k pio2Lo)
    let r2 := wmul r r
    let sn := wmul r (hornerW r2 sinCoefs)
    let cs := hornerW r2 cosCoefs
    match imod kq 4 with
    | 0 => (sn, cs)
    | 1 => (cs, sn.neg)
    | 2 => (sn.neg, cs.neg)
    | _ => (cs.neg, sn)
  | _ => (.nan, .nan)

/-- Rotates the pair (x0, x1) of channels 2q and 2q + 1 of a head, c being the even channel number. -/
def rotPair (d : RotDesc) (pos : Xr × Xr × Xr) (c : Nat) (x0 x1 : Xr) : (Xr × Xr) × Flags :=
  let ax : Xr × Xr × Xr × Nat :=
    if c < d.nt then (d.ft, d.rt, pos.1, c / 2)
    else if c < d.nt + d.nh then (d.fh, d.rh, pos.2.1, (c - d.nt) / 2)
    else (d.fw, d.rw, pos.2.2, (c - d.nt - d.nh) / 2)
  let phi := wmul ax.2.2.1 (rotTheta ax.1 ax.2.1 ax.2.2.2)
  let sc := rotSinCos phi
  let nanIn := x0.isNan || x1.isNan || ax.1.isNan || ax.2.1.isNan || ax.2.2.1.isNan
  let y0 := rnd32 nanIn (wsub (wmul x0 sc.2) (wmul x1 sc.1))
  let y1 := rnd32 nanIn (wadd (wmul x0 sc.1) (wmul x1 sc.2))
  ((y0.1, y1.1), y0.2 ||| y1.2)

end Sys2Proof
end

