-- ==== Sys2Proof/Machine/EngTensor.lean ====
section
/-! DEFINITION. The array and the converters: MMA load and compute with their nests (R41 to R45, R105 to R111, R168 to R176), DRAIN
(R112, R113) and CVT (R115, R116), with the feeds to error monitors (R155). -/

namespace Sys2Proof.Machine

/-! ## The stationary operand -/

/-- The format of a legal format code. -/
def fmtOf (c : Nat) : Format := (Format.ofCode c).getD .fp32

/-- Reads the row bytes or scale bytes of a stationary tile, of row `k` those that `need k` names; answers a double-bit error among them. -/
def readRows (s : State) (e : Nat) (r : RegFile) (t first n bytes stride : Nat) (need : Nat → Nat → Bool) : State × Bool × ByteMap :=
  (List.range n).foldl (fun acc k =>
    let x := tileReadSome acc.1 e (rowAddr r t (first + k)) bytes (need k)
    (x.1, acc.2.1 || x.2.1, ByteMap.wrN acc.2.2 (stride * k) x.2.2)) (s, false, [])

/-- MMA load: fills the shadow copy and records the formats (R107). Elements of blocks whose scale code is 0x00 are not read (R42). -/
def effMmaLoad (e pc aux : Nat) (f : Fields) (w2 : Word64) (r : RegFile) (s : State) : State :=
  let fs := fld2 w2 63 60
  let nss := bit w2.toNat 55
  let kb := fld2 w2 37 32 + 1
  let first := r.getS (fld f 39 35)
  let scales : State × Bool × ByteMap := if nss then (s, false, []) else readRows s e r (fld f 43 40) first kb 256 256 fun _ _ => true
  let bp := (fmtOf fs).bitsPer
  let need (k j : Nat) : Bool := nss || (List.range ((8 * j + 7) / bp - 8 * j / bp + 1)).any fun i =>
    scales.2.2.rd (256 * (k / 16) + (8 * j / bp + i)) != 0#8
  let rows := readRows scales.1 e r (fld f 47 44) first (16 * kb) (rowBytes (fmtOf fs) 256) 512 need
  if rows.2.1 || scales.2.1 then rows.1.raiseTrap e 4 pc aux
  else
    let book := if isBook fs then storeSlot (s.eng e) (fld2 w2 53 46) else []
    let st : Stationary := ⟨fs, fld2 w2 59 56, nss, bit w2.toNat 54, fld2 w2 45 38, kb, rows.2.2, scales.2.2, book⟩
    rows.1.modEng e fun g => { g with shadow := some st }

/-- The value of stationary element (k, n). -/
def statValue (st : Stationary) (k n : Nat) : Xr :=
  let f := fmtOf st.fs
  elemValue f (bookEntry st.book) (elemCode f (fun i => st.rows.rd (512 * k + i)) n)

/-- The scale code of stationary block `blk`, column `n`; an operand without scales reads 1.0. -/
def statScale (st : Stationary) (blk n : Nat) : Nat := if st.nss then 0x78 else (st.scales.rd (256 * blk + n)).toNat

/-! ## The fold (R42) -/

/-- One block of the fold: the exact block sum, the flags its scales raise, and whether an operand was a NaN. -/
def blockSum (as bs : List Xr) (ca cb : Nat) : Xr × Flags × Bool :=
  if ca = 0 || cb = 0 then (Xr.zero, 0, false)
  else if ca = 255 || cb = 255 then (.nan, Flags.inv, true)
  else
    let s := (as.zip bs).foldl (fun a p => a.add (p.1.mul p.2)) Xr.zero
    ((s.mul (ue5m3 ca)).mul (ue5m3 cb), 0, as.any Xr.isNan || bs.any Xr.isNan)

/-- One result element: `kb` blocks folded in ascending k onto `acc`. -/
def foldElem (a : Nat → Xr) (ca : Nat → Nat) (b : Nat → Xr) (cb : Nat → Nat) (kb : Nat) (acc : Xr) : Xr × Flags :=
  (List.range kb).foldl (fun x blk =>
    let ks := (List.range 16).map fun i => 16 * blk + i
    let t := blockSum (ks.map a) (ks.map b) (ca blk) (cb blk)
    let y := rnd32 (t.2.2 || x.1.isNan) (x.1.add t.1)
    (y.1, x.2 ||| t.2.1 ||| y.2)) (acc, 0)

/-- What a padded element reads under a padding kind and value (R168, R169): its value under the scale 1.0. -/
def padElem (f : Format) (book : List Byte) (kind v : Nat) : Xr :=
  match kind with
  | 0 => .inf true
  | 1 => elemValue f (bookEntry book) (v % 256 % 2 ^ f.bitsPer)
  | 2 => f32 v
  | _ => .inf false

/-- A streamed row: its elements and scale codes, or the padding of operand 0 of level 0 for a tail row (R108, R174). -/
structure Streamed where
  vals : List Xr
  codes : List Nat
  deriving DecidableEq, Repr

/-- Block `blk` of a streamed row with scale code `c` is read: neither operand's code makes it zero in every column (R42). -/
def blockRead (st : Stationary) (blk c : Nat) : Bool := c != 0 && (List.range 256).any fun n => statScale st blk n != 0

/-- Reads streamed row `i`: its scales, then the elements of the blocks that are read. -/
def readStreamed (s : State) (e : Nat) (r : RegFile) (t ts i : Nat) (st : Stationary) : State × Bool × Streamed :=
  let f := fmtOf st.fm
  let n := 16 * st.kb
  let book := if isBook st.fm then storeSlot (s.eng e) st.cbm else []
  let y := if st.nsm then (s, false, []) else tileRead s e (rowAddr r ts i) st.kb
  let codes := if st.nsm then List.replicate st.kb 0x78 else y.2.2.map (·.toNat)
  let x := tileReadSome y.1 e (rowAddr r t i) (rowBytes f n) fun j =>
    let blk := j / (2 * f.bitsPer)
    blockRead st blk (codes.getD blk 0)
  (x.1, x.2.1 || y.2.1, ⟨rowValues f book x.2.2 n, codes⟩)

/-- Folds a streamed row into an accumulator row. -/
def foldRow (s : State) (e tile row : Nat) (init : Bool) (st : Stationary) (x : Streamed) : State × Bool :=
  let old := if init then (s, false, List.replicate 256 0) else accRead s e tile row 256
  if old.2.1 then (old.1, true)
  else
    let ys := (List.range 256).map fun n =>
      foldElem (fun k => x.vals.getD k Xr.zero) (fun b => x.codes.getD b 0) (fun k => statValue st k n)
        (fun b => statScale st b n) st.kb (f32 (old.2.2.getD n 0))
    ((accWriteArray old.1 e tile row (ys.map fun y => enc32 y.1)).raiseFlags e (joinFlags ys), false)

/-- ECLK cycles that `m` streamed rows occupy the cells (R46). -/
def occupied (st : Stationary) (m : Nat) : Nat := if st.fs = 1 || st.fm = 1 then 4 * m else m

/-- A row pass that has completed counts, with the cycles that it held the cells (Table 4-17). -/
def countPass (e : Nat) (st : Stationary) (x : State × Bool) : State × Bool :=
  if x.2 then x else ((x.1.tally e 0 (occupied st 1)).tally e 1 1, false)

/-- One array operation: rows `first` to `first + m − 1` into accumulator rows from `row0`; rows from `live` on are tail rows. -/
def arrayOp (s : State) (e : Nat) (r : RegFile) (t ts first m live tile row0 : Nat) (init : Bool) (pad : Nat × Nat)
    (st : Stationary) : State × Bool :=
  rowLoop (fun i z => countPass e st
    (if i < live then
      let x := readStreamed z e r t ts ((first + i) % 2 ^ 64) st
      if x.2.1 then (x.1, true) else foldRow x.1 e tile (row0 + i) init st x.2.2
    else
      let f := fmtOf st.fm
      let book := if isBook st.fm then storeSlot (z.eng e) st.cbm else []
      foldRow z e tile (row0 + i) init st
        ⟨List.replicate (16 * st.kb) (padElem f book pad.1 pad.2), List.replicate st.kb 0x78⟩)) (List.range m) s

/-- The swap at the start of a compute: a shadow that has been loaded becomes the active copy (R109). -/
def swapStationary (s : State) (e : Nat) : State :=
  s.modEng e fun g => match g.shadow with
    | some st => { g with active := st, shadow := none }
    | none => g

/-- A level is a reduction level of an MMA nest (R175). -/
def isReduction (l : Level) : Bool := l.str 1 == 0 && l.str 2 == 0

/-- The points of a nest, one array operation each, with ITER counting them. -/
def nestOps (e bn : Nat) (op : List (Nat × Bool) → State → State × Bool) :
    Nat → List (List (Nat × Bool)) → State → State × Bool
  | _, [], s => (s, false)
  | n, p :: t, s =>
    let x := op p s
    if x.2 then x else nestOps e bn op (n + 1) t (setIter x.1 e bn (n + 1))

/-- The identity of an empty MMA reduction: +0 in the M rows of each destination (R176). -/
def identityOps (s : State) (e acc m : Nat) (ls : List Level) (ns : List Nat) : State :=
  let dims := (ls.zip ns).map fun p => if isReduction p.1 then (1, 0) else (p.2, p.1.ord)
  (nestPoints dims).foldl (fun z p =>
    let q := (ls.zip p).map fun lp => if isReduction lp.1 then (0, true) else lp.2
    let tile := imod ((acc : Int) + nestOffset ls q 1) 4
    let row := imod (nestOffset ls q 2) 256
    (List.range m).foldl (fun y i => accWriteArray y e tile (row + i) (List.replicate 256 0#32)) z) s

/-- MMA compute, with its nest when BUCK is 1 (R108 to R110, R170 to R176). -/
def effMmaCompute (e pc aux : Nat) (f : Fields) (r : RegFile) (s : State) : State :=
  let g0 := s.eng e
  let bn := fld f 25 22
  let m := fld f 34 27 + 1
  let acc := fld f 49 48
  let zero := fld f 51 50 == 1
  let first := r.getS (fld f 39 35)
  let t := fld f 47 44
  let ts := fld f 43 40
  let ls := if bit f.toNat 26 then slotLevels g0 bn else []
  match extentFault ls with
  | some l =>
    let lv := slotLevel g0 bn l
    extentTrap s e pc aux bn l lv
  | none =>
    let s1 := swapStationary s e
    let st := (s1.eng e).active
    if !bit f.toNat 26 then
      let x := arrayOp s1 e r t ts first m m acc 0 zero (0, 0) st
      if x.2 then x.1.raiseTrap e 4 pc aux else x.1
    else
      let s2 := setIter s1 e bn 0
      let ns := levelCounts ls m
      if ns.any (· == 0) then
        if (ls.zip ns).any (fun p => p.2 == 0 && !isReduction p.1) || !zero then s2
        else identityOps s2 e acc m ls ns
      else
        let op (p : List (Nat × Bool)) (z : State) : State × Bool :=
          let init := zero && (ls.zip p).all fun lp => !isReduction lp.1 || lp.2.2
          let last := match p.head?, ns.head? with
            | some i, some n => i.1 + 1 == n
            | _, _ => false
          let live := if last then (ls.headD ⟨0, 0, 0, [], [], []⟩).ext - (ns.headD 1 - 1) * m else m
          let l0 := ls.headD ⟨0, 0, 0, [], [], []⟩
          arrayOp z e r t ts (imod ((first : Int) + nestOffset ls p 0) (2 ^ 64)) m live
            (imod ((acc : Int) + nestOffset ls p 1) 4) (imod (nestOffset ls p 2) 256) init (l0.padk 0, l0.padv 0) st
        let x := nestOps e bn op 0 (nestPoints (ns.zip (ls.map (·.ord)))) s2
        if x.2 then x.1.raiseTrap e 4 pc aux else x.1

/-- An MMA word, by its MODE. -/
def effMma (e pc aux : Nat) (f : Fields) (w2 : Word64) (r : RegFile) (s : State) : State :=
  if fld f 51 50 = 2 then effMmaLoad e pc aux f w2 r s else effMmaCompute e pc aux f r s

/-! ## Narrowing rows -/

/-- Where a narrowing writes and what it carries: regions, carry control and settings. -/
structure NarrowDest where
  td : Nat
  tds : Nat
  tr : Nat
  cfg : NarrowCfg
  deriving DecidableEq, Repr

/-- What a narrowing instruction gathers for its monitor: Σ|x| in units of 2^-149 (none: infinite), Σ|r| in units of 2^-16, and the
NaN inputs. -/
structure Sums where
  sx : Option Nat := some 0
  sr : Nat := 0
  nan : Nat := 0
  deriving DecidableEq, Repr

/-- Narrows one row of 256 values into row `i` of the destination (R143, R146, R152, R153). -/
def narrowRow (s : State) (e : Nat) (r : RegFile) (d : NarrowDest) (i pos : Nat) (xs : List Xr) (sm : Sums) :
    State × Bool × Sums :=
  let rd := if d.cfg.cc = 1 || d.cfg.cc = 3 then tileRead s e (rowAddr r d.tr i) 256 else (s, false, List.replicate 256 0#8)
  if rd.2.1 then (rd.1, true, sm)
  else
    let outs := (List.range 16).map fun j =>
      narrowBlock d.cfg ((xs.drop (16 * j)).take 16) (((rd.2.2.drop (16 * j)).take 16).map (·.toNat)) ((pos + 16 * j) % 2 ^ 64)
    let w1 := tileWrite rd.1 e (rowAddr r d.td i) (packCodes d.cfg.f ((outs.map (·.codes)).flatten))
    let w2 := if d.cfg.scaled then tileWrite w1.1 e (rowAddr r d.tds i) (outs.map fun o => BitVec.ofNat 8 o.scale) else (w1.1, false)
    let w3 := if d.cfg.cc = 1 || d.cfg.cc = 2 then
        tileWrite w2.1 e (rowAddr r d.tr i) (((outs.map (·.rout)).flatten).map (BitVec.ofNat 8)) else (w2.1, false)
    let s1 := (w3.1.tally e 7 (outs.filter (·.saturated)).length).raiseFlags e (outs.foldl (fun a o => a ||| o.flags) 0)
    let sx := match sm.sx, sumAbs xs with
      | some a, some b => some (a + b)
      | _, _ => none
    (s1, w1.2 || w2.2 || w3.2,
      ⟨sx, sm.sr + sumRes ((outs.map (·.rout)).flatten), sm.nan + (outs.map (·.nans)).foldl (· + ·) 0⟩)

/-- After the last row, one feed leaves for the monitor; NaN inputs count in its NAN_COUNT (R146, R155). DESIGN CHOICE (log entry 112): an instruction that
traps before its last row counts none of its NaNs, as it sends no feed. -/
def sendFeed (s : State) (e mon rows : Nat) (sm : Sums) : State :=
  if mon = 0 then s
  else
    let fd : Feed := ⟨mon, (s.eng e).ctx, 256 * rows, sm.sr, sm.sx, e, false⟩
    let s1 := s.count (Off.monReg mon 0x10) 15 0 sm.nan
    { s1 with sched := { s1.sched with feeds := s1.sched.feeds ++ [fd] } }

/-- Rows of a narrowing instruction in ascending order, with the sums for its monitor. -/
def narrowRows (e : Nat) (row : Nat → Sums → State → State × Bool × Sums) : List Nat → Sums → State → State × Bool × Sums
  | [], sm, s => (s, false, sm)
  | i :: t, sm, s =>
    let x := row i sm s
    if x.2.1 then x else narrowRows e row t x.2.2 x.1

/-- The settings of a narrowing to format code `fd` from s[SH] (R145, R149). -/
def narrowCfg (fd cc : Nat) (nsd di : Bool) (sh : Nat) : NarrowCfg × Flags :=
  let g := destScale (bits sh 31 0)
  ({ f := fmtOf fd, cc := cc, g := g.1, seed := bits sh 63 32, dither := di, scaled := hasScales fd nsd }, g.2)

/-- The bias row of a fused-stage descriptor: 256 elements, +0 where BE is 0 (R214, R215). -/
def biasRow (s : State) (e : Nat) (fd : FusedDesc) : State × Bool × List Xr :=
  if fd.be then
    let f := if fd.bf then Format.bf16 else Format.fp32
    let x := tileRead s e (fd.boff % tileSize) (rowBytes f 256)
    (x.1, x.2.1, rowValues f [] x.2.2 256)
  else (s, false, List.replicate 256 Xr.zero)

/-- The fused stage on a row of 256 values. -/
def fusedRow (s : State) (e fsd : Nat) (xs : List Xr) : State × Bool × List Xr :=
  let bank := activeBank (s.eng e)
  let fd := fusedDesc bank fsd
  let b := biasRow s e fd
  let ys := (xs.zip b.2.2).map fun p => fusedStage bank fd p.1 p.2
  (b.1.raiseFlags e (ys.foldl (fun a y => a ||| y.2) 0), b.2.1, ys.map (·.1))

/-- DRAIN (R112 to R114). -/
def effDrain (e pc aux : Nat) (f : Fields) (w2 : Word64) (r : RegFile) (s : State) : State :=
  let n := f.toNat
  let sg := r.getS (fld f 18 14)
  let prod := mul32 (f32 (bits sg 31 0)) (f32 (bits sg 63 32))
  let cfg := narrowCfg (fld f 22 19) (fld f 51 50) (bit n 6) (bit n 8) (r.getS (fld f 13 9))
  let dst : NarrowDest := ⟨fld f 47 44, fld f 43 40, fld f 39 36, cfg.1⟩
  let rows := fld f 30 23 + 1
  let first := r.getS (fld f 35 31)
  let pos := r.getS (fld2 w2 47 43)
  let s0 := s.raiseFlags e (prod.2 ||| cfg.2)
  let x := narrowRows e (fun i sm z =>
    let a := accReadDrain z e (fld f 49 48) i
    if a.2.1 then (a.1, true, sm)
    else
      let ys := a.2.2.map fun v => mul32 (f32 v) prod.1
      let z1 := a.1.raiseFlags e (ys.foldl (fun fl y => fl ||| y.2) 0)
      let fu := if bit n 7 then fusedRow z1 e (fld2 w2 55 48) (ys.map (·.1)) else (z1, false, ys.map (·.1))
      if fu.2.1 then (fu.1, true, sm)
      else narrowRow fu.1 e r dst ((first + i) % 2 ^ 64) (pos + 256 * i) fu.2.2 sm) (List.range rows) {} s0
  if x.2.1 then x.1.raiseTrap e 4 pc aux else sendFeed x.1 e (fld2 w2 63 56) rows x.2.2

/-- A source element of CVT: value × block scale × global scale, exact, then rounded once to FP32 (R116). -/
def cvtValue (v : Xr) (code : Option Nat) (g : Xr) : Xr × Flags :=
  match code with
  | none => rnd32 (v.isNan || g.isNan) (v.mul g)
  | some c =>
    let sv := scaledValue v c
    let y := rnd32 (sv.1.isNan || g.isNan) (sv.1.mul g)
    (y.1, sv.2 ||| y.2)

/-- CVT (R115, R116): each row is read from every source region before it is written; elements of a block with scale code 0x00 are not read (R142). -/
def effCvt (e pc : Nat) (f : Fields) (w2 : Word64) (r : RegFile) (s : State) : State :=
  let n := f.toNat
  let fi := fld f 49 46
  let scaled := hasScales fi (bit n 7)
  let g := f32 (bits (r.getS (fld2 w2 47 43)) 31 0)
  let cfg := narrowCfg (fld f 45 42) (fld f 51 50) (bit n 6) (bit n 8) (r.getS (fld2 w2 42 38))
  let dst : NarrowDest := ⟨fld f 33 30, fld f 29 26, fld f 25 22, cfg.1⟩
  let rows := fld f 16 9 + 1
  let first := r.getS (fld f 21 17)
  let pos := r.getS (fld2 w2 37 33)
  let x := narrowRows e (fun i sm z =>
    let row := (first + i) % 2 ^ 64
    let sc := if scaled then tileRead z e (rowAddr r (fld f 37 34) row) 16 else (z, false, [])
    let a := tileReadSome sc.1 e (rowAddr r (fld f 41 38) row) (rowBytes (fmtOf fi) 256) fun j =>
      !scaled || byteAt sc.2.2 (j / (2 * (fmtOf fi).bitsPer)) != 0#8
    if a.2.1 || sc.2.1 then (a.1, true, sm)
    else
      let book := if isBook fi then storeSlot (a.1.eng e) (fld2 w2 55 48) else []
      let vs := (rowValues (fmtOf fi) book a.2.2 256).zipIdx.map fun p =>
        cvtValue p.1 (if scaled then some (byteAt sc.2.2 (p.2 / 16)).toNat else none) g
      let z1 := a.1.raiseFlags e (vs.foldl (fun fl y => fl ||| y.2) 0)
      narrowRow z1 e r dst row (pos + 256 * i) (vs.map (·.1)) sm) (List.range rows) {} (s.raiseFlags e cfg.2)
  if x.2.1 then x.1.raiseTrap e 4 pc 0 else sendFeed x.1 e (fld2 w2 63 56) rows x.2.2

end Sys2Proof.Machine
end

