-- ==== Sys2Proof/Machine/EngVector.lean ====
section
/-! DEFINITION. The vector and SFU instructions of queue 3 (R117 to R119, R204 to R219, R233): what each writes per lane or per row. -/

namespace Sys2Proof.Machine

/-- Source A of a vector word (Table 4-7). -/
def vecA (f : Fields) : Lanes := if bit f.toNat 37 then .acc (fld f 45 44) else .region (fld f 47 44)
/-- Source B of a vector word. -/
def vecB (f : Fields) (r : RegFile) : Lanes :=
  match fld f 39 38 with
  | 0 => .region (fld f 43 40)
  | 1 => .acc (fld f 41 40)
  | 2 => .scalar (bits (r.getS (fld f 20 16)) 31 0)
  | _ => .absent
/-- The destination of a vector word. -/
def vecD (f : Fields) : Lanes := if bit f.toNat 36 then .acc (fld f 49 48) else .region (fld f 51 48)

/-- Runs a lane operation over the rows of a vector instruction: every lane computes in FP32, results are rounded, converted to FT and
written; flags are set (R117). `op` takes the row number within the instruction and the three source rows. -/
def vecRows (e pc : Nat) (f : Fields) (r : RegFile) (c : Lanes)
    (op : Nat → Engine → List Xr → List Xr → List Xr → List Xr × Flags) (s : State) : State :=
  let ft := fld f 22 21
  let first := r.getS (fld f 35 31)
  finish e pc (rowLoop (fun i z =>
    let row := (first + i) % 2 ^ 64
    let a := readLanes z e r (vecA f) ft row 256
    let b := readLanes a.1 e r (vecB f r) ft row 256
    let k := readLanes b.1 e r c ft row 256
    if a.2.1 || b.2.1 || k.2.1 then (k.1, true)
    else
      let y := op i (k.1.eng e) a.2.2 b.2.2 k.2.2
      let w := writeLanes k.1 e r (vecD f) ft row y.1
      (w.1.raiseFlags e (y.2 ||| w.2.2), w.2.1)) (List.range (fld f 30 23 + 1)) s)

/-- A lane operation applied to every lane. -/
def lanewise (op : Xr → Xr → Xr → Xr × Flags) (a b c : List Xr) : List Xr × Flags :=
  let ys := (a.zip (b.zip c)).map fun p => op p.1 p.2.1 p.2.2
  (ys.map (·.1), joinFlags ys)

/-- A vector instruction whose lanes do not depend on one another. -/
def vecLanes (e pc : Nat) (f : Fields) (r : RegFile) (op : Xr → Xr → Xr × Flags) (s : State) : State :=
  vecRows e pc f r .absent (fun _ _ a b c => lanewise (fun x y _ => op x y) a b c) s

/-- The lane operations of Table 4-8. -/
def opMin (a b : Xr) : Xr × Flags := rnd32 true (a.minNum b)
def opMax (a b : Xr) : Xr × Flags := rnd32 true (a.maxNum b)
def opMov (a _ : Xr) : Xr × Flags := rnd32 true a
def opAbs (a _ : Xr) : Xr × Flags := rnd32 true a.abs
def opNeg (a _ : Xr) : Xr × Flags := rnd32 true a.neg
def opClamp (a b : Xr) : Xr × Flags := rnd32 true (clampMag a b)
def opTanh (a _ : Xr) : Xr × Flags := builtin true false a
def opLogi (a _ : Xr) : Xr × Flags := builtin false false a

/-- VFMA: A × B + C with one rounding (R117, Table 4-9). -/
def effVfma (e pc : Nat) (f : Fields) (w2 : Word64) (r : RegFile) (s : State) : State :=
  let c : Lanes := if bit w2.toNat 59 then .acc (fld2 w2 61 60) else .region (fld2 w2 63 60)
  vecRows e pc f r c (fun _ _ a b c => lanewise fma32 a b c) s

/-- VFUSE: the fused stage on source A (R214). -/
def effVfuse (e pc : Nat) (f : Fields) (w2 : Word64) (r : RegFile) (s : State) : State :=
  let ft := fld f 22 21
  let first := r.getS (fld f 35 31)
  finish e pc (rowLoop (fun i z =>
    let row := (first + i) % 2 ^ 64
    let a := readLanes z e r (vecA f) ft row 256
    if a.2.1 then (a.1, true)
    else
      let y := fusedRow a.1 e (fld2 w2 58 51) a.2.2
      if y.2.1 then (y.1, true)
      else
        let w := writeLanes y.1 e r (vecD f) ft row y.2.2
        (w.1.raiseFlags e w.2.2, w.2.1)) (List.range (fld f 30 23 + 1)) s)

/-- STEPRUN: the micro-program at ENTRY on every lane (R209). -/
def effSteprun (e pc : Nat) (f : Fields) (w2 : Word64) (r : RegFile) (s : State) : State :=
  let sp := r.getS (fld2 w2 54 50)
  vecRows e pc f r .absent (fun _ g a b c =>
    lanewise (fun x y _ => microProgram (activeBank g) (fld2 w2 63 55) x y (f32 (bits sp 31 0)) (f32 (bits sp 63 32))) a b c) s

/-! ## Rotary code (R230 to R233) -/

/-- The rotary descriptor at POFF from TP.BASE. -/
def readRot (s : State) (e : Nat) (r : RegFile) (tp poff : Nat) : State × Bool × RotDesc :=
  let x := tileRead s e (offsetAddr' (r.tBase tp) poff) 64
  (x.1, x.2.1, rotDesc fun i => leNat ((x.2.2.drop (8 * i)).take 8))
where
  offsetAddr' (base off : Nat) : Nat := (base + off) % tileSize

/-- The position triple of token index `i` (R230): from the table at TP.BASE + PTOFF + 16 i, or from the raster generator. -/
def readPos (s : State) (e : Nat) (r : RegFile) (tp : Nat) (d : RotDesc) (i : Nat) : State × Bool × (Xr × Xr × Xr) :=
  if d.pm then (s, false, rotPos d (fun _ => Xr.zero) i)
  else
    let x := tileRead s e ((r.tBase tp + d.w4 + 16 * i) % tileSize) 12
    (x.1, x.2.1, rotPos d (fun k => f32 (leNat ((x.2.2.drop (4 * k)).take 4))) i)

/-- Rotates the 128 channels of one head. -/
def rotHead (d : RotDesc) (pos : Xr × Xr × Xr) (xs : List Xr) : List Xr × Flags :=
  let ys := (List.range 64).map fun q => rotPair d pos (2 * q) (xs.getD (2 * q) Xr.zero) (xs.getD (2 * q + 1) Xr.zero)
  ((ys.map fun y => [y.1.1, y.1.2]).flatten, ys.foldl (fun a y => a ||| y.2) 0)

/-- VROT: each row holds two heads of one token; an invalid descriptor writes NaN everywhere and sets INV (R232, R233). -/
def effVrot (e pc : Nat) (f : Fields) (w2 : Word64) (r : RegFile) (s : State) : State :=
  let ft := fld f 22 21
  let first := r.getS (fld f 35 31)
  let tp := fld2 w2 50 47
  let d := readRot s e r tp (fld2 w2 31 0)
  if d.2.1 then d.1.raiseTrap e 4 pc 0
  else finish e pc (rowLoop (fun i z =>
    let row := (first + i) % 2 ^ 64
    let a := readLanes z e r (vecA f) ft row 256
    let p := if d.2.2.valid then readPos a.1 e r tp d.2.2 i else (a.1, false, (Xr.zero, Xr.zero, Xr.zero))
    if a.2.1 || p.2.1 then (p.1, true)
    else
      let y : List Xr × Flags :=
        if d.2.2.valid then
          let h0 := rotHead d.2.2 p.2.2 (a.2.2.take 128)
          let h1 := rotHead d.2.2 p.2.2 (a.2.2.drop 128)
          (h0.1 ++ h1.1, h0.2 ||| h1.2)
        else (List.replicate 256 .nan, Flags.inv)
      let w := writeLanes p.1 e r (vecD f) ft row y.1
      (w.1.raiseFlags e (y.2 ||| w.2.2), w.2.1)) (List.range (fld f 30 23 + 1)) d.1)

/-! ## Row statistics and soft maximum -/

/-- The consecutive groups of `n` elements of a row. -/
def groupsOf (n : Nat) : Nat → List Xr → List (List Xr)
  | 0, _ => []
  | k + 1, xs => xs.take n :: groupsOf n k (xs.drop n)

/-- Puts the pairs of values of one row at their places in an accumulator tile (R217). -/
def accPairs (s : State) (e tile row : Nat) (vs : List (Nat × Xr × Xr)) : State :=
  vs.foldl (fun z v => z.modEng e fun g =>
    let k := accKey tile (row + v.1 / 128) (2 * (v.1 % 128))
    let m := SMap.set (fun _ => 0#32) (SMap.set (fun _ => 0#32) g.acc k (enc32 v.2.1)) (k + 1) (enc32 v.2.2)
    { g with acc := m, accErr := g.accErr.filter fun p => p.1 != k / 2 }) s

/-- RSTAT: statistics of each logical row or group (R119, R216, R217). -/
def effRstat (e pc : Nat) (f : Fields) (w2 : Word64) (r : RegFile) (s : State) : State :=
  let ft := fld f 22 21
  let first := r.getS (fld f 35 31)
  let kind := fld2 w2 63 62
  let n := fld2 w2 61 49 + 1
  let gs := if kind = 2 then fld2 w2 48 36 + 1 else n
  let groups := n / gs
  let p := (groups + 127) / 128
  finish e pc (rowLoop (fun i z =>
    let row := (first + i) % 2 ^ 64
    let a := readLanes z e r (vecA f) ft row n
    if a.2.1 then (a.1, true)
    else
      let st := (groupsOf gs groups a.2.2).map (rowStats (kind == 0))
      let z1 := (a.1.raiseFlags e (st.foldl (fun fl x => fl ||| x.2.2.1) 0)).count Off.tlyNegVar 31 0
        (st.filter fun x => x.2.2.2).length
      if bit f.toNat 36 then
        (accPairs z1 e (fld f 49 48) (first + p * i) (st.zipIdx.map fun x => (x.2, x.1.1, x.1.2.1)), false)
      else
        tileWrite z1 e (rowAddr r (fld f 51 48) row)
          ((st.map fun x => leBytes 4 (enc32 x.1).toNat ++ leBytes 4 (enc32 x.2.1).toNat).flatten))
    (List.range (fld f 30 23 + 1)) s)

/-- SMAX: the normalised row in FT (R119, R219). -/
def effSmax (e pc : Nat) (f : Fields) (w2 : Word64) (r : RegFile) (s : State) : State :=
  let ft := fld f 22 21
  let first := r.getS (fld f 35 31)
  let n := fld2 w2 61 49 + 1
  finish e pc (rowLoop (fun i z =>
    let row := (first + i) % 2 ^ 64
    let a := readLanes z e r (vecA f) ft row n
    if a.2.1 then (a.1, true)
    else
      let y := softMax (f32 (fld2 w2 31 0)) a.2.2
      let w := writeLanes a.1 e r (vecD f) ft row y.1
      (w.1.raiseFlags e (y.2 ||| w.2.2), w.2.1)) (List.range (fld f 30 23 + 1)) s)

end Sys2Proof.Machine
end

