-- ==== Sys2Proof/Machine/EngScalar.lean ====
section
/-! DEFINITION. What the instructions of queue 0 do when queue 0 runs them, and what the branches do at issue (R76 to R82, R120,
R121, R133, R164, R166, R212, R213). An effect takes the engine, the instruction's address and the register values it read at issue. -/

namespace Sys2Proof.Machine

/-- Changes the registers of an engine. -/
def modRegs (s : State) (e : Nat) (f : RegFile → RegFile) : State := s.modEng e fun g => { g with regs := f g.regs }

/-- A 32-bit IMM sign-extended and reduced modulo 2^w. -/
def immMod (w n : Nat) : Nat := imod (sext 32 n) (2 ^ w)

/-- Table 3-6 on 64-bit operands. -/
def aluFn (fn x y : Nat) : Nat :=
  let m := 2 ^ 64
  match fn with
  | 0x00 => (x + y) % m
  | 0x01 => (x + m - y % m) % m
  | 0x02 => x * y % m
  | 0x03 => x * y / m
  | 0x04 => x &&& y
  | 0x05 => x ||| y
  | 0x06 => x ^^^ y
  | 0x07 => (x <<< (y % 64)) % m
  | 0x08 => x >>> (y % 64)
  | 0x09 => imod (sext 64 x >>> (y % 64)) m
  | 0x0A => if sext 64 x ≤ sext 64 y then x else y
  | 0x0B => if sext 64 x ≤ sext 64 y then y else x
  | 0x0C => min x y
  | _ => max x y

/-- Table 3-7 on 64-bit operands. -/
def cmpFn (cc x y : Nat) : Bool :=
  match cc with
  | 0 => x == y
  | 1 => x != y
  | 2 => decide (sext 64 x < sext 64 y)
  | 3 => decide (sext 64 y ≤ sext 64 x)
  | 4 => decide (x < y)
  | _ => decide (y ≤ x)

/-- The functions of PLOG (R78). -/
def plogFn (lop : Nat) (a b : Bool) : Bool := if lop = 0 then a && b else if lop = 1 then a || b else xor a b

def effAlu (e : Nat) (f : Fields) (r : RegFile) (s : State) : State :=
  modRegs s e fun q => q.setS (fld f 51 47) (aluFn (fld f 31 24) (r.getS (fld f 46 42)) (r.getS (fld f 41 37)))

def effAlui (e : Nat) (f : Fields) (r : RegFile) (s : State) : State :=
  modRegs s e fun q => q.setS (fld f 51 47) (aluFn (fld f 41 34) (r.getS (fld f 46 42)) (immMod 64 (fld f 31 0)))

def effCmp (e : Nat) (f : Fields) (r : RegFile) (s : State) : State :=
  modRegs s e fun q => q.setP (fld f 51 49) (cmpFn (fld f 31 28) (r.getS (fld f 46 42)) (r.getS (fld f 41 37)))

def effCmpi (e : Nat) (f : Fields) (r : RegFile) (s : State) : State :=
  modRegs s e fun q => q.setP (fld f 51 49) (cmpFn (fld f 35 32) (r.getS (fld f 46 42)) (immMod 64 (fld f 31 0)))

def effPlog (e : Nat) (f : Fields) (r : RegFile) (s : State) : State :=
  modRegs s e fun q => q.setP (fld f 51 49) (plogFn (fld f 40 39) (xor (r.getP (fld f 48 46)) (bit f.toNat 45))
    (xor (r.getP (fld f 44 42)) (bit f.toNat 41)))

def effAdda (e : Nat) (f : Fields) (r : RegFile) (s : State) : State :=
  modRegs s e fun q => q.setA (fld f 51 49) (r.getA (fld f 48 46) + r.getS (fld f 45 41) + immMod 48 (fld f 31 0))

/-- The tile address of LDS and STS, with bits [2:0] ignored (R79). -/
def scalarAddr (f : Fields) (r : RegFile) : Nat :=
  imod ((r.tBase (fld f 46 43) : Int) + (r.getS (fld f 42 38) : Int) + sext 32 (fld f 31 0)) tileSize / 8 * 8

/-- LDS: a double-bit error raises the uncorrectable ECC trap, and the register then keeps its value. -/
def effLds (e pc : Nat) (f : Fields) (r : RegFile) (s : State) : State :=
  let x := tileRead s e (scalarAddr f r) 8
  if x.2.1 then x.1.raiseTrap e 4 pc 0 else modRegs x.1 e fun q => q.setS (fld f 51 47) (leNat x.2.2)

def effSts (e pc : Nat) (f : Fields) (r : RegFile) (s : State) : State :=
  finish e pc (tileWrite s e (scalarAddr f r) (leBytes 8 (r.getS (fld f 51 47))))

/-- The source that SEL names (Table 3-8). -/
def sgetSource (e : Nat) (g : Engine) (r : RegFile) (sel : Nat) : Nat :=
  if sel ≤ 7 then r.getA sel
  else match sel with
    | 0x10 => g.rank
    | 0x11 => g.nset
    | 0x12 => g.ctx
    | 0x13 => e
    | 0x14 => g.cycles.toNat
    | 0x15 => g.flags.toNat
    | _ => g.mhz

def effSget (e : Nat) (f : Fields) (r : RegFile) (s : State) : State :=
  let v := sgetSource e (s.eng e) r (fld f 46 40)
  modRegs s e fun q => q.setS (fld f 51 47) v

def effFlgclr (e : Nat) (f : Fields) (s : State) : State :=
  s.modEng e fun g => { g with flags := clearFlags g.flags (fld f 4 0) }

def effTset (e : Nat) (f : Fields) (r : RegFile) (s : State) : State :=
  modRegs s e fun q => q.setT (fld f 51 48) (bits (r.getS (fld f 46 42)) 59 0)

def effTget (e : Nat) (f : Fields) (r : RegFile) (s : State) : State :=
  modRegs s e fun q => q.setS (fld f 51 47) (r.getT (fld f 46 43))

def effLi64 (e : Nat) (f : Fields) (w2 : Word64) (s : State) : State :=
  modRegs s e fun q => q.setS (fld f 51 47) w2.toNat

/-- A tile address BASE + a signed 32-bit offset (R79, R120). -/
def offsetAddr (base n : Nat) : Nat := imod ((base : Int) + sext 32 n) tileSize

/-- BLOAD: the 256 bytes become the slot, and the fault fields of its view return to 0 (R164, R184). -/
def effBload (e pc : Nat) (f : Fields) (r : RegFile) (s : State) : State :=
  let bn := fld f 51 48
  let x := tileRead s e (offsetAddr (r.tBase (fld f 46 43)) (fld f 31 0)) 256
  if x.2.1 then x.1.raiseTrap e 4 pc 0
  else x.1.modEng e fun g =>
    modView { g with slots := g.slots.wrN (256 * bn) x.2.2 } bn fun v => { v with xflt := false, xlev := 0, xext := 0, xbnd := 0 }

/-- BEXT: bits [23:0] of s[A] become the extent of level L, which stands in bytes 3 to 5 of the level's word 0 (R166). -/
def effBext (e : Nat) (f : Fields) (r : RegFile) (s : State) : State :=
  s.modEng e fun g =>
    let m := g.slots.wrN (256 * fld f 51 48 + 64 + 32 * fld f 47 45 + 3) (leBytes 3 (r.getS (fld f 44 40)))
    { g with slots := m }

/-- TBLLOAD: into the inactive bank it writes its lines; aimed at the active bank it writes none, counts TBL_BUSY and raises the
table-bank violation with AUX[8] and AUX[0] (R120, R212). -/
def effTblload (e pc : Nat) (f : Fields) (w2 : Word64) (r : RegFile) (s : State) : State :=
  let bank := bit f.toNat 51
  if bank == (s.eng e).bank then
    (s.count Off.tlyTblBusy 31 0 1).raiseTrap e 6 pc (256 + (if bank then 1 else 0))
  else
    let n := 64 * (fld f 40 35 + 1)
    let x := tileRead s e (offsetAddr (r.tBase (fld f 50 47)) (fld2 w2 31 0) / 64 * 64) n
    if x.2.1 then x.1.raiseTrap e 4 pc 0
    else x.1.modEng e fun g =>
      let m := g.store.wrN ((if bank then 4096 else 0) + 64 * fld f 46 41) x.2.2
      { g with store := m }

/-- TBLSWAP: no row operation is in a unit between commands, so the active bank changes at once (R213). -/
def effTblswap (e : Nat) (s : State) : State := s.modEng e fun g => { g with bank := !g.bank }

/-! ## Deadline monitor (R325) -/

/-- Writes the fall-back word of the item, as the hub's one 64-bit write; the switch is recorded when the write does not end with error (R271, R325). -/
def writeFallback (s : State) (c a index : Nat) : State :=
  let w := memWrite s .sched a (leBytes 8 1)
  if w.2 ≠ .ok then w.1 else (w.1.setFld (Off.ctxReg c 0x28) 31 31 1).appendRecord 0x02 0x05 0 (some c) none index 0

/-- The evaluation after a progress mark, in exact integer arithmetic. -/
def monitorEval (s : State) (c : Nat) (it : WorkItem) : State :=
  let w (i : Nat) := it.words.getD i 0
  let deadline := bits (w 3) 63 32
  let fb := s.fld (Off.ctxReg c 0x28) 31 31 == 1
  let fbe := bit (w 0) 8
  let prog := s.reg (Off.ctxReg c 0x20)
  let g := if fb then bits (w 4) 31 0 else bits (w 4) 63 32
  if deadline = 0 || prog < bits (w 5) 55 48 || g ≤ prog then s
  else
    let t := s.us - it.startUs
    let latemax := bits (w 6) 31 0
    let miss := decide (prog * deadline * (256 - bits (w 5) 63 56) < t * g * 256)
      || (latemax != 0 && decide (latemax < s.sched.late - it.lateBase))
    if miss && !fb && fbe then writeFallback s c (bits (w 5) 47 0) it.index
    else if miss && fb && s.fld (Off.ctxReg c 0x28) 30 30 == 0 then
      (s.setFld (Off.ctxReg c 0x28) 30 30 1).appendRecord 0x02 0x06 0 (some c) none it.index 0
    else s

/-- A mark of the pair (SEL, VAL) reaches the deadline monitor of context `c`: SEL 0x00 adds to PROG, SEL 0x01 writes PHASE, others
are ignored. -/
def effMark (c sel val : Nat) (s : State) : State :=
  match (s.ctx c).item with
  | none => s
  | some it =>
    if sel = 0 then monitorEval (s.setReg (Off.ctxReg c 0x20) (min (s.reg (Off.ctxReg c 0x20) + val) (2 ^ 32 - 1))) c it
    else if sel = 1 then s.setReg (Off.ctxReg c 0x2C) val
    else s

/-- TLY (R133): read an engine or software tally, mark, or add to a software tally modulo 2^32. -/
def effTly (e : Nat) (f : Fields) (s : State) : State :=
  let sel := fld f 43 36
  let g := s.eng e
  match fld f 51 49 with
  | 0 =>
    let v := SMap.get (fun _ => 0) g.tallies sel
    modRegs s e fun q => q.setS (fld f 48 44) v
  | 1 => { s with sched := { s.sched with marks := s.sched.marks ++ [(g.ctx, sel, fld f 31 0)] } }
  | _ => s.modEng e fun h =>
    let m := SMap.set (fun _ => 0) h.tallies sel ((SMap.get (fun _ => 0) h.tallies sel + fld f 31 0) % 2 ^ 32)
    { h with tallies := m }

/-! ## Branches (R81) -/

/-- The target 8 × OFF from the branch, a signed count of words. -/
def branchTarget (pc off : Nat) : Nat := imod ((pc : Int) + 8 * sext 24 off) tileSize

def effJal (e pc : Nat) (f : Fields) (s : State) : State :=
  (modRegs s e fun q => q.setS (fld f 51 47) ((pc + 8) % tileSize)).modEng e fun g =>
    { g with pc := branchTarget pc (fld f 23 0) }

def effBr (e pc : Nat) (f : Fields) (s : State) : State := s.modEng e fun g => { g with pc := branchTarget pc (fld f 23 0) }

def effJr (e : Nat) (f : Fields) (s : State) : State :=
  s.modEng e fun g => { g with pc := g.regs.getS (fld f 46 42) % tileSize / 8 * 8 }

/-- LOOP: s[A] falls by 1 modulo 2^64; the branch is taken while it is not zero. -/
def effLoop (e pc : Nat) (f : Fields) (s : State) : State :=
  let a := fld f 46 42
  let v := ((s.eng e).regs.getS a + (2 ^ 64 - 1)) % 2 ^ 64
  let s1 := modRegs s e fun q => q.setS a v
  if v = 0 then s1 else s1.modEng e fun g => { g with pc := branchTarget pc (fld f 23 0) }

end Sys2Proof.Machine
end

