-- ==== Sys2Proof/Machine/Skidder.lean ====
section
/-! DEFINITION. The Skidder: entry into its queues, start and completion of transfers, semaphore additions in entry order (R56 to R58,
R122 to R125). -/

namespace Sys2Proof.Machine

/-! ## Queues of an engine -/

/-- The fill or the spill queue. -/
def skQueue (g : Engine) (fill : Bool) : List SkEntry := if fill then g.fillQ else g.spillQ

/-- Replaces the fill or the spill queue. -/
def setSkQueue (g : Engine) (fill : Bool) (l : List SkEntry) : Engine :=
  if fill then { g with fillQ := l } else { g with spillQ := l }

/-- The queue an instruction of queue 1 enters: fill, spill, or none (Tables 4-13, R90, R127, R129). -/
def skTarget : Instr → Option Bool
  | .fill .. | .atom .. | .winfill .. | .kvwalk .. => some true
  | .spill .. | .copy .. | .pref .. | .addw .. | .kvmap .. | .rsig .. => some false
  | .xch .. | .xredAllReduce .. | .xredReduceScatter .. | .xgather .. => some false
  | _ => none

/-- A Skidder queue holds up to 32 descriptors (R56). -/
def skDepth : Nat := 32

/-- The semaphore and increment of a descriptor. -/
def skSignal : Instr → Nat × Nat
  | .fill _ f _ | .spill _ f _ | .copy _ f _ | .pref _ f _ | .addw _ f _ | .atom _ f _ | .winfill _ f _ =>
    (fld f 34 30, fld f 29 26)
  | .kvwalk _ f _ => (fld f 21 17, fld f 16 13)
  | .kvmap _ f _ => (fld f 38 34, fld f 33 30)
  | .xch _ f _ | .xredAllReduce _ f _ | .xredReduceScatter _ f _ | .xgather _ f _ => (fld f 30 26, fld f 25 22)
  | _ => (0, 0)

/-- Makes the semaphore additions of completed descriptors in entry order, freeing their places (R58). -/
def settle (g : Engine) : List SkEntry → Engine × List SkEntry
  | [] => (g, [])
  | x :: t =>
    if x.stage = .done then
      let sg := skSignal x.instr
      settle (if x.quiet then g else g.semAdd sg.1 sg.2) t
    else (g, x :: t)

/-- Settles one queue of engine `e`. -/
def settleQueue (s : State) (e : Nat) (fill : Bool) : State :=
  s.modEng e fun g =>
    let y := settle g (skQueue g fill)
    setSkQueue y.1 fill y.2

/-- Changes the entry with an identifier. -/
def modEntry (s : State) (e : Nat) (fill : Bool) (id : Nat) (f : SkEntry → SkEntry) : State :=
  s.modEng e fun g => setSkQueue g fill ((skQueue g fill).map fun x => if x.id = id then f x else x)

/-- Removes the entry with an identifier: it has ended with error. -/
def dropEntry (s : State) (e : Nat) (fill : Bool) (id : Nat) : State :=
  s.modEng e fun g => setSkQueue g fill ((skQueue g fill).filter fun x => x.id != id)

/-- A descriptor has wholly completed: it is done, and the additions that may now be made are made. -/
def completeEntry (s : State) (e : Nat) (fill : Bool) (id : Nat) : State :=
  settleQueue (modEntry s e fill id fun x => { x with stage := .done }) e fill

/-- A descriptor has ended with error: it leaves its queue, adds nothing, and its trap is raised (R58). -/
def failEntry (s : State) (e : Nat) (fill : Bool) (x : SkEntry) (code : Nat) : State :=
  settleQueue ((dropEntry s e fill x.id).raiseTrap e code x.pc 0) e fill

/-! ## Transfers -/

/-- The device address a[AR] + s[SO] of a transfer. -/
def skAddr (f : Fields) (r : RegFile) : Nat := (r.getA (fld f 51 49) + r.getS (fld f 48 44)) % 2 ^ 48
/-- The destination a[AD] + s[SD] of a COPY. -/
def skDest (f : Fields) (r : RegFile) : Nat := (r.getA (fld f 25 23) + r.getS (fld f 22 18)) % 2 ^ 48
/-- The tile address T.BASE + TOFF. -/
def skTile (f : Fields) (w2 : Word64) (r : RegFile) : Nat := offsetAddr (r.tBase (fld f 43 40)) (fld2 w2 31 0)
/-- The length of a transfer: s[SL] modulo 2^40, or T.LEN where SL names s0 and a region is named (R122, Table 4-13). -/
def skLen (region : Bool) (f : Fields) (r : RegFile) : Nat :=
  if fld f 39 35 = 0 then (if region then r.tLen (fld f 43 40) else 0) else r.getS (fld f 39 35) % 2 ^ 40
def skRemote (w2 : Word64) : Bool := bit w2.toNat 44
def skDev (w2 : Word64) : Nat := fld2 w2 43 32
def skDl (w2 : Word64) : Nat := fld2 w2 63 48
def skPri (w2 : Word64) : Nat := fld2 w2 47 47
def skLpol (w2 : Word64) : Nat := fld2 w2 46 45

/-- A transfer as its descriptor lays it down. -/
structure Transfer where
  len : Nat
  /-- the unit its addresses and length must be multiples of (R122); 1 where any is taken -/
  unit : Nat
  addr : Nat
  dest : Nat
  tile : Nat
  remote : Bool
  dev : Nat
  lpol : Nat
  deriving DecidableEq, Repr

/-- The transfer of an instruction, for the seven transfer instructions. -/
def transferOf (i : Instr) (r : RegFile) : Option Transfer :=
  match i with
  | .fill _ f w2 | .spill _ f w2 =>
    some ⟨skLen true f r, 64, skAddr f r, 0, skTile f w2 r, skRemote w2, skDev w2, skLpol w2⟩
  | .copy _ f w2 => some ⟨skLen false f r, 64, skAddr f r, skDest f r, 0, skRemote w2, skDev w2, skLpol w2⟩
  | .pref _ f w2 => some ⟨skLen false f r, 1, skAddr f r, 0, 0, false, 0, skLpol w2⟩
  | .addw _ f w2 =>
    some ⟨skLen true f r, elemSize (fld f 17 14), skAddr f r, 0, skTile f w2 r, skRemote w2, skDev w2, 1⟩
  | .atom _ f w2 =>
    some ⟨elemSize (fld f 17 14), elemSize (fld f 17 14), skAddr f r, 0, skTile f w2 r, skRemote w2, skDev w2, 1⟩
  | .winfill _ f w2 => some ⟨1, 1, skAddr f r, 0, skTile f w2 r, false, 0, skLpol w2⟩
  | _ => none

/-- The alignment rules of R122. -/
def aligned (t : Transfer) : Bool :=
  t.addr % t.unit == 0 && t.dest % t.unit == 0 && t.tile % t.unit == 0 && t.len % t.unit == 0

/-- The compute die of an engine's slot (R5). -/
def engDie (s : State) (e : Nat) : Nat := (s.eng e).slot / 52

/-- Bytes of a device-memory access that tallies 0x03 and 0x04 count: tile-memory accesses are not (Table 4-17). -/
def portBytes (a n : Nat) : Nat := if 0x020000000000 ≤ a && a < 0x020030000000 then 0 else n

/-- A source with LPOL 0b00 and at least 4,096 bytes takes a free stream tracker of its die (R269). -/
def takesTracker (s : State) (e : Nat) (i : Instr) (t : Transfer) : Bool :=
  let d := engDie s e
  (match i with
    | .fill .. | .copy .. | .winfill .. => true
    | _ => false) && t.lpol == 0 && decide (4096 ≤ t.len) && s.fld (Off.lndReg d 0xC) 7 0 != 0 &&
    decide (s.fld (Off.lndReg d 0xC) 24 16 < 256)

/-- Takes a tracker of the engine's die, where one is taken. -/
def holdTracker (s : State) (e : Nat) (take : Bool) : State :=
  let o := Off.lndReg (engDie s e) 0xC
  if take then s.setFld o 24 16 (s.fld o 24 16 + 1) else s

/-- Frees the tracker of a descriptor that has ended. -/
def freeTracker (s : State) (e : Nat) (x : SkEntry) : State :=
  let o := Off.lndReg (engDie s e) 0xC
  if x.tracker then s.setFld o 24 16 (s.fld o 24 16 - 1) else s

/-- The first of so many TAGs from `t` on that no request of a list holds. -/
def freeTag (used : List Nat) : Nat → Nat → Option Nat
  | 0, _ => none
  | n + 1, t => if used.contains t then freeTag used n ((t + 1) % 65536) else some t

/-- The TAGs of a requester's requests that await their responses. -/
def tagsOf (s : State) (rq : Nat) : List Nat := (s.fabric.reqs.filter fun q => q.rq == rq && q.status == 0 && q.msg.isNone).map (·.tag)

/-- A read of an engine's Skidder, of which 32,768 bytes may be outstanding (R57). -/
def RemoteReq.engineRead (q : RemoteReq) : Bool := q.op == 1 && decide (q.rq < 96)

/-- Requests of a requester that have not left. -/
def waitingReqs (s : State) (rq : Nat) : List RemoteReq := s.fabric.reqs.filter fun q => q.rq == rq && q.msg.isSome

/-- Bytes of an engine's reads that await their responses. -/
def readsOut (s : State) (rq : Nat) : Nat :=
  ((s.fabric.reqs.filter fun q => q.rq == rq && q.engineRead && q.status == 0 && q.msg.isNone).map (·.len)).foldl (· + ·) 0

/-- The window of R57 has room for a request: 512 reads of 64 bytes. -/
def RemoteReq.fits (q : RemoteReq) (s : State) : Bool := !q.engineRead || decide (readsOut s q.rq + q.len ≤ 32768)

/-- A message leaves for the router under TAG `t`. The bytes of an engine's read count as it is issued (Table 4-17). -/
def sendTagged (s : State) (m : Msg) (q : RemoteReq) (t : Nat) : State :=
  let z := { s with fabric := { s.fabric with routing := s.fabric.routing ++ [{ msg := { m with tag := t } }], nextTag := (t + 1) % 65536 } }
  if q.engineRead then z.tally q.rq 3 q.len else z

/-- A remote request starts: its message goes to the router with a TAG of its own among those of its requester, and its timer starts (R342, R359). While none of the 65,536 is
free it waits for one, and an engine's read for its turn and for room in the window of R57. -/
def startRequest (s : State) (m : Msg) (q : RemoteReq) : State :=
  let wait : State := { s with fabric := { s.fabric with reqs := s.fabric.reqs ++ [{ q with msg := some m }] } }
  if !q.fits s || q.engineRead && (waitingReqs s q.rq).any (·.engineRead) then wait
  else match freeTag (tagsOf s q.rq) 65536 s.fabric.nextTag with
    | some t => sendTagged { s with fabric := { s.fabric with reqs := s.fabric.reqs ++ [{ q with tag := t }] } } m q t
    | none => wait

/-- The first request of a list that equals `q` has left under a TAG. -/
def giveTag (q : RemoteReq) (t us : Nat) : List RemoteReq → List RemoteReq
  | [] => []
  | r :: l => if r = q then { r with tag := t, us := us, msg := none } :: l else r :: giveTag q t us l

/-- The request of a requester that may leave next: the oldest; while its reads find no room, the oldest of the others. -/
def nextReq (s : State) (rq : Nat) : Option RemoteReq :=
  let w := waitingReqs s rq
  match w.find? (·.engineRead) with
  | some q => if q.fits s then w.head? else w.find? fun r => !r.engineRead
  | none => w.head?

/-- Requests of a requester that wait start while they may, the oldest first. -/
def sendWaiting (rq : Nat) : Nat → State → State
  | 0, s => s
  | k + 1, s =>
    match nextReq s rq, freeTag (tagsOf s rq) 65536 s.fabric.nextTag with
    | some q, some t => match q.msg with
      | some m => sendWaiting rq k (sendTagged { s with fabric := { s.fabric with reqs := giveTag q t s.us s.fabric.reqs } } m q t)
      | none => s
    | _, _ => s

/-- A requester has TAGs, or room in its window, free again. -/
def tagsFree (s : State) (rq : Nat) : State := sendWaiting rq (waitingReqs s rq).length s

/-- Sends the requests of a remote transfer, cut into messages of at most 4,096 bytes (R342), and starts their timers (R359). -/
def sendRequests (e id op dev dl pri addr aty aop : Nat) : Nat → Nat → Nat → List Byte → State → State
  | 0, _, _, _, s => s
  | fuel + 1, pos, len, data, s =>
    if len ≤ pos then s
    else
      let n := min 4096 (len - pos)
      let own := s.fld 0x2000000 11 0
      let ttl := s.fld 0x2000004 21 16
      let m : Msg := { op := op, src := own, dst := dev, rq := e, pri := pri, dl := dl, len := n, addr := addr + pos,
                       aty := aty, aop := aop, vc := if dl = 0xFFFF then 3 else 2, ttl := if ttl = 0 then 1 else ttl,
                       data := (data.drop pos).take n }
      let q : RemoteReq := { tag := 0, rq := e, id := id, op := op, addr := addr + pos, pos := pos, len := n, us := s.us }
      sendRequests e id op dev dl pri addr aty aop fuel (pos + n) len data (startRequest s m q)

/-- The remote requests of a descriptor. -/
def reqsOf (s : State) (e id : Nat) : List RemoteReq := s.fabric.reqs.filter fun q => q.rq == e && q.id == id

/-- Retires the remote requests of a descriptor. -/
def dropReqs (s : State) (e id : Nat) : State :=
  tagsFree { s with fabric := { s.fabric with reqs := s.fabric.reqs.filter fun q => !(q.rq == e && q.id == id) } } e

/-- The bytes that remote reads returned, in the order of the transfer. -/
def replyBytes (qs : List RemoteReq) : List Byte := (qs.map (·.data)).flatten

/-- The trap of a transfer that ended so: an uncorrectable or poisoned line is the ECC trap, anything else the memory fault (R58). -/
def endCode : MemEnd → Nat
  | .ecc => 4
  | _ => 3

/-- How the moving of a transfer's bytes ended: wholly done, with a trap, or still waiting for data. -/
inductive Moved where
  | done
  | trap (code : Nat)
  | wait
  deriving DecidableEq, Repr

/-- Writes the bytes of a read to tile memory. -/
def landTile (s : State) (e a : Nat) (bs : List Byte) : State × Moved :=
  let w := tileWrite s e a bs
  (w.1, if w.2 then .trap 4 else .done)

/-- Applies the elements of an ADDW in order; an element for a poisoned line is dropped with its record (R124, R271). -/
def addElements (s : State) (aty aop a : Nat) : Nat → List Byte → State
  | 0, _ => s
  | n + 1, bs =>
    let w := elemSize aty
    addElements (adderOp s 0x03 a aty aop (leNat (bs.take w))).1 aty aop (a + w) n (bs.drop w)

/-- Every place of a range is HBM. -/
def allHbm (s : State) (a n : Nat) : Bool := (places s a n).all fun p => match p with
  | .hbm _ => true
  | _ => false

/-- PREF of one HBM line, at device address `dev`: the Landing of the die is asked for it, and what it does not hold is read from HBM where the policy keeps
it, with the line's ECC (R270). An uncorrectable line is not kept, counts, and has a record of source HBM, since a PREF raises no trap (R125, R271). -/
def prefetchLine (s : State) (d lpol line dev : Nat) : State :=
  if !cacheable s d dev then s
  else
    let l := landLookup d lpol [(line, dev)] (s, [])
    if lpol ≠ 0 then l.1
    else
      let x := eccHbm .sched l.2 (l.1, false)
      if x.2 then setCached x.1 d line 0 else x.1

/-- PREF: the lines that the range touches come into the Landing of the issuing die where it may hold them; other lines are dropped (R122, R125). -/
def prefetch (s : State) (d lpol a n : Nat) : State :=
  if n = 0 then s
  else (List.range ((a + n + 63) / 64 - a / 64)).foldl (fun z i =>
    match place z ((a / 64 + i) * 64) with
    | .hbm k => prefetchLine z d lpol (k / 64) ((a / 64 + i) * 64)
    | _ => z) s

/-- Moves the bytes of a started transfer, whole. Tallies 0x03 and 0x04 count the bytes of its requests as they are issued, however they end (Table 4-17);
DESIGN CHOICE (log entry 115): requests behind one that failed count too. -/
def moveTransfer (s : State) (e : Nat) (x : SkEntry) (t : Transfer) : State × Moved :=
  let d := engDie s e
  let rq : Requester := .skidder e
  let qs := reqsOf s e x.id
  if t.remote && qs.any (fun q => q.status == 0) then (s, .wait)
  else if t.remote && qs.any (fun q => q.status == 2) then (dropReqs s e x.id, .trap 3)
  else
    match x.instr with
    | .fill .. =>
      if t.remote then
        landTile (dropReqs s e x.id) e t.tile (replyBytes qs)
      else
        let y := memReadVia s rq d t.lpol t.addr t.len
        let z := y.1.tally e 3 (portBytes t.addr t.len)
        if y.2.1 = .ok then landTile z e t.tile y.2.2
        else (z, if y.2.1 = .wait then .wait else .trap (endCode y.2.1))
    | .spill .. =>
      if t.remote then (dropReqs s e x.id, .done)
      else
        let y := tileRead s e t.tile t.len
        if y.2.1 then (y.1, .trap 4)
        else
          let w := memWrite (y.1.tally e 4 (portBytes t.addr t.len)) rq t.addr y.2.2
          (w.1, if w.2 = .ok then .done else .trap (endCode w.2))
    | .copy .. =>
      if t.remote then (dropReqs s e x.id, .done)
      else
        let y := memReadVia s rq d t.lpol t.addr t.len
        let z := y.1.tally e 3 (portBytes t.addr t.len)
        if y.2.1 = .ok then
          let w := memWrite (z.tally e 4 (portBytes t.dest t.len)) rq t.dest y.2.2
          (w.1, if w.2 = .ok then .done else .trap (endCode w.2))
        else (z, if y.2.1 = .wait then .wait else .trap (endCode y.2.1))
    | .pref .. => ((prefetch s d t.lpol t.addr t.len).tally e 3 (portBytes t.addr ((t.addr + t.len + 63) / 64 * 64 - t.addr / 64 * 64)), .done)
    | .addw _ f _ =>
      if t.remote then (dropReqs s e x.id, .done)
      else
        let y := tileRead s e t.tile t.len
        if y.2.1 then (y.1, .trap 4)
        else if !allHbm y.1 t.addr t.len then (y.1, .trap 3)
        else (addElements (y.1.tally e 4 t.len) (fld f 17 14) (fld f 13 12) t.addr (t.len / t.unit) y.2.2, .done)
    | .atom _ f _ =>
      if t.remote then landTile ((dropReqs s e x.id).tally e 3 t.len) e t.tile (replyBytes qs)
      else
        let y := tileRead s e t.tile t.len
        if y.2.1 then (y.1, .trap 4)
        else
          let o := adderOp (y.1.tally e 4 t.len) 0 t.addr (fld f 17 14) (fld f 13 12) (leNat y.2.2)
          if o.2.1 = .ok then landTile (o.1.tally e 3 t.len) e t.tile (leBytes t.len o.2.2)
          else (o.1, .trap (endCode o.2.1))
    | _ => (s, .done)

/-- What a remote transfer sends when it starts; the source of a SPILL, ADDW or ATOM is read then. -/
def startRemote (s : State) (e : Nat) (x : SkEntry) (t : Transfer) : State × Moved :=
  let go (op aty aop addr : Nat) (dl pri : Nat) (data : List Byte) (z : State) : State :=
    sendRequests e x.id op t.dev dl pri addr aty aop (t.len / 4096 + 1) 0 t.len data z
  match x.instr with
  | .fill _ _ w2 => (go 0x1 0 0 t.addr (skDl w2) (skPri w2) [] s, .done)
  | .spill _ _ w2 =>
    let y := tileRead s e t.tile t.len
    if y.2.1 then (y.1, .trap 4) else (go 0x3 0 0 t.addr (skDl w2) (skPri w2) y.2.2 (y.1.tally e 4 t.len), .done)
  | .copy _ _ w2 =>
    let y := memReadVia s (.skidder e) (engDie s e) t.lpol t.addr t.len
    let z := y.1.tally e 3 (portBytes t.addr t.len)
    if y.2.1 = .ok then (go 0x3 0 0 t.dest (skDl w2) (skPri w2) y.2.2 (z.tally e 4 t.len), .done)
    else (z, if y.2.1 = .wait then .wait else .trap (endCode y.2.1))
  | .addw _ f w2 =>
    let y := tileRead s e t.tile t.len
    if y.2.1 then (y.1, .trap 4)
    else (go 0x5 (fld f 17 14) (fld f 13 12) t.addr (skDl w2) (skPri w2) y.2.2 (y.1.tally e 4 t.len), .done)
  | .atom _ f w2 =>
    let y := tileRead s e t.tile t.len
    if y.2.1 then (y.1, .trap 4)
    else (go 0x6 (fld f 17 14) (fld f 13 12) t.addr (skDl w2) (skPri w2) y.2.2 (y.1.tally e 4 t.len), .done)
  | _ => (s, .done)

end Sys2Proof.Machine
end

