-- ==== Sys2Proof/Machine/Window.lean ====
section
/-! DEFINITION. The window generator of WINFILL (R185 to R191): the descriptor, the checks when it starts, and the rows that
each fill of its nest builds. -/

namespace Sys2Proof.Machine

/-- One axis of a window: kernel, stride, dilation, leading padding, extent of the map. -/
structure WinAxis where
  k : Nat
  st : Nat
  dl : Nat
  pad : Nat
  n : Nat
  deriving DecidableEq, Repr

/-- A window descriptor (Table 7-1). -/
structure WinDesc where
  fmt : Nat
  nss : Bool
  lay : Bool
  trans : Bool
  padm : Bool
  ring : Nat
  bslot : Nat
  buck : Bool
  t : WinAxis
  h : WinAxis
  w : WinAxis
  own : Nat
  ohn : Nat
  ow0 : Nat
  oh0 : Nat
  ot0 : Nat
  cbase : Nat
  cg : Nat
  np : Nat
  koff : Nat
  kl : Nat
  pw : Nat
  pt : Nat
  ph : Nat
  padf : Nat
  scoff : Int
  dbase : Nat
  dpitch : Nat
  dsbase : Nat
  dspitch : Nat
  deriving DecidableEq, Repr

/-- Reads the 64 bytes of a window descriptor. -/
def winDesc (bs : List Byte) : WinDesc :=
  let w (i : Nat) := leNat ((bs.drop (8 * i)).take 8)
  let f (i hi lo : Nat) := bits (w i) hi lo
  { fmt := f 0 63 60, nss := bit (w 0) 59, lay := bit (w 0) 58, trans := bit (w 0) 57, padm := bit (w 0) 56
    ring := f 0 55 48, bslot := f 0 47 44, buck := bit (w 0) 43
    t := ⟨f 0 42 40 + 1, f 0 33 31 + 1, f 0 24 22 + 1, f 0 15 12, f 1 35 24 + 1⟩
    h := ⟨f 0 39 37 + 1, f 0 30 28 + 1, f 0 21 19 + 1, f 0 11 8, f 1 49 36 + 1⟩
    w := ⟨f 0 36 34 + 1, f 0 27 25 + 1, f 0 18 16 + 1, f 0 7 4, f 1 63 50 + 1⟩
    own := f 1 23 10 + 1, ohn := f 2 63 50 + 1, ow0 := f 2 49 36, oh0 := f 2 35 22, ot0 := f 2 21 10
    cbase := f 3 63 48, cg := f 3 47 35 + 1, np := f 3 34 27 + 1, koff := f 3 26 9, kl := f 3 8 3 + 1
    pw := f 4 63 48, pt := f 4 47 8, ph := f 5 63 32, padf := f 5 31 0, scoff := sext 40 (f 6 63 24)
    dbase := f 7 63 41, dpitch := f 7 40 33, dsbase := f 7 32 10, dspitch := f 7 9 2 }

namespace WinDesc

/-- The source carries block scales (R186). -/
def scaled (d : WinDesc) : Bool := hasScales d.fmt d.nss
/-- Bytes of a block of 16 elements. -/
def blockBytes (d : WinDesc) : Nat := 2 * (fmtOf d.fmt).bitsPer
/-- Bytes of data per scale byte (Table 7-2). -/
def ratio (d : WinDesc) : Nat := d.blockBytes
/-- Taps of the kernel. -/
def taps (d : WinDesc) : Nat := d.t.k * d.h.k * d.w.k
/-- Data bytes that a fill builds. DESIGN CHOICE (log entry 120): over all fills they are the length of a WINFILL under R269. -/
def fillBytes (d : WinDesc) : Nat := d.np * d.kl * d.blockBytes * (if d.lay then d.taps else 1)

/-- The conditions of R186 under which a WINFILL raises the memory fault trap. -/
def bad (d : WinDesc) : Bool :=
  (!d.lay && !isMmaFmt d.fmt) || (d.lay && !decide (d.fmt ≤ 2)) || d.cbase % 16 != 0 || d.cg % 16 != 0 ||
    decide (d.taps * d.cg / 16 < d.koff + d.kl) || (d.lay && decide (16 < d.kl)) ||
    (d.ring != 0 && decide (6 < (d.h.k - 1) * d.h.dl)) ||
    (d.scaled && (d.pw % d.ratio != 0 || d.ph % d.ratio != 0 || d.pt % d.ratio != 0))

end WinDesc

/-- A tap's coordinate along an axis (R187): the coordinate where it is valid. -/
def winCoord (d : WinDesc) (ax : WinAxis) (o dlt : Int) : Option Int :=
  let inMap (i : Int) : Option Int :=
    if 0 ≤ i && decide (i < (ax.n : Int)) then some i
    else if d.padm then some (if i < 0 then 0 else (ax.n : Int) - 1)
    else none
  if d.trans then
    let num := o + (ax.pad : Int) - dlt * (ax.dl : Int)
    if num < 0 || num % (ax.st : Int) != 0 then none else inMap (num / (ax.st : Int))
  else inMap (o * (ax.st : Int) - (ax.pad : Int) + dlt * (ax.dl : Int))

/-- The byte offset of channel `c` of the pixel that tap `tap` of linear position `p` reads, or none for padding (R187, R188). -/
def winSource (d : WinDesc) (p tap c : Int) : Option Int :=
  let own : Int := d.own
  let ohn : Int := d.ohn
  let ow := (d.ow0 : Int) + p % own
  let oh := (d.oh0 : Int) + p / own % ohn
  let ot := (d.ot0 : Int) + p / (own * ohn)
  let dt := tap / ((d.h.k : Int) * d.w.k)
  let dh := tap / (d.w.k : Int) % (d.h.k : Int)
  let dw := tap % (d.w.k : Int)
  match winCoord d d.t ot dt, winCoord d d.h oh dh, winCoord d d.w ow dw with
  | some it, some ih, some iw =>
    let row := if d.ring = 0 then ih else ih % (d.ring : Int)
    some (it * (d.pt : Int) + row * (d.ph : Int) + iw * (d.pw : Int) + c * ((fmtOf d.fmt).bitsPer : Int) / 8)
  | _, _, _ => none

/-- Reads the bytes of the whole 64-byte lines around a span and answers the span (R191). -/
def winRead (s : State) (e lpol : Nat) (base : Nat) (x : Int) (n : Nat) : State × MemEnd × List Byte :=
  let a := imod ((base : Int) + x) (2 ^ 48)
  let lo := a / 64 * 64
  let y := memReadVia s (.skidder e) (engDie s e) lpol lo ((a + n + 63) / 64 * 64 - lo)
  (y.1, y.2.1, (y.2.2.drop (a - lo)).take n)

/-- How a fill went on: it goes on, ends with a trap, or waits for host data. -/
def wentOn (m : MemEnd) (dropped : Bool) : Moved :=
  match m with
  | .ok => if dropped then .trap 4 else .done
  | .wait => .wait
  | e => .trap (endCode e)

/-- Runs steps over a list until one does not go on. -/
def movedLoop {α : Type} (step : α → State → State × Moved) : List α → State → State × Moved
  | [], s => (s, .done)
  | x :: t, s =>
    let y := step x s
    if y.2 = .done then movedLoop step t y.1 else y

/-- Block `b` of the row of position `p`, at destination row `row` (LAY 0, R187, R188). -/
def winBlock (e lpol base : Nat) (d : WinDesc) (p row off2 : Int) (b : Nat) (s : State) : State × Moved :=
  let k := 16 * ((d.koff : Int) + off2 + (b : Int))
  let cg : Int := d.cg
  let src := winSource d p (k / cg) ((d.cbase : Int) + k % cg)
  let n := d.blockBytes
  let data := match src with
    | some x => winRead s e lpol base x n
    | none => (s, .ok, List.replicate n 0#8)
  let scale := if !d.scaled then (data.1, .ok, []) else match src with
    | some x => winRead data.1 e lpol base (d.scoff + x / (d.ratio : Int)) 1
    | none => (data.1, .ok, [0#8])
  if data.2.1 ≠ .ok then (data.1, wentOn data.2.1 false)
  else if scale.2.1 ≠ .ok then (scale.1, wentOn scale.2.1 false)
  else
    let w1 := tileWrite scale.1 e (imod ((d.dbase : Int) + row * (d.dpitch : Int) * 16 + Int.ofNat (b * n)) tileSize) data.2.2
    let w2 := tileWrite w1.1 e (imod ((d.dsbase : Int) + row * (d.dspitch : Int) + (b : Int)) tileSize) scale.2.2
    if d.scaled then (w2.1, wentOn .ok (w1.2 || w2.2)) else (w1.1, wentOn .ok w1.2)

/-- PADF in the element format of the map, rounded to nearest even with infinities kept (R189). DESIGN CHOICE (log entry 118): with FMT FP32 there is nothing
to convert, and a NaN keeps its bits. -/
def winPad (d : WinDesc) : List Byte :=
  let x := f32 d.padf
  match fmtOf d.fmt with
  | .bf16 => leBytes 2 (FFmt.bf16.encode (FFmt.bf16.round x).1)
  | .fp16 => leBytes 2 (FFmt.fp16.encode (FFmt.fp16.round x).1)
  | _ => leBytes 4 d.padf

/-- The row of tap `tap` of position `p`, at destination row `row` (LAY 1, R189). -/
def winTap (e lpol base : Nat) (d : WinDesc) (p row off2 : Int) (tap : Nat) (s : State) : State × Moved :=
  let c := (d.cbase : Int) + 16 * ((d.koff : Int) + off2)
  let n := d.kl * d.blockBytes
  let data := match winSource d p tap c with
    | some x => winRead s e lpol base x n
    | none => (s, .ok, (List.replicate (16 * d.kl) (winPad d)).flatten)
  if data.2.1 ≠ .ok then (data.1, wentOn data.2.1 false)
  else
    let w := tileWrite data.1 e (imod ((d.dbase : Int) + row * (d.dpitch : Int) * 16) tileSize) data.2.2
    (w.1, wentOn .ok w.2)

/-- One fill: `live` positions from s[SO] + off[0] (R187, R189, R190). DESIGN CHOICE (log entry 148): sums and products are exact, without a wrap where they
leave the signed 64-bit range of R187. DESIGN CHOICE (log entry 119): a block is read after the blocks before it have been
written, where a destination overlaps its own source (R194). -/
def winFill (e lpol base : Nat) (so : Int) (d : WinDesc) (off : Int × Int × Int) (live : Nat) (s : State) : State × Moved :=
  movedLoop (fun (j : Nat) z =>
    let p := so + off.1 + (j : Int)
    if d.lay then
      movedLoop (fun tap y => winTap e lpol base d p ((Int.ofNat (j * d.taps + tap)) + off.2.1) off.2.2 tap y) (List.range d.taps) z
    else
      movedLoop (fun b y => winBlock e lpol base d p ((j : Int) + off.2.1) off.2.2 b y) (List.range d.kl) z)
    (List.range live) s

/-- The slot whose nest a started WINFILL runs (R190). -/
def winSlot (x : SkEntry) : Option Nat :=
  match x.instr with
  | .winfill .. =>
    let d := winDesc x.held
    if x.stage = .started && d.buck then some d.bslot else none
  | _ => none

/-- The slot image that stands behind the 64 bytes of the descriptor, as a table of one slot. -/
def heldSlot (g : Engine) (held : List Byte) : Engine := { g with slots := ByteMap.wrN [] 0 (held.drop 64) }

/-- The fills of a WINFILL in order: the offsets of its nest for operands 0, 1 and 2, and the positions that the fill builds (R190). `g` holds its slot
image as slot 0. -/
def winFills (g : Engine) (d : WinDesc) : List ((Int × Int × Int) × Nat) :=
  if !d.buck then [((0, 0, 0), d.np)]
  else
    let ls := slotLevels g 0
    let ns := levelCounts ls d.np
    (if ns.any (· == 0) then [] else nestPoints (ns.zip (ls.map (·.ord)))).map fun pt =>
      let last := match pt.head?, ns.head? with
        | some i, some n => i.1 + 1 == n
        | _, _ => false
      ((nestOffset ls pt 0, nestOffset ls pt 1, nestOffset ls pt 2),
        if last then (ls.headD ⟨0, 0, 0, [], [], []⟩).ext - (ns.headD 1 - 1) * d.np else d.np)

/-- The spans that a fill reads, as offsets from the base of the map and lengths (R187 to R189). -/
def winSpans (d : WinDesc) (so : Int) (off : Int × Int × Int) (live : Nat) : List (Int × Nat) :=
  (List.range live).flatMap fun (j : Nat) =>
    let p := so + off.1 + (j : Int)
    if d.lay then
      (List.range d.taps).filterMap fun (tap : Nat) =>
        (winSource d p tap ((d.cbase : Int) + 16 * ((d.koff : Int) + off.2.2))).map fun x => (x, d.kl * d.blockBytes)
    else
      (List.range d.kl).flatMap fun (b : Nat) =>
        let k := 16 * ((d.koff : Int) + off.2.2 + (b : Int))
        match winSource d p (k / (d.cg : Int)) ((d.cbase : Int) + k % (d.cg : Int)) with
        | some x => (x, d.blockBytes) :: (if d.scaled then [(d.scoff + x / (d.ratio : Int), 1)] else [])
        | none => []

/-- A started WINFILL builds all its rows; ITER counts the fills performed, and one that ends with a trap is not (R184, Table 6-7). Its reads count as many
bytes as the generator chose to read: R191 leaves the number open. -/
def winMove (s : State) (e : Nat) (x : SkEntry) (f : Fields) (w2 : Word64) : State × Moved :=
  let d := winDesc x.held
  let base := x.regs.getA (fld f 51 49)
  let so := sext 64 (x.regs.getS (fld f 48 44))
  let lpol := skLpol w2
  let y := movedLoop (fun (q : Nat × (Int × Int × Int) × Nat) z =>
      let w := winFill e lpol base so d q.2.1 q.2.2 z
      (if d.buck && decide (w.2 = .done) then setIter w.1 e d.bslot (q.1 + 1) else w.1, w.2))
    ((winFills (heldSlot (s.eng e) x.held) d).zipIdx.map fun p => (p.2, p.1)) s
  match y.2 with
  | .wait => (s, .wait)
  | m =>
    if portBytes base 1 = 0 then y
    else
      let r := y.1.draw
      (r.1.tally e 3 r.2, m)

/-- A WINFILL that starts reads its descriptor and slot, and makes the checks of R170 and R186; where both fail, both traps are raised and
ENG_FAULT takes the lower code (R103, Table 6-7). A start sets ITER of the slot to 0 (R184). DESIGN CHOICE (log entry 117): a descriptor that is not aligned
to 64 bytes is the 64 bytes from its address. -/
def winStart (s : State) (e : Nat) (fill : Bool) (x : SkEntry) (t : Transfer) : State :=
  let rd := tileRead s e t.tile 64
  if rd.2.1 then failEntry rd.1 e fill x 4
  else
    let d := winDesc rd.2.2
    let g := rd.1.eng e
    let img := g.slots.rdN (256 * d.bslot) 256
    match if d.buck then extentFault (slotLevels g d.bslot) else none with
    | some l =>
      let z := extentTrap (dropEntry rd.1 e fill x.id) e x.pc 0 d.bslot l (slotLevel g d.bslot l)
      settleQueue (if d.bad then z.raiseTrap e 3 x.pc 0 else z) e fill
    | none =>
      if d.bad then failEntry rd.1 e fill x 3
      else
        let fills := if d.buck then (levelCounts (slotLevels g d.bslot) d.np).foldl (· * ·) 1 else 1
        let tr := takesTracker rd.1 e x.instr { t with len := fills * d.fillBytes }
        let s1 := modEntry (holdTracker rd.1 e tr) e fill x.id fun y => { y with stage := .started, tracker := tr, held := rd.2.2 ++ img }
        if d.buck then setIter s1 e d.bslot 0 else s1

end Sys2Proof.Machine
end

