-- ==== Sys2Proof/Machine/Queue.lean ====
section
/-! DEFINITION. The four issue queues (R60, R87 to R89, R111, R130 to R132): what the head of a queue does, and the order in which heads
run between commands. -/

namespace Sys2Proof.Machine

/-- Puts a descriptor at the end of its Skidder queue (R56). -/
def enterSkidder (s : State) (e : Nat) (x : QEntry) (fill : Bool) : State :=
  let d : SkEntry := { instr := x.instr, pc := x.pc, regs := x.regs, id := s.nextId }
  { s.modEng e fun g => setSkQueue g fill (skQueue g fill ++ [d]) with nextId := s.nextId + 1 }

/-- The instruction that follows a WGPUSH. -/
def wgInstr (e : EngId) (n1 n2 : Word64) : Instr := decodeWords e n1 n2 0#64 0#64

/-- The guard of a first word is true (R73). -/
def guardTrue (f : Fields) (r : RegFile) : Bool := xor (r.getP (fld f 54 52)) (bit f.toNat 55)

/-- WGPUSH appends its instruction, with the guard and registers read at its issue, to the deferred queue (R130). -/
def effWgpush (e : EngId) (pc : Nat) (f : Fields) (w2 n1 n2 : Word64) (r : RegFile) (s : State) : State :=
  let x : QEntry := ⟨wgInstr e n1 n2, (pc + 16) % tileSize, r, guardTrue (fieldsOf n1) r, true, fld f 51 47, fld f 46 43,
    fld2 w2 63 48⟩
  s.modEng e.val fun g => { g with deferred := g.deferred ++ [x] }

/-- The entries that a WGDRAIN runs: N of them, or all that are present where N is 0 (Table 4-16). -/
def wgCount (g : Engine) (f : Fields) : Nat := if fld f 51 43 = 0 then g.deferred.length else fld f 51 43

/-- WGDRAIN brings min(N, present) entries before itself in queue 2, in push order, and holds its place, with nothing left to do, until they have run
(R131). -/
def effWgdrain (e : Nat) (x : QEntry) (f : Fields) (s : State) : State :=
  s.modEng e fun g =>
    let n := wgCount g f
    let m := g.setQueue 2 (g.deferred.take n ++ { x with live := false } :: g.queue 2)
    { m with deferred := g.deferred.drop n }

/-- What an instruction of a queue does when it runs with a true guard. -/
def runInstr (e : Nat) (x : QEntry) (s : State) : State :=
  let pc := x.pc
  let r := x.regs
  let aux := if x.wg then x.tag else 0
  match x.instr with
  | .sig _ q f => s.modEng e fun g => noteSig (g.semAdd (fld f 51 47) (fld f 15 0)) q.val
  | .wait _ q f => s.modEng e fun g => noteWait (g.setSem (fld f 51 47) (g.sem (fld f 51 47) - fld f 15 0)) q.val (fld f 15 0)
  | .alu _ f => effAlu e f r s
  | .alui _ f => effAlui e f r s
  | .cmp _ f => effCmp e f r s
  | .cmpi _ f => effCmpi e f r s
  | .plog _ f => effPlog e f r s
  | .adda _ f => effAdda e f r s
  | .lds _ f => effLds e pc f r s
  | .sts _ f => effSts e pc f r s
  | .sget _ f => effSget e f r s
  | .flgclr _ f => effFlgclr e f s
  | .tset _ f => effTset e f r s
  | .tget _ f => effTget e f r s
  | .bload _ f => effBload e pc f r s
  | .bext _ f => effBext e f r s
  | .li64 _ f w2 => effLi64 e f w2 s
  | .tblload _ f w2 => effTblload e pc f w2 r s
  | .tblswap _ _ => effTblswap e s
  | .tlyRead _ f | .tlyMark _ f | .tlyAdd _ f => effTly e f s
  | .mmaLoad _ f w2 | .mmaCompute _ f w2 => effMma e pc aux f w2 r s
  | .drain _ f w2 => effDrain e pc aux f w2 r s
  | .wgpush e' f w2 n1 n2 => effWgpush e' pc f w2 n1 n2 r s
  | .wgdrain _ f => effWgdrain e x f s
  | .cvt _ f w2 => effCvt e pc f w2 r s
  | .vadd _ f => vecLanes e pc f r add32 s
  | .vsub _ f => vecLanes e pc f r sub32 s
  | .vmul _ f => vecLanes e pc f r mul32 s
  | .vmin _ f => vecLanes e pc f r opMin s
  | .vmax _ f => vecLanes e pc f r opMax s
  | .vmov _ f => vecLanes e pc f r opMov s
  | .vabs _ f => vecLanes e pc f r opAbs s
  | .vneg _ f => vecLanes e pc f r opNeg s
  | .vclamp _ f => vecLanes e pc f r opClamp s
  | .vtanh _ f => vecLanes e pc f r opTanh s
  | .vlogi _ f => vecLanes e pc f r opLogi s
  | .vfma _ f w2 => effVfma e pc f w2 r s
  | .vfuse _ f w2 => effVfuse e pc f w2 r s
  | .vrot _ f w2 => effVrot e pc f w2 r s
  | .steprun _ f w2 => effSteprun e pc f w2 r s
  | .rstat _ f w2 => effRstat e pc f w2 r s
  | .smax _ f w2 => effSmax e pc f w2 r s
  | i => match skTarget i with
    | some fill => enterSkidder s e x fill
    | none => s

/-- What the head of a queue is to the drain: a WAIT that its semaphore does not satisfy, a WAIT that it does, an instruction
that cannot start, a WGPUSH that must first run the head of a full deferred queue, or one that runs. -/
inductive HeadKind where
  | held
  | waits
  | forces
  | runs
  deriving DecidableEq, Repr

/-- The head of a queue as it stands. -/
def headKind (g : Engine) (x : QEntry) : HeadKind :=
  if !x.live then .runs
  else match x.instr with
    | .wait _ _ f => if fld f 15 0 = 0 then .runs else if fld f 15 0 ≤ g.sem (fld f 51 47) then .waits else .held
    | .mmaLoad _ f _ | .mmaCompute _ f _ => if fld f 51 50 = 2 && g.shadow.isSome then .held else .runs
    | .wgpush .. => if 256 ≤ g.deferred.length then .forces else .runs
    | i => match skTarget i with
      | some fill => if Engine.occupancy (skQueue g fill) < skDepth then .runs else .held
      | none => .runs

/-- Runs the head of queue `q`: it leaves the queue and has its effect; a deferred entry then adds its INC (R131). -/
def runHead (s : State) (e q : Nat) (x : QEntry) : State :=
  let s1 := s.modEng e fun g => g.setQueue q (g.queue q).tail
  let s2 := if x.live then runInstr e x s1 else s1
  if x.wg && (s2.eng e).issue ≠ .faulted then s2.modEng e fun g => g.semAdd x.sem x.inc else s2

/-- A WGPUSH that finds 256 entries brings the head entry before itself and counts WG_FORCED (R132). -/
def forceHead (s : State) (e : Nat) : State :=
  (s.modEng e fun g =>
    let m := g.setQueue 2 (g.deferred.take 1 ++ g.queue 2)
    { m with deferred := g.deferred.drop 1 }).tally e 0x0A 1

/-- The heads of the queues from `q` up that are of a kind. -/
def headsOf (g : Engine) (k : HeadKind) (qs : List Nat) : List (Nat × QEntry) :=
  qs.filterMap fun q => match (g.queue q).head? with
    | some x => if headKind g x = k then some (q, x) else none
    | none => none

/-- ENG_FAULT after two traps of one cycle, `a` being the engine with the first alone: the lower code stands (R103). -/
def lowerFault (a b : Engine) : Engine :=
  if a.faultValid && (!b.faultValid || decide (a.faultCode ≤ b.faultCode)) then
    { b with faultValid := true, faultCtx := a.faultCtx, faultCode := a.faultCode }
  else b

/-- On an engine that a trap has stopped before this head ran, what the head brought to a queue is discarded with what waits there (R102). -/
def stayStopped (before s : State) (e : Nat) : State :=
  match (before.eng e).issue with
  | .faulted | .torn => s.modEng e fun h => h.stop h.issue
  | _ => s

/-- Runs heads that stand at the front of their queues in one cycle. Each may trap: where ENG_FAULT was free when the cycle began (`free`),
it takes the lowest code of the cycle, and every trap has its record (R103). -/
def runHeads (free : Bool) (e : Nat) : List (Nat × QEntry) → State → State
  | [], s => s
  | (q, x) :: t, s =>
    if free && (s.eng e).faultValid then
      let g := s.eng e
      let y := runHead (s.modEng e fun h => { h with faultValid := false }) e q x
      runHeads free e t (stayStopped s (y.modEng e fun h => lowerFault g h) e)
    else runHeads free e t (stayStopped s (runHead s e q x) e)

/-- The queues whose head is a WAIT for at least 1. -/
def waiting (g : Engine) : List Nat :=
  [0, 1, 2, 3].filter fun q => (headsOf g .waits [q] ++ headsOf g .held [q]).any fun x => match x.2.instr with
    | .wait .. => true
    | _ => false

/-- The WAITs of one cycle: the head of each queue in turn, against the counter that the ones before it left (R62). -/
def runWaits (e : Nat) : List Nat → State → State
  | [], s => s
  | q :: t, s => match headsOf (s.eng e) .waits [q] with
    | (_, x) :: _ => runWaits e t (runHead s e q x)
    | [] => runWaits e t s

/-- One cycle of the queues of an engine, or none where nothing can move: the heads that can run come first, so that every signal of the cycle
is added before a WAIT is tested; then the WAITs that stood at the heads are tested in queue order (R62). What stands behind a head is not
before the next cycle. A WGPUSH that finds the deferred queue full brings its head entry before itself, and a DONE or a stop at a PREEMPT
brings what is left of it (R132). -/
def queueStep (s : State) (e : Nat) : Option State :=
  let g := s.eng e
  match headsOf g .forces [2] with
  | _ :: _ => some (forceHead s e)
  | [] =>
    match headsOf g .runs [0, 1, 2, 3], headsOf g .waits [0, 1, 2, 3] with
    | [], [] =>
        if (g.queue 2).isEmpty && !g.deferred.isEmpty && (match g.issue with
            | .done => true
            | .stopping _ _ => true
            | _ => false) then
          some (s.modEng e fun h =>
            let m := h.setQueue 2 h.deferred
            { m with deferred := [] })
        else none
    | xs, _ => some (runWaits e (waiting g) (runHeads (!g.faultValid) e xs s))

/-- Runs the queues of an engine until nothing moves. -/
def drainFuel : Nat → Nat → State → State
  | 0, _, s => s
  | n + 1, e, s => match queueStep s e with
    | some t => drainFuel n e t
    | none => s

/-- Every step removes an entry, brings a deferred one or empties the deferred queue, so 1,024 steps exhaust the queues. -/
def drain (s : State) (e : Nat) : State := drainFuel 1024 e s

end Sys2Proof.Machine
end

