-- ==== Sys2Proof/Machine/Issue.lean ====
section
/-! DEFINITION. Issue (R59, R60, R72 to R76, R81 to R86, R95, R96): the checks of decode, the holds on registers and slots, the guard,
and what the sequencer does with the instruction at its program counter. A command of an engine instruction stands for the fetch of that
instruction at ENG_PC; an instruction that issue holds leaves the engine as it is, to be commanded again. -/

namespace Sys2Proof.Machine

/-! ## Registers and slots an instruction names (R85, R86)

Keys: s[n] is n, a[n] is 32 + n, p[n] is 40 + n, t[n] is 48 + n, b[n] is 64 + n. s0 and p0 never change and are left out. -/

def kS (n : Nat) : List Nat := if n = 0 then [] else [n]
def kA (n : Nat) : List Nat := [32 + n]
def kP (n : Nat) : List Nat := if n = 0 then [] else [40 + n]
def kT (n : Nat) : List Nat := [48 + n]
def kB (n : Nat) : List Nat := [64 + n]

/-- Registers that the shared fields of a vector word name (Table 4-7). -/
def vecReads (f : Fields) : List Nat :=
  (if bit f.toNat 37 then [] else kT (fld f 47 44)) ++
    (match fld f 39 38 with
      | 0 => kT (fld f 43 40)
      | 2 => kS (fld f 20 16)
      | _ => []) ++
    (if bit f.toNat 36 then [] else kT (fld f 51 48)) ++ kS (fld f 35 31)

/-- Registers that a transfer reads. -/
def transferReads (region : Bool) (f : Fields) : List Nat :=
  kA (fld f 51 49) ++ kS (fld f 48 44) ++ (if region then kT (fld f 43 40) else []) ++ kS (fld f 39 35)

/-- Registers that a collective instruction reads. -/
def collReads (f : Fields) : List Nat :=
  kA (fld f 51 49) ++ kS (fld f 48 44) ++ kA (fld f 43 41) ++ kS (fld f 40 36) ++ kS (fld f 35 31)

/-- Registers and slots that MMA and DRAIN read. -/
def tensorReads (drain : Bool) (f : Fields) (w2 : Word64) : List Nat :=
  if drain then
    kT (fld f 47 44) ++ kT (fld f 43 40) ++ kT (fld f 39 36) ++ kS (fld f 35 31) ++ kS (fld f 18 14) ++ kS (fld f 13 9) ++
      kS (fld2 w2 47 43)
  else
    kT (fld f 47 44) ++ kT (fld f 43 40) ++ kS (fld f 39 35) ++
      (if fld f 51 50 ≠ 2 && bit f.toNat 26 then kB (fld f 25 22) else [])

/-- What an instruction reads, its guard apart. -/
def readsOf : Instr → List Nat
  | .jr _ f | .loop _ f => kS (fld f 46 42)
  | .alu _ f | .cmp _ f => kS (fld f 46 42) ++ kS (fld f 41 37)
  | .alui _ f | .cmpi _ f | .tset _ f => kS (fld f 46 42)
  | .plog _ f => kP (fld f 48 46) ++ kP (fld f 44 42)
  | .adda _ f => kA (fld f 48 46) ++ kS (fld f 45 41)
  | .lds _ f => kT (fld f 46 43) ++ kS (fld f 42 38)
  | .sts _ f => kT (fld f 46 43) ++ kS (fld f 42 38) ++ kS (fld f 51 47)
  | .sget _ f => if fld f 46 40 ≤ 7 then kA (fld f 46 40) else []
  | .tget _ f | .bload _ f => kT (fld f 46 43)
  | .bext _ f => kS (fld f 44 40)
  | .tblload _ f _ => kT (fld f 50 47)
  | .fill _ f _ | .spill _ f _ | .addw _ f _ | .atom _ f _ | .winfill _ f _ => transferReads true f
  | .copy _ f _ => transferReads false f ++ kA (fld f 25 23) ++ kS (fld f 22 18)
  | .pref _ f _ => transferReads false f
  | .kvwalk _ f _ =>
    kA (fld f 51 49) ++ kS (fld f 48 44) ++ kS (fld f 43 39) ++ kT (fld f 38 35) ++ kT (fld f 34 31) ++ kT (fld f 30 27) ++
      (if bit f.toNat 22 then kT (fld f 26 23) else [])
  | .kvmap _ f _ => kA (fld f 51 49) ++ kS (fld f 48 44) ++ kS (fld f 43 39)
  | .xch _ f _ | .xredAllReduce _ f _ | .xredReduceScatter _ f _ | .xgather _ f _ => collReads f
  | .mmaLoad _ f w2 | .mmaCompute _ f w2 => tensorReads false f w2
  | .drain _ f w2 => tensorReads true f w2
  | .wgpush _ _ _ n1 n2 =>
    let f := fieldsOf n1
    kP (fld f 54 52) ++ tensorReads (bits n1.toNat 63 56 == 0xA1) f n2
  | .cvt _ f w2 =>
    kT (fld f 41 38) ++ kT (fld f 37 34) ++ kT (fld f 33 30) ++ kT (fld f 29 26) ++ kT (fld f 25 22) ++ kS (fld f 21 17) ++
      kS (fld2 w2 47 43) ++ kS (fld2 w2 42 38) ++ kS (fld2 w2 37 33)
  | .vadd _ f | .vsub _ f | .vmul _ f | .vmin _ f | .vmax _ f | .vmov _ f | .vabs _ f | .vneg _ f | .vclamp _ f
  | .vtanh _ f | .vlogi _ f | .vfuse _ f _ | .rstat _ f _ | .smax _ f _ => vecReads f
  | .vfma _ f w2 => vecReads f ++ (if bit w2.toNat 59 then [] else kT (fld2 w2 63 60))
  | .vrot _ f w2 => vecReads f ++ kT (fld2 w2 50 47)
  | .steprun _ f w2 => vecReads f ++ kS (fld2 w2 54 50)
  | _ => []

/-- What an instruction writes. -/
def writesOf : Instr → List Nat
  | .jal _ f | .alu _ f | .alui _ f | .lds _ f | .sget _ f | .tget _ f | .li64 _ f _ => kS (fld f 51 47)
  | .loop _ f => kS (fld f 46 42)
  | .cmp _ f | .cmpi _ f | .plog _ f => kP (fld f 51 49)
  | .adda _ f => kA (fld f 51 49)
  | .tset _ f => kT (fld f 51 48)
  | .bload _ f | .bext _ f => kB (fld f 51 48)
  | .tlyRead _ f => if fld f 51 49 = 0 then kS (fld f 48 44) else []
  | .tlyMark _ f | .tlyAdd _ f => if fld f 51 49 = 0 then kS (fld f 48 44) else []
  | _ => []

/-- Two lists of keys share one. -/
def overlap (a b : List Nat) : Bool := a.any fun k => b.contains k

/-- The slots that started WINFILLs of an engine run: the descriptor names the slot, and it is read at the start (R185, R190). -/
def runSlots (g : Engine) : List Nat := (g.fillQ.filterMap (winSlot ·)).flatMap kB

/-- R85, R86: the instruction must wait for an earlier writer in queue 0, or, writing a slot, for an instruction that uses it. -/
def mustHold (g : Engine) (guard : Nat) (i : Instr) : Bool :=
  let pend := ((g.queue 0).filter (·.live)).map fun x => writesOf x.instr
  let uses := ((g.queue 2 ++ g.deferred).filter (·.live)).map (fun x => (readsOf x.instr).filter (64 ≤ ·)) ++ [runSlots g]
  pend.any (fun w => overlap w (kP guard ++ readsOf i) || overlap w (writesOf i)) ||
    uses.any fun u => overlap u (writesOf i)

/-! ## Queues and words -/

/-- The opcodes that execute in the sequencer (Table 3-4). -/
def sequencerOps : List Nat := [0x00, 0x03, 0x04, 0x05, 0x06, 0x07, 0x21]

/-- The queue of an instruction is OP[7:6]; the sequencer's own enter none (R75). -/
def queueOf (i : Instr) : Option Nat := if sequencerOps.contains (opOf i) then none else some (opOf i / 64)

/-- The depths of Table 2-6. -/
def queueDepth (q : Nat) : Nat := if q ≤ 1 then 8 else 16

/-- Bytes of an instruction: a double word has OP[5] set (Table 3-3). -/
def instrBytes (i : Instr) : Nat := if bit (opOf i) 5 then 16 else 8

/-- The instruction that stands at ENG_PC in tile memory: the one whose command the engine's sequencer gives (R59, R75). -/
def atPc (s : State) (e : EngId) : Instr :=
  let g := s.eng e.val
  let word (k : Nat) : Word64 := BitVec.ofNat 64 (leNat (tileBytes g (g.pc + 8 * k) 8))
  decodeWords e (word 0) (word 1) (word 2) (word 3)

/-- The engine issues: a context is bound and started, HALT is 0, and nothing has stopped it. -/
def issues (g : Engine) : Bool := g.online && g.bound && g.started && !g.haltReq && decide (g.issue = .going)

/-- Moves ENG_PC. -/
def setPc (s : State) (e pc : Nat) : State := s.modEng e fun g => { g with pc := pc % tileSize }

/-- Puts an instruction in its queue with the register values of this moment, and runs the queues. -/
def enqueue (s : State) (e pc q : Nat) (i : Instr) (live : Bool) : State :=
  drain (s.modEng e fun g => g.setQueue q (g.queue q ++ [⟨i, pc, g.regs, live, false, 0, 0, 0⟩])) e

/-- The illegal-encoding trap, precise: ENG_PC holds the address (R74, R101). -/
def illegalTrap (s : State) (e pc : Nat) : State := (setPc s e pc).raiseTrap e 1 (pc % tileSize) 0

/-- A PREEMPT at `pc` (R96): it stops issue where a request or a page absence is pending. -/
def effPreempt (e : Nat) (f : Fields) (w2 : Word64) (s : State) : State :=
  let g := s.eng e
  if (s.ctx g.ctx).preempt || g.pageAbsent then drain (s.modEng e fun h => { h with issue := .stopping f w2 }) e else s

/-- What the sequencer does at once for its own instructions, ENG_PC already past the word. -/
def sequencer (e pc : Nat) (i : Instr) (s : State) : State :=
  match i with
  | .done .. => drain (s.modEng e fun g => { g with issue := .done }) e
  | .br _ f => effBr e pc f s
  | .jal _ f => effJal e pc f s
  | .jr _ f => effJr e f s
  | .loop _ f => effLoop e pc f s
  | .preempt _ f w2 => effPreempt e f w2 s
  | _ => s

/-- The pair of a WGPUSH that its decode checks as well: the legality of the following instruction. -/
def followerLegal (e : EngId) : Instr → Bool
  | .wgpush _ _ _ n1 n2 => legal (wgInstr e n1 n2)
  | _ => true

/-- Bytes past which ENG_PC moves: a WGPUSH with a true guard takes the following double word too (R130). -/
def issueBytes (live : Bool) : Instr → Nat
  | .wgpush .. => if live then 32 else 16
  | i => instrBytes i

/-- A legal instruction that issue holds: for a register or slot (R85, R86), or for room in its queue (R60). -/
def heldBack (g : Engine) (f : Fields) (i : Instr) : Bool :=
  mustHold g (fld f 54 52) i || (match queueOf i with
    | some q => decide (queueDepth q ≤ g.places q)
    | none => false)

/-- What an instruction does that issues at `pc`: with a false guard it only retires (R73). -/
def issueNow (e : EngId) (f : Fields) (i : Instr) (pc : Nat) (s : State) : State :=
  let n := e.val
  let live := guardTrue f (s.eng n).regs
  let past := setPc s n (pc + issueBytes live i)
  match queueOf i with
  | none => if live then sequencer n pc i past else past
  | some q => enqueue past n pc q i live

/-- Issues instruction `i`, whose first word has the operand fields `f`, on engine `e`. Decode comes first (R74). Its words, and those of a pair, count
as read when it issues, so that one that is illegal is never read (R52, R130). -/
def issue (e : EngId) (f : Fields) (i : Instr) (s : State) : State :=
  let g := s.eng e.val
  if !issues g then s
  else if !legal i then illegalTrap s e.val g.pc
  else if heldBack g f i then s
  else if guardTrue f g.regs && !followerLegal e i then illegalTrap s e.val (g.pc + 16)
  else
    let fetch := tileRead s e.val g.pc (issueBytes (guardTrue f g.regs) i)
    if fetch.2.1 then fetch.1.raiseTrap e.val 4 g.pc 0 else issueNow e f i g.pc fetch.1

end Sys2Proof.Machine
end

