-- ==== Sys2Proof/Machine/Kv.lean ====
section
/-! DEFINITION. The KV walker (R221 to R232), page-table edits and their deferral (R127, R236 to R238), and page absence (R239); semaphore
additions that reach a context from outside its engines (R322). -/

namespace Sys2Proof.Machine

/-! ## Semaphore additions to a context -/

/-- The engine that holds a rank of a context's set. -/
def engineOfRank (s : State) (c rank : Nat) : Option Nat := (s.ctx c).members[rank]?

/-- The address of a rank's save record (R320). -/
def saveAddr (s : State) (c rank : Nat) : Nat :=
  4096 * s.fld64 (Off.ctxReg c 8) 47 12 + 2 ^ 20 * (rank * s.fld (Off.ctxReg c 0x10) 15 0)

/-- Adds to the semaphore value in a save record, with the saturation of R61 (R322, Table 13-5). -/
def saveSemAdd (s : State) (c rank sem inc : Nat) : State :=
  let a := saveAddr s c rank + 16 + 2 * sem
  let x := memReadNat s .sched a 2
  if x.2.1 = .ok then (memWrite x.1 .sched a (leBytes 2 (min (x.2.2 + inc) 0xFFFF))).1 else x.1

/-- A semaphore addition for rank `rank` of context `c`: to its engine while one is bound, to its save record once its state is
saved (R322), unless the rank had ended and saved nothing (R96); in teardown the set takes it until it is unbound; a context without one takes
none (R327). -/
def ctxSemAdd (s : State) (c rank sem inc : Nat) : State :=
  match s.ctxState c with
  | 2 | 3 | 6 => match engineOfRank s c rank with
    | some e => drain (s.modEng e fun g => g.semAdd sem inc) e
    | none => s
  | 4 | 5 => if (s.ctx c).doneRanks.contains rank then s else saveSemAdd s c rank sem inc
  | _ => s

/-! ## Pinned entries and the deferral buffer -/

/-- Entry address `a` lies in the pinned range of a walk. -/
def pinsEntry (w : Walk) (a : Nat) : Bool :=
  decide (w.base ≤ a) && decide (a < w.base + 8 * w.n)

/-- An active walk pins the entry, or an edit of it is waiting, behind which a later one keeps its order (R236). DESIGN CHOICE (log entry 142): an edit and a
pinned entry are compared by their device addresses, so one that names the entry through another map entry is not deferred. -/
def mustDefer (s : State) (a : Nat) : Bool := s.kv.walks.any (pinsEntry · a) || s.kv.edits.any fun d => d.addr == a

/-- The deferral buffer holds 64 edits (R236). -/
def editDepth : Nat := 64

/-- Writes an edit to its entry; a Ferry commit only where the entry still holds what it expects (R242). It never latches (R238).
Answers whether the entry was written and how the access ended. -/
def writeEdit (s : State) (r : Requester) (d : Edit) : State × Bool × MemEnd :=
  match d.expect with
  | none =>
    let w := memStore s r d.addr (leBytes 8 d.value)
    (w.1, true, w.2)
  | some old =>
    let x := memReadNat s r d.addr 8
    if x.2.1 ≠ .ok then (x.1, false, x.2.1)
    else if x.2.2 ≠ old then (x.1, false, .ok)
    else
      let w := memStore x.1 r d.addr (leBytes 8 d.value)
      (w.1, true, w.2)

/-- The entry address a[AR] + 8 · s[SI] of a KVMAP. -/
def kvmapAddr (f : Fields) (r : RegFile) : Nat := (r.getA (fld f 51 49) + 8 * r.getS (fld f 48 44)) % 2 ^ 48

/-- A KVMAP that starts: it is written at once, deferred, or waits at the head while the buffer is full (R127, R236). Its request leaves the engine, and counts,
when it is written or deferred (Table 4-17). -/
def kvmapStart (s : State) (e : Nat) (x : SkEntry) (f : Fields) : State :=
  let a := kvmapAddr f x.regs
  let v := x.regs.getS (fld f 43 39)
  let g := s.eng e
  let d : Edit :=
    { addr := a, value := v, id := x.id, eng := e, ctx := g.ctx, rank := g.rank, sem := fld f 38 34, inc := fld f 33 30, pc := x.pc }
  if a % 8 ≠ 0 then drain (failEntry s e false x 3) e
  else if mustDefer s a then
    if s.kv.edits.length < editDepth then
      drain (modEntry { s.tally e 4 8 with kv := { s.kv with edits := s.kv.edits ++ [d] } } e false x.id fun y => { y with stage := .deferred }) e
    else s
  else
    let w := writeEdit (s.tally e 4 8) (.skidder e) d
    match w.2.2 with
    | .ok => drain (completeEntry w.1 e false x.id) e
    | .wait => s
    | m => drain (failEntry w.1 e false x (endCode m)) e

/-- The descriptor of a deferred KVMAP still stands in its spill queue. -/
def editEntry (s : State) (d : Edit) : Option SkEntry := (s.eng d.eng).spillQ.find? fun x => x.id == d.id && decide (x.stage = .deferred)

/-- The trap of a deferred KVMAP whose engine its context has left: recorded for its context and engine, ENG_FAULT taken when VALID is 0, and a teardown
begun unless the context has ended as well (R58, R65, R102). -/
def editTrap (s : State) (d : Edit) (code : Nat) : State :=
  let s1 := s.modEng d.eng fun g => if g.faultValid then g else { g with faultValid := true, faultCtx := d.ctx, faultCode := code }
  let s2 := s1.appendRecord 0x01 code 1 (some d.ctx) (some d.eng) d.pc 0
  if d.quiet then s2 else s2.beginTeardown d.ctx (0x0100 + code)

/-- A deferred KVMAP has been written, or has ended with error: its descriptor completes or traps, also after a stop, when it adds nothing; where its
context has left the engine since, the addition goes to the save record (R58, R102, R322, R236). -/
def endEdit (s : State) (d : Edit) (m : MemEnd) : State :=
  match editEntry s d with
  | some x =>
    if m = .ok then drain (completeEntry s d.eng false d.id) d.eng else drain (failEntry s d.eng false x (endCode m)) d.eng
  | none =>
    if m ≠ .ok then editTrap s d (endCode m)
    else if d.quiet then s
    else ctxSemAdd s d.ctx d.rank d.sem d.inc

/-! ## Page-table entries -/

/-- A page-table entry (Table 9-3). -/
structure Pte where
  v : Bool
  loc : Bool
  fmt : Nat
  size : Nat
  gen : Nat
  frame : Nat
  deriving DecidableEq, Repr

/-- The fields of an entry. -/
def pte (x : Nat) : Pte := ⟨bit x 63, bit x 62, bits x 61 60, bits x 59 56, bits x 55 48, bits x 47 0⟩

/-- The entry as a 64-bit value. -/
def Pte.word (p : Pte) : Nat :=
  (if p.v then 2 ^ 63 else 0) + (if p.loc then 2 ^ 62 else 0) + p.fmt * 2 ^ 60 + p.size * 2 ^ 56 + p.gen % 256 * 2 ^ 48 + p.frame % 2 ^ 48

/-- Frame units of a page frame: one for HB4F, two for E4M3 (R221). -/
def frameUnits (fmt : Nat) : Nat := if fmt = 0 then 1 else 2

/-- usable() of R227. -/
def usable (mv9 : Bool) (units : Nat) (p : Pte) : Bool :=
  p.v && decide (p.fmt ≤ 1) && (p.size == 0 || (mv9 && decide (p.size ≤ 6))) &&
    decide (p.frame + 2 ^ p.size * frameUnits p.fmt ≤ units)

/-- What the first pass of a walk found. -/
structure FirstPass where
  held : List Nat := []
  absent : Bool := false
  bad : Bool := false
  deriving DecidableEq, Repr

/-- Checks entries in ascending order, stopping at the first that is host-resident or that ends the walk. -/
def firstPass (mv9 : Bool) (units : Nat) : List Nat → Option Nat → FirstPass → FirstPass
  | [], _, r => r
  | x :: t, f1, r =>
    let p := pte x
    if p.loc && p.v then { r with absent := true }
    else if !usable mv9 units p || (match f1 with
        | some f => p.fmt != f
        | none => false) then { r with bad := true }
    else firstPass mv9 units t (some p.fmt) { r with held := r.held ++ [x] }

/-- Reads the entries of a walk in 64-byte lines, in ascending order, up to the line that ends the first pass (R229). -/
def readEntries (e lpol base n : Nat) (mv9 : Bool) (units : Nat) : Nat → Nat → List Nat → State → State × MemEnd × FirstPass
  | 0, _, _, s => (s, .ok, {})
  | fuel + 1, line, got, s =>
    let hi := base + 8 * n
    let a := (base / 64 + line) * 64
    if hi ≤ a || n = 0 then (s, .ok, firstPass mv9 units got none {})
    else
      let x := memReadVia s (.skidder e) (engDie s e) lpol (a % 2 ^ 48) 64
      let s1 := x.1.tally e 3 64
      if x.2.1 ≠ .ok then (s1, x.2.1, {})
      else
        let b := max base a
        let m := (min hi (a + 64) - b) / 8
        let more := (List.range m).map fun i => leNat ((x.2.2.drop (b - a + 8 * i)).take 8)
        let fp := firstPass mv9 units (got ++ more) none {}
        if fp.absent || fp.bad then (s1, .ok, fp)
        else readEntries e lpol base n mv9 units fuel (line + 1) (got ++ more) s1

/-- Tokens of the entries held (R223, R228). -/
def walkTokens (held : List Nat) : Nat := (held.map fun x => 16 * 2 ^ (pte x).size).foldl (· + ·) 0

/-- The active walk of a descriptor. -/
def walkOf (s : State) (id : Nat) : Option Walk := s.kv.walks.find? fun w => w.id == id

/-- Unpins. -/
def dropWalk (s : State) (id : Nat) : State := { s with kv := { s.kv with walks := s.kv.walks.filter fun w => w.id != id } }

/-- A KVWALK that starts (R227, R229, R230, R232, R237): it pins its entries and makes its first pass. -/
def walkStart (s : State) (e : Nat) (x : SkEntry) (f : Fields) (w2 : Word64) : State :=
  let g := s.eng e
  -- addresses are modulo 2^48 (R27), so that the walk's first entry is taken as the start of its range
  let base := (x.regs.getA (fld f 51 49) + 8 * x.regs.getS (fld f 48 44)) % 2 ^ 48
  let n := x.regs.getS (fld f 43 39)
  let rotOn := bit f.toNat 22
  let w : Walk := { eng := e, id := x.id, ctx := g.ctx, base := base, n := n,
                    boom := s.fld64 Off.boomBase 47 14 * 16384, scale := s.fld64 Off.boomScale 47 6 * 64 }
  if s.kv.walks.any (fun v => v.eng == e) then s
  else if base % 8 ≠ 0 || decide (4096 < n) then drain (failEntry s e true x 3) e
  else if s.kv.edits.any (fun d => pinsEntry w d.addr) then s
  else
    let d := if rotOn then readRot s e x.regs (fld f 26 23) (fld2 w2 31 0) else (s, false, rotDesc fun _ => 0)
    let rb := if rotOn then tileBytes g (x.regs.tBase (fld f 26 23) + fld2 w2 31 0) 64 else []
    if d.2.1 then drain (failEntry d.1 e true x 4) e
    else if rotOn && !d.2.2.valid then drain (failEntry d.1 e true x 3) e
    else
      let mv9 := bit (s.reg64 Off.kvMv9) g.ctx
      let y := readEntries e (skLpol w2) base n mv9 (s.fld Off.boomUnits 25 0) 514 0 [] d.1
      match y.2.1 with
      | .wait => s
      | .ok =>
        if y.2.2.bad then drain (failEntry y.1 e true x 3) e
        else
          let p := if rotOn && !d.2.2.pm then
              tileRead y.1 e ((x.regs.tBase (fld f 26 23) + d.2.2.w4) % tileSize) (16 * walkTokens y.2.2.held)
            else (y.1, false, [])
          if p.2.1 then drain (failEntry p.1 e true x 4) e
          else
            modEntry { p.1 with kv := { p.1.kv with walks := p.1.kv.walks ++
              [{ w with held := y.2.2.held, absent := y.2.2.absent, rot := rb, pos := p.2.2 }] } } e true x.id
              fun z => { z with stage := .started }
      | m => drain (failEntry y.1 e true x (endCode m)) e

/-! ## Placement (R228) -/

/-- Writes of bytes at tile addresses, in order. -/
def tileWrites (e : Nat) : List (Nat × List Byte) → State → State × Moved
  | [], s => (s, .done)
  | (a, bs) :: t, s =>
    let w := tileWrite s e (a % tileSize) bs
    if w.2 then (w.1, .trap 4) else tileWrites e t w.1

/-- Where a walk places: its regions, heads, rotation and the totals of R228. -/
structure Placing where
  regs : RegFile
  tk : Nat
  tv : Nat
  ts : Nat
  heads : Nat
  rot : Option RotDesc
  fmt : Format
  u : Nat
  p : Nat
  deriving DecidableEq, Repr

namespace Placing

/-- The format of the K rows: E4M3 after rotation. -/
def kFmt (d : Placing) : Format := if d.rot.isSome then .e4m3 else d.fmt
/-- Byte `pos` elements into a K row. -/
def kAddr (d : Placing) (h k j : Nat) : Nat :=
  rowAddr d.regs d.tk ((j / 256 * d.heads + h) * 128 + k) + j % 256 * d.kFmt.bitsPer / 8
/-- The K scale byte of a token. -/
def kScale (d : Placing) (h b j : Nat) : Nat := rowAddr d.regs d.ts (1 + (j / 256 * d.heads + h) * 8 + b) + j % 256
/-- The V row half of a head and token. -/
def vAddr (d : Placing) (h j : Nat) : Nat := rowAddr d.regs d.tv (h / 2 * d.p + j) + h % 2 * 128 * d.fmt.bitsPer / 8
/-- The V scale bytes of a head and 16 tokens. -/
def vScale (d : Placing) (h j : Nat) : Nat :=
  rowAddr d.regs d.ts (1 + 8 * d.u * d.heads + h / 2 * (d.p / 16) + j / 16) + 128 * (h % 2)

end Placing

/-- The position of token `j` of a walk from the table it read, or from the raster generator (R230). -/
def walkPos (d : RotDesc) (tab : List Byte) (j : Nat) : Xr × Xr × Xr :=
  rotPos d (fun k => f32 (leNat ((tab.drop (16 * j + 4 * k)).take 4))) j

/-- The 128 channels of K of head `h`, token `t` of a page frame (Table 9-1). -/
def frameK (f : Format) (frame : List Byte) (h t : Nat) : List Nat :=
  let w := 16 * f.bitsPer
  (List.range 128).map fun c => elemCode f (fun i => byteAt frame (16 * w * h + w * t + i)) c

/-- The 128 channels of V. -/
def frameV (f : Format) (frame : List Byte) (h t : Nat) : List Nat :=
  let w := 16 * f.bitsPer
  (List.range 128).map fun c => elemCode f (fun i => byteAt frame (128 * w + 16 * w * h + w * t + i)) c

/-- K of a head after rotation: the codes and scale codes of each token, with the flags. -/
def rotatedK (d : Placing) (rd : RotDesc) (tab : List Byte) (frame scales : List Byte) (j h t : Nat) :
    List Nat × List Nat × Flags :=
  let xs := (frameK d.fmt frame h t).zipIdx.map fun p =>
    scaledValue (elemValue d.fmt (fun _ => 0) p.1) (byteAt scales (4 * h + p.2 / 32)).toNat
  let y := rotHead rd (walkPos rd tab (j + t)) (xs.map (·.1))
  let cfg : NarrowCfg := ⟨.e4m3, 0, Xr.one, 0, false, true⟩
  let outs := (List.range 8).map fun b => narrowBlock cfg ((y.1.drop (16 * b)).take 16) (List.replicate 16 0) 0
  ((outs.map (·.codes)).flatten, outs.map (·.scale),
    outs.foldl (fun a o => a ||| o.flags) (xs.foldl (fun a x => a ||| x.2) y.2))

/-- The writes that place tokens j to j + 15 from a frame and its scale slot, and the flags they raise. -/
def pageWrites (d : Placing) (tab : List Byte) (j : Nat) (frame scales : List Byte) : List (Nat × List Byte) × Flags :=
  (List.range d.heads).foldl (fun acc h =>
    let kcols : List (List Nat × List Nat × Flags) := (List.range 16).map fun t => match d.rot with
      | some rd => rotatedK d rd tab frame scales j h t
      | none => (frameK d.fmt frame h t, (List.range 8).map fun b => (byteAt scales (4 * h + b / 2)).toNat, 0)
    let kw := (List.range 128).map fun k => (d.kAddr h k j, packCodes d.kFmt (kcols.map fun c => c.1.getD k 0))
    let ks := (List.range 8).map fun b => (d.kScale h b j, kcols.map fun c => BitVec.ofNat 8 (c.2.1.getD b 0))
    let vw := (List.range 16).map fun t => (d.vAddr h (j + t), packCodes d.fmt (frameV d.fmt frame h t))
    let vs := (d.vScale h j, (List.range 128).map fun c => byteAt scales (32 + 4 * h + c / 32))
    (acc.1 ++ kw ++ ks ++ vw ++ [vs], kcols.foldl (fun a c => a ||| c.2.2) acc.2)) ([], 0)

/-- The padding of tokens T to P − 1, and of the upper half of the last head pair when H is odd. -/
def padWrites (d : Placing) (t : Nat) : List (Nat × List Byte) :=
  let zk := List.replicate (16 * d.kFmt.bitsPer / 8) 0#8
  let zv := List.replicate (128 * d.fmt.bitsPer / 8) 0#8
  let groups (lo : Nat) := (List.range ((d.p - lo) / 16)).map fun i => lo + 16 * i
  let half (h lo : Nat) := ((groups lo).map fun j =>
    ((List.range 16).map fun i => (d.vAddr h (j + i), zv)) ++ [(d.vScale h j, List.replicate 128 0#8)]).flatten
  ((List.range d.heads).map fun h =>
    ((groups t).map fun j =>
      ((List.range 128).map fun k => (d.kAddr h k j, zk)) ++
        ((List.range 8).map fun b => (d.kScale h b j, List.replicate 16 0#8))).flatten ++ half h t).flatten ++
    (if d.heads % 2 = 1 then half d.heads 0 else [])

/-- Places the sub-pages of the entries held, from token `j` up (R223, R227). -/
def placePages (e lpol : Nat) (w : Walk) (d : Placing) : List (Nat × Bool) → Nat → State → State × Moved
  | [], _, s => (s, .done)
  | (unit, last) :: t, j, s =>
    let n := 16384 * (d.fmt.bitsPer / 4)
    let fr := memReadVia s (.skidder e) (engDie s e) lpol ((w.boom + 16384 * unit) % 2 ^ 48) n
    let s1 := fr.1.tally e 3 n
    if fr.2.1 ≠ .ok then (s1, wentOn fr.2.1 false)
    else
      let sc := memReadVia s1 (.skidder e) (engDie s e) lpol ((w.scale + 64 * unit) % 2 ^ 48) 64
      let s2 := sc.1.tally e 3 64
      if sc.2.1 ≠ .ok then (s2, wentOn sc.2.1 false)
      else
        let pw := pageWrites d w.pos j fr.2.2 sc.2.2
        let y := tileWrites e pw.1 ((s2.tally e 9 (if last then 1 else 0)).raiseFlags e pw.2)
        if y.2 = .done then placePages e lpol w d t (j + 16) y.1 else y

/-- The units of the entries held, in order, the last of each page marked. -/
def walkUnits (held : List Nat) : List (Nat × Bool) :=
  (held.map fun x =>
    let p := pte x
    (List.range (2 ^ p.size)).map fun i => (p.frame + i * frameUnits p.fmt, i + 1 == 2 ^ p.size)).flatten

/-- The status word of a walk (Table 9-5). -/
def walkStatus (w : Walk) : Nat :=
  (if w.absent then 2 ^ 63 else 0) + (if w.changed then 2 ^ 62 else 0) + w.held.length % 2 ^ 16 * 2 ^ 32 + walkTokens w.held % 2 ^ 24

/-- KV page absent (R239): the first absent entry of the context is recorded, the suspending trap is raised, and the context's
pre-emption request is set. -/
def pageAbsent (s : State) (e pc : Nat) (w : Walk) : State :=
  let a := (w.base + 8 * w.held.length) % 2 ^ 48
  let s1 := if s.fld64 (Off.kvAbsent w.ctx) 63 63 = 1 then s else s.setReg64 (Off.kvAbsent w.ctx) (2 ^ 63 + a)
  ((s1.raiseTrap e 5 pc 0).modEng e fun g => { g with pageAbsent := true }).requestPreempt w.ctx

/-- A walk's second pass, whole: pages, padding and status word; it unpins and completes, or ends with its trap (R227). -/
def walkComplete (s : State) (e : Nat) (x : SkEntry) (f : Fields) (w2 : Word64) (w : Walk) : State :=
  let t := walkTokens w.held
  let u := (t + 255) / 256
  let rd := if bit f.toNat 22 then some (rotDesc fun i => leNat ((w.rot.drop (8 * i)).take 8)) else none
  let d : Placing := ⟨x.regs, fld f 38 35, fld f 34 31, fld f 30 27, fld2 w2 44 42 + 1, rd,
    if (pte (w.held.headD 0)).fmt = 0 then .hb4f else .e4m3, u, 256 * u⟩
  let y := placePages e (skLpol w2) w d (walkUnits w.held) 0 s
  match y.2 with
  | .wait => s
  | .trap code => drain (failEntry (dropWalk y.1 x.id) e true x code) e
  | .done =>
    -- a store that latched meanwhile stands in the state's walk
    let w' := (walkOf y.1 x.id).getD w
    let z := tileWrites e (padWrites d t ++ [(rowAddr x.regs (fld f 30 27) 0, leBytes 8 (walkStatus w'))]) y.1
    match z.2 with
    | .trap code => drain (failEntry (dropWalk z.1 x.id) e true x code) e
    | _ =>
      let s1 := completeEntry (dropWalk z.1 x.id) e true x.id
      drain (if w.absent then pageAbsent s1 e x.pc w else s1) e

/-! ## The order of requests (R22) -/

/-- The transfers of a queue that run, in the order they entered. -/
def running (g : Engine) (fill : Bool) : List SkEntry :=
  (skQueue g fill).filter fun x => decide (x.stage = .started) && (transferOf x.instr x.regs).isSome

/-- The destination of requests that a place stands for: a stack, the Landing of a die, an engine or the host. -/
def placeDest : Place → Option Nat
  | .hbm k => some (k / stackSize)
  | .landing k => some (16 + k / 2 ^ 29)
  | .tile e _ => some (32 + e)
  | .host _ => some 128
  | .hole => none

/-- The destinations of the requests for `n` bytes from `a`: an interleave granule is 256 bytes (R248). -/
def spanDests (s : State) (a n : Nat) : List Nat :=
  if n = 0 then [] else (List.range ((a + n - 1) / 256 - a / 256 + 1)).filterMap fun i => placeDest (place s (max a (256 * (a / 256 + i))))

/-- The destinations of the reads of a started WINFILL. -/
def winDests (s : State) (e : Nat) (x : SkEntry) (f : Fields) : List Nat :=
  let d := winDesc x.held
  let base : Int := x.regs.getA (fld f 51 49)
  (winFills (heldSlot (s.eng e) x.held) d).flatMap fun q =>
    (winSpans d (sext 64 (x.regs.getS (fld f 48 44))) q.1 q.2).flatMap fun p => spanDests s (imod (base + p.1) (2 ^ 48)) p.2

/-- The destinations of a descriptor's requests: another device is one. -/
def entryDests (s : State) (x : SkEntry) : List Nat :=
  match x.instr, transferOf x.instr x.regs with
  | .kvmap _ f _, _ => spanDests s (kvmapAddr f x.regs) 8
  | .winfill e f _, _ => winDests s e.val x f
  | .copy .., some t => if t.remote then [4096 + t.dev] else spanDests s t.addr t.len ++ spanDests s t.dest t.len
  | _, some t => if t.remote then [4096 + t.dev] else spanDests s t.addr t.len
  | _, none => []

/-- Requests of a queue arrive at one destination in the order issued (R22): a transfer that entered before `x` and shares a destination
with it has not ended. DEDUCED (log entry 121): each Skidder queue of an engine is one source. -/
def overtakes (s : State) (x : SkEntry) (before : List SkEntry) : Bool :=
  before.any fun y => (entryDests s y).any fun d => (entryDests s x).contains d

/-- The descriptor writes memory. -/
def writesMemory : Instr → Bool
  | .spill .. | .copy .. | .addw .. | .atom .. | .kvmap .. => true
  | _ => false

/-- A read of the destinations `ds` would arrive before a write of a transfer that entered its queue earlier and has not ended (R22). -/
def passesWrite (s : State) (ds : List Nat) (before : List SkEntry) : Bool :=
  before.any fun y => writesMemory y.instr && (entryDests s y).any fun d => ds.contains d

/-- The destinations of the pages that a walk holds: frames and scale slots (R227). -/
def walkDests (s : State) (w : Walk) : List Nat :=
  let n := 4096 * (if (pte (w.held.headD 0)).fmt = 0 then Format.hb4f else Format.e4m3).bitsPer
  (walkUnits w.held).flatMap fun u => spanDests s ((w.boom + 16384 * u.1) % 2 ^ 48) n ++ spanDests s ((w.scale + 64 * u.1) % 2 ^ 48) 64

/-- A KVWALK that would start waits for an earlier write of its queue to a destination of its entries (R22). -/
def walkWaits (s : State) (e : Nat) (x : SkEntry) (f : Fields) : Bool :=
  let base := (x.regs.getA (fld f 51 49) + 8 * x.regs.getS (fld f 48 44)) % 2 ^ 48
  let n := x.regs.getS (fld f 43 39)
  base % 8 == 0 && decide (n ≤ 4096) && passesWrite s (spanDests s base (8 * n)) (running (s.eng e) true)

/-- A KVWALK that is next starts. -/
def walkBegin (s : State) (e : Nat) (x : SkEntry) (f : Fields) (w2 : Word64) : State :=
  if walkWaits s e x f then s else walkStart s e x f w2

/-! ## The commands -/

/-- The first descriptor of a Skidder queue that has not started. -/
def nextWaiting (g : Engine) (fill : Bool) : Option SkEntry := (skQueue g fill).find? fun x => decide (x.stage = .waiting)

/-- KV_WALK_START on an engine: the KVWALK that is next to start in its fill queue starts. -/
def startWalkNext (s : State) (e : Nat) : State :=
  match nextWaiting (s.eng e) true with
  | some x => match x.instr with
    | .kvwalk _ f w2 => walkBegin s e x f w2
    | _ => s
  | none => s

/-- KV_WALK_COMPLETE on an engine: its active walk completes, once no earlier write of its queue to a destination of its pages runs (R22). -/
def completeWalk (s : State) (e : Nat) : State :=
  match (s.eng e).fillQ.find? (fun x => decide (x.stage = .started) && (walkOf s x.id).isSome) with
  | some x => match x.instr, walkOf s x.id with
    | .kvwalk _ f w2, some w =>
      if passesWrite s (walkDests s w) ((running (s.eng e) true).takeWhile fun y => decide (y.id < x.id)) then s else walkComplete s e x f w2 w
    | _, _ => s
  | none => s

/-- The first deferred edit that no active walk pins, of a KVMAP or of the Ferry. -/
def readyEdit (s : State) (ferry : Bool) : Option Edit :=
  s.kv.edits.find? fun d => (d.expect.isSome == ferry) && !s.kv.walks.any (pinsEntry · d.addr) &&
    -- edits to one entry are written in the order they were deferred
    !((s.kv.edits.takeWhile (fun c => decide (c ≠ d))).any fun c => c.addr == d.addr)

/-- Takes the first edit equal to `d` out of the buffer. -/
def dropEdit (s : State) (d : Edit) : State := { s with kv := { s.kv with edits := s.kv.edits.erase d } }

/-- KVMAP_DEFERRED_WRITE: the next deferred edit that may be written is written, and its KVMAP completes. -/
def writeDeferred (s : State) : State :=
  match readyEdit s false with
  | none => s
  | some d =>
    let w := writeEdit (dropEdit s d) (.skidder d.eng) d
    if w.2.2 = .wait then s else endEdit w.1 d w.2.2

end Sys2Proof.Machine
end

