-- ==== Sys2Proof/Machine/Monitor.lean ====
section
/-! DEFINITION. Error monitors and the widening budget (R155 to R161). -/

namespace Sys2Proof.Machine

/-- The fields of monitor `n` (Tables 5-11 to 5-14). -/
def monMode (s : State) (n : Nat) : Nat := s.fld (Off.monReg n 0) 30 29
def monCtx (s : State) (n : Nat) : Nat := s.fld (Off.monReg n 0) 28 23
def monWide (s : State) (n : Nat) : Bool := s.fld (Off.monReg n 0x10) 30 30 == 1
def monTwin (s : State) (n : Nat) : Nat := s.fld64 (Off.monReg n 8) 63 48
def monFlag (s : State) (n : Nat) : Nat := s.fld64 (Off.monReg n 8) 47 0
/-- grant_pending of R156. -/
def granting (s : State) (n : Nat) : Bool := s.sched.grants.contains n

/-- SCH_WIDEN_USED.MIB: the sum of TWIN_MIB over monitors that are wide or whose grant is in progress (R158). -/
def widenUsed (s : State) : Nat :=
  ((List.range 255).map fun i => if monWide s (i + 1) || granting s (i + 1) then monTwin s (i + 1) else 0).foldl (· + ·) 0

/-- Clears SUMR, SUMX and COUNT. -/
def clearSums (s : State) (n : Nat) : State :=
  ((s.setReg64 (Off.monReg n 0x18) 0).setReg64 (Off.monReg n 0x20) 0).setReg (Off.monReg n 0x14) 0

/-- The twin of a monitor is usable: TWIN_MIB is not 0 and FLAG is an 8-byte-aligned address of the HBM region (R156). -/
def twinUsable (s : State) (n : Nat) : Bool :=
  monTwin s n != 0 && monFlag s n % 8 == 0 && decide (monFlag s n < hbmSize)

/-- The evaluation that closes a window (R156); a request counts in tally 0x08 of the engine whose feed `d` closed it. -/
def evaluate (s : State) (n : Nat) (d : Feed) : State :=
  let ex := decide (s.fld (Off.monReg n 0) 15 0 * s.reg64 (Off.monReg n 0x20) < s.reg64 (Off.monReg n 0x18) * 65536)
  let s1 := clearSums (s.setFld (Off.monReg n 0x10) 29 29 (if ex then 1 else 0)) n
  if ex && monMode s n == 2 && !monWide s n && !granting s n && twinUsable s n then
    { (if d.quiet then s1.tallySlot d.eng 8 1 else s1.tally d.eng 8 1) with sched := { s1.sched with widenReqs := s1.sched.widenReqs ++ [n] } }
  else s1

/-- A sum in units of 2^-k as the monitor's accumulator units of 2^(USH − 32), truncated, at most 2^64 − 1 (R155). -/
def toUnits (k : Nat) (ush : Nat) (x : Nat) : Nat :=
  let sh := sext 8 ush - 32 + (k : Int)
  min (if 0 ≤ sh then x >>> sh.toNat else x <<< (-sh).toNat) (2 ^ 64 - 1)

/-- The converted sums SR and SX of a feed, under the USH that its monitor has when it takes them; an infinite SX is the largest (R155). -/
def feedSums (s : State) (d : Feed) : Nat × Nat :=
  let ush := s.fld (Off.monReg d.mon 4) 31 24
  (toUnits 16 ush d.sumR, match d.sumX with
    | some x => toUnits 149 ush x
    | none => 2 ^ 64 - 1)

/-- A feed reaches its monitor (R156). -/
def takeFeed (s : State) (d : Feed) : State :=
  let n := d.mon
  if monMode s n = 0 then s
  else if monCtx s n ≠ d.ctx then s.setFld (Off.monReg n 0x10) 28 28 1
  else
    let u := feedSums s d
    let s1 := ((s.count64 (Off.monReg n 0x18) u.1).count64 (Off.monReg n 0x20) u.2).count (Off.monReg n 0x14) 31 0 d.count
    let win := s.fld (Off.monReg n 4) 23 0
    if win ≠ 0 && decide (256 * win ≤ s1.reg (Off.monReg n 0x14)) then evaluate s1 n d else s1

/-- MONITOR_FEED: the first feed on its way reaches its monitor. -/
def feedNext (s : State) : State :=
  match s.sched.feeds with
  | [] => s
  | d :: t => takeFeed { s with sched := { s.sched with feeds := t } } d

/-- WIDEN_REQUEST: the first request is judged against the budget (R158). -/
def judgeNext (s : State) : State :=
  match s.sched.widenReqs with
  | [] => s
  | n :: t =>
    let s1 := { s with sched := { s.sched with widenReqs := t } }
    if widenUsed s1 + monTwin s1 n ≤ s1.fld Off.widenBudget 19 0 then
      { s1 with sched := { s1.sched with grants := s1.sched.grants ++ [n] } }
    else
      (((s1.setFld (Off.monReg n 0x10) 31 31 1).setFld Off.widenStatus 31 31 1).setFld Off.widenStatus 7 0 n).count
        Off.tlyWidenDenied 31 0 1

/-- A release that is performed: the hub writes 0 to FLAG, and WIDE and the charge go even where that write ends with error (R160). -/
def performRelease (s : State) (n : Nat) : State :=
  (memWrite s .sched (monFlag s n) (leBytes 8 0)).1.setFld (Off.monReg n 0x10) 30 30 0

/-- A release: it waits for a grant in progress, and has no effect on a monitor that is not wide (R160). -/
def release (s : State) (n : Nat) : State :=
  if granting s n then { s with sched := { s.sched with releases := s.sched.releases ++ [n] } }
  else if monWide s n then performRelease s n
  else s

/-- WIDEN_GRANT_ACCEPTED: the write of the widening word of the first grant in progress is accepted, or ends with error (R158); a
release that waited for it follows an accepted write. DESIGN CHOICE (log entry 139): the write goes to FLAG as it stands now, and one to a hole ends with error,
without a record. -/
def grantNext (s : State) : State :=
  match s.sched.grants with
  | [] => s
  | n :: t =>
    let w := memWrite s .sched (monFlag s n) (leBytes 8 1)
    let s1 := { w.1 with sched := { w.1.sched with grants := t, releases := w.1.sched.releases.filter (· != n) } }
    if w.2 = .ok then
      let s2 := (s1.setFld (Off.monReg n 0x10) 30 30 1).setFld Off.widenStatus 30 30 1
      if s.sched.releases.contains n then performRelease s2 n else s2
    else s1

/-- A write of SCH_MON_CTLn (R157, R160): MODE 0b11 is ignored as a whole; a release comes first where RELEASE is 1 or CTX changes
while WIDE is 1; a change of MODE, CTX or THR clears the sums. -/
def writeMonCtl (s : State) (n v : Nat) : State :=
  if n = 0 || 255 < n || !s.writable (Off.monReg n 0) || bits v 30 29 = 3 then s
  else
    let old := s.reg (Off.monReg n 0)
    let s1 := if bit v 31 || (bits v 28 23 ≠ bits old 28 23 && monWide s n) then release s n else s
    let new := bits v 30 23 * 2 ^ 23 + bits v 15 0
    let s2 := s1.setReg (Off.monReg n 0) new
    if new ≠ old then clearSums s2 n else s2

/-- Teardown releases the monitors of a context and turns them off (R160); a request of theirs is dropped (R161). -/
def releaseMonitors (s : State) (c : Nat) : State :=
  let mine := ((List.range 255).map (· + 1)).filter fun n => monCtx s n == c
  let s1 := { s with sched := { s.sched with widenReqs := s.sched.widenReqs.filter fun n => !mine.contains n } }
  mine.foldl (fun t n =>
    let t1 := release t n
    if monMode t1 n = 0 then t1 else clearSums (t1.setFld (Off.monReg n 0) 30 29 0) n) s1

end Sys2Proof.Machine
end

