-- ==== Sys2Proof/Machine/Transfers.lean ====
section
/-! DEFINITION. Start and completion of Skidder descriptors (R56, R58, R90, R91, R122 to R125), and the stop of an engine at a PREEMPT or by HALT
(R64, R96). -/

namespace Sys2Proof.Machine

/-- A descriptor that every earlier descriptor of its queue has left: an RSIG and a collective start only then (R90, R129). -/
def atHead (g : Engine) (fill : Bool) (x : SkEntry) : Bool := (skQueue g fill).head?.map (·.id) == some x.id

/-- A transfer starts: length 0 completes it (R123), a misaligned one traps (R122), a remote one sends its requests; a COPY to another device reads its
source then, once no earlier write of its queue to a destination of the source runs (R22). -/
def transferStart (s : State) (e : Nat) (fill : Bool) (x : SkEntry) (t : Transfer) : State :=
  match x.instr with
  | .winfill .. => drain (winStart s e fill x t) e
  | _ =>
    if t.len = 0 then drain (completeEntry s e fill x.id) e
    else if !aligned t then drain (failEntry s e fill x 3) e
    else
      let tr := takesTracker s e x.instr t
      let s1 := holdTracker s e tr
      let go (z : State) : State := modEntry z e fill x.id fun y => { y with stage := .started, tracker := tr }
      if t.remote && (match x.instr with
          | .copy .. => passesWrite s (spanDests s t.addr t.len) (running (s.eng e) fill)
          | _ => false) then s
      else if t.remote then
        let y := startRemote s1 e x t
        match y.2 with
        | .done => go y.1
        | .wait => s
        | .trap c => drain (failEntry (freeTracker y.1 e { x with tracker := tr }) e fill x c) e
      else go s1

/-- RSIG is delivered once it heads the spill queue (R90): to the engine of its rank, or with the memory fault for a rank not below
NSET (R91). -/
def rsigDeliver (s : State) (e : Nat) (x : SkEntry) (f : Fields) : State :=
  let g := s.eng e
  let rank := fld f 46 40
  if !atHead g false x then s
  else if g.nset ≤ rank then drain (failEntry s e false x 3) e
  else
    let s1 := completeEntry s e false x.id
    match engineOfRank s1 g.ctx rank with
    | some n => drain (drain (s1.modEng n fun h => h.semAdd (fld f 51 47) (fld f 15 0)) n) e
    | none => drain s1 e

/-- RSIG_DELIVERY on an engine: the RSIG that is next in its spill queue. -/
def deliverRsig (s : State) (e : Nat) : State :=
  match nextWaiting (s.eng e) false with
  | some x => match x.instr with
    | .rsig _ f => rsigDeliver s e x f
    | _ => s
  | none => s

/-- The next descriptor of a queue starts, for every kind but the collective ones. A KVMAP does not overtake a transfer before it (R22). DESIGN CHOICE
(log entry 114): ENG_CTRL.HALT does not hold a descriptor that is queued. -/
def startPlain (s : State) (e : Nat) (fill : Bool) (x : SkEntry) : State :=
  match x.instr with
  | .kvwalk _ f w2 => walkBegin s e x f w2
  | .kvmap _ f _ => if overtakes s x (running (s.eng e) fill) then s else kvmapStart s e x f
  | .rsig _ f => rsigDeliver s e x f
  | i => match transferOf i x.regs with
    | some t => transferStart s e fill x t
    | none => s

/-- A running transfer moves its bytes and completes, traps, or goes on waiting for data. -/
def transferEnd (s : State) (e : Nat) (fill : Bool) (x : SkEntry) : State :=
  let m := match x.instr, transferOf x.instr x.regs with
    | .winfill _ f w2, _ => winMove s e x f w2
    | _, some t => moveTransfer s e x t
    | _, none => (s, .wait)
  match m.2 with
  | .done => drain (completeEntry (freeTracker m.1 e x) e fill x.id) e
  | .wait => s
  | .trap c => drain (failEntry (freeTracker m.1 e x) e fill x c) e

/-- SKIDDER_TRANSFER_COMPLETE: the `k`-th running transfer of a queue; a later one may end first (R58), but not where its requests would overtake
those of an earlier one (R22). -/
def completeTransfer (s : State) (e : Nat) (fill : Bool) (k : Nat) : State :=
  match (running (s.eng e) fill)[k]? with
  | some x => if overtakes s x ((running (s.eng e) fill).take k) then s else transferEnd s e fill x
  | none => s

/-! ## Stops -/

/-- PREEMPT_STOP (R96): with its queues and Skidder queues idle a stopping engine reports its stop. -/
def reportStop (s : State) (e : Nat) : State :=
  let g := s.eng e
  match g.issue with
  | .stopping f w2 => if g.quiet then s.modEng e fun h => { h with issue := .stopped f w2 } else s
  | _ => s

/-- ENG_CTRL.HALT (R64). -/
def writeHalt (s : State) (e : Nat) (v : Bool) : State :=
  if !(s.eng e).online then s
  else s.modEng e fun g => { g with haltReq := v, halted := if v then g.halted else false }

/-- ENGINE_HALTED (R64). -/
def engineHalted (s : State) (e : Nat) : State :=
  if (s.eng e).haltReq && (s.eng e).queuesEmpty then s.modEng e fun g => { g with halted := true } else s

/-- A host write of a semaphore register (R67): it takes effect only while halted and never sets SEM_SAT. -/
def writeSem (s : State) (e i v : Nat) : State :=
  if (s.eng e).online && (s.eng e).halted then drain (s.modEng e fun g => g.setSem i (v % 65536)) e else s

/-! ## The debug path (R68) -/

/-- The byte address of an access: ADDR with bits [2:0] cleared, reduced as R50 lays down, 4 further for the high word. -/
def dbgAddr (g : Engine) (a : Acc) : Nat := g.dbgAddr / 8 * 8 % tileSize + (if a = .high then 4 else 0)

/-- ADDR after an access: AINC advances it by 8 after a 64-bit access or one of the high word. -/
def dbgNext (g : Engine) (a : Acc) : Nat := if g.dbgAinc && decide (a ≠ .low) then (g.dbgAddr + 8) % tileSize else g.dbgAddr

/-- Bytes of an access. -/
def accBytes (a : Acc) : Nat := if a = .both then 8 else 4

/-- A read of ENG_DBG_DATA: the stored bytes, with UE set where a double-bit error was among them. -/
def dbgRead (s : State) (e : Nat) (a : Acc) : State :=
  if !(s.eng e).online then s
  else
    let g := s.eng e
    let x := tileRead s e (dbgAddr g a) (accBytes a)
    let s1 := x.1.modEng e fun h => { h with dbgUe := h.dbgUe || x.2.1, dbgAddr := dbgNext g a }
    { s1 with host := { s1.host with readData := BitVec.ofNat 64 (leNat x.2.2) }, ueNow := s.ueNow }

/-- A write of ENG_DBG_DATA. A 32-bit write into a word with a double-bit error is dropped, and the error stays (R52). -/
def dbgWrite (s : State) (e : Nat) (a : Acc) (v : Nat) : State :=
  if !(s.eng e).online then s
  else
    let g := s.eng e
    let x := tileWrite s e (dbgAddr g a) (leBytes (accBytes a) v)
    { x.1.modEng e fun h => { h with dbgUe := h.dbgUe || x.2, dbgAddr := dbgNext g a } with ueNow := s.ueNow }

end Sys2Proof.Machine
end

