-- ==== Sys2Proof/Machine/Context.lean ====
section
/-! DEFINITION. Contexts (R315 to R326): commands, dispatch, completion, pre-emption, save and restore, and the work ring (R245, R317). Teardown's
release of other blocks' resources stands in Hub.lean. -/

namespace Sys2Proof.Machine

/-! ## Rings (R245) -/

/-- Entries of a ring of 2^LOG2N; 17 to 31 act as 16. -/
def ringSize (log2n : Nat) : Nat := 2 ^ min log2n 16

/-- The indices from HEAD up to TAIL − 1. -/
def ringPending (head tail size : Nat) : List Nat :=
  (List.range ((tail % size + size - head % size) % size)).map fun i => (head + i) % size

/-- HEAD after indices have completed: it passes every completed index. Answers the new HEAD and the indices still ahead of it. -/
def ringAdvance (size : Nat) : Nat → Nat → List Nat → Nat × List Nat
  | 0, head, done => (head, done)
  | n + 1, head, done =>
    if done.contains head then ringAdvance size n ((head + 1) % size) (done.filter (· != head)) else (head, done)

/-! ## The engine set -/

/-- The logical engines of a context's set in ascending order (R316). -/
def setOf (s : State) (c : Nat) : List Nat :=
  (List.range 96).filter fun n => bit (s.reg (Off.ctxReg c (0x14 + 4 * (n / 32)))) (n % 32)

/-- ENG_COUNT.COUNT. -/
def engCount (s : State) : Nat := s.fld Off.engCount 22 16

/-- An engine of a set can serve: online, or awaiting a spare (R421), and below ENG_COUNT. -/
def serves (s : State) (n : Nat) : Bool := ((s.eng n).online || (s.eng n).rebind) && decide (n < engCount s)

/-- An engine is free to be bound: one that awaits a spare counts as bound (R421). -/
def freeEngine (g : Engine) : Bool := !g.bound && !g.rebind

/-- An engine bound anew: its context's state is that of R70, tile and accumulator memory zero-filled, views and tallies at 0; what belongs to the
logical engine stays. -/
def bindEngine (g : Engine) (c rank nset : Nat) : Engine :=
  { slot := g.slot, online := g.online, rebind := g.rebind, spare := g.spare, mhz := g.mhz, haltReq := g.haltReq, halted := g.halted, semSat := g.semSat,
    eccCe := g.eccCe, faultValid := g.faultValid, faultCtx := g.faultCtx, faultCode := g.faultCode, dbgUe := g.dbgUe,
    dbgAinc := g.dbgAinc, dbgAddr := g.dbgAddr, bound := true, ctx := c, rank := rank, nset := nset }

/-- Binds a set to a context in rank order. -/
def bindSet (s : State) (c : Nat) (ns : List Nat) : State :=
  (ns.zipIdx.foldl (fun t p => t.modEng p.1 fun g => bindEngine g c p.2 ns.length) s).modCtx c fun x => { x with members := ns }

/-- Starts the engines of a set together (R92). -/
def startSet (s : State) (c : Nat) : State :=
  (s.ctx c).members.foldl (fun t e => t.modEng e fun g => { g with started := true }) s

/-- Unbinds an engine: its tile memory and the views of its slots stay as they are until it is bound again. DESIGN CHOICE (log entry 137): ENG_FLAGS goes on
reading the flags of the context that has ended until then. -/
def unbindEngine (g : Engine) : Engine :=
  { g with bound := false, started := false, issue := .going, pageAbsent := false, queues := [], fillQ := [], spillQ := [],
           deferred := [], late := [] }

/-- What a context's engines have sent to the error monitors counts no tally of the context that runs on them later (R133, R318). -/
def quietFeeds (s : State) (c : Nat) : State :=
  { s with sched := { s.sched with feeds := s.sched.feeds.map fun d => if d.ctx = c then { d with quiet := true } else d } }

/-- Unbinds the set of a context. -/
def unbindSet (s : State) (c : Nat) : State :=
  (((quietFeeds s c).ctx c).members.foldl (fun t e => t.modEng e unbindEngine) (quietFeeds s c)).modCtx c fun x => { x with members := [] }

/-! ## Commands (Table 13-2) -/

/-- A refused command or SET write. -/
def ctxRej (s : State) (c : Nat) : State := s.setFld (Off.ctxReg c 0) 28 28 1

/-- The context's registers answer writes. -/
def ctxServed (s : State) (c : Nat) : Bool := s.writable (Off.ctxReg c 0)

/-- OPEN: refused when SET is empty or SAVE is 0. -/
def ctxOpen (s : State) (c : Nat) : State :=
  if s.ctxState c = 0 && !(setOf s c).isEmpty && s.fld64 (Off.ctxReg c 8) 47 12 != 0 then s.setCtxState c 1 else ctxRej s c

/-- PREEMPT: allowed in RUNNING. -/
def ctxPreempt (s : State) (c : Nat) : State := if s.ctxState c = 2 then s.requestPreempt c else ctxRej s c

/-- A waiting RESUME binds its set once every engine of it is free and the set still has the saved size (R315, Table 13-9), while the compute dies
and HBM serve (R404, R425). -/
def tryResume (s : State) (c : Nat) : State :=
  let ns := setOf s c
  if !memDown s && (s.ctx c).resuming && s.ctxState c == 4 && ns.length == (s.ctx c).savedNset &&
      ns.all (fun n => serves s n && freeEngine (s.eng n)) then
    ((bindSet s c ns).setCtxState c 5).modCtx c fun x => { x with resuming := false }
  else s

/-- RESUME: refused when the popcount of SET differs from the saved NSET. -/
def ctxResume (s : State) (c : Nat) : State :=
  if s.ctxState c = 4 && (setOf s c).length == (s.ctx c).savedNset then
    tryResume (s.modCtx c fun x => { x with resuming := true }) c
  else ctxRej s c

/-- Every waiting RESUME that can be served is, in context order (R317). -/
def serveResumes (s : State) : State := (List.range 64).foldl tryResume s

/-- TEARDOWN: a command, which no record begins (R327). -/
def ctxTeardown (s : State) (c : Nat) : State :=
  if State.tearable (s.ctxState c) then s.beginTeardown c 0 else ctxRej s c

/-- A write of SCH_CTXc_SETk (R316). -/
def ctxSetWrite (s : State) (c k v : Nat) : State :=
  if s.ctxState c = 0 || s.ctxState c = 1 || s.ctxState c = 4 then s.setReg (Off.ctxReg c (0x14 + 4 * k)) v else ctxRej s c

/-! ## The work ring -/

/-- Entries of the work ring. -/
def workSize (s : State) : Nat := ringSize (s.fld Off.workCtl 4 0)
/-- The device address of work descriptor `i`. -/
def workAddr (s : State) (i : Nat) : Nat := s.fld64 Off.workRing 47 6 * 64 + 64 * i

/-- The eight words of 64 bytes. -/
def words8 (bs : List Byte) : List Nat := (List.range 8).map fun i => leNat ((bs.drop (8 * i)).take 8)

/-- The ring index is bound to a context. -/
def workBound (s : State) (i : Nat) : Bool :=
  (List.range 64).any fun c => match (s.ctx c).item with
    | some it => it.index == i
    | none => false

/-- Indices that are pending: neither completed nor bound. -/
def workPending (s : State) : List Nat :=
  (ringPending (s.fld Off.workHead 15 0) (s.fld Off.workTail 15 0) (workSize s)).filter fun i =>
    !s.sched.workDone.contains i && !workBound s i

/-- An item has ended: its index completes, HEAD advances, and source WORK is raised (R245, R319). -/
def workEnd (s : State) (i : Nat) : State :=
  let r := ringAdvance (workSize s) (workSize s) (s.fld Off.workHead 15 0) (s.sched.workDone ++ [i])
  ({ s with sched := { s.sched with workDone := r.2 } }.setFld Off.workHead 15 0 r.1).raiseIrq 0

/-- HUB key slot `k`'s register (Table 11-9). -/
def kslot (k : Nat) : Nat := 0x402100 + 4 * k

/-- Nothing, under every key. -/
def noBytes : Nat → List Byte := fun _ => []

/-- A key slot is erased. -/
def eraseKey (s : State) (k : Nat) : State :=
  { s with flash := { s.flash with keys := SMap.set noBytes s.flash.keys k [] } }.setReg (kslot k) 0

/-- The slots that a context owns are erased (R294). -/
def eraseOwned (s : State) (c : Nat) : State :=
  (List.range 32).foldl (fun t k =>
    let w := t.reg (kslot k)
    if bit w 31 && bit w 29 && bits w 28 23 = c then eraseKey t k else t) s

/-- A pending item of the ring is context `c`'s, by the word that its descriptor holds. -/
def ctxPending (s : State) (c : Nat) : Bool :=
  (workPending s).any fun i => bits (leNat ((places s (workAddr s i) 8).map (placeByte s))) 63 58 == c

/-- The adapter keys of a context go once its last item has ended (R294). -/
def endKeys (s : State) (c : Nat) : State := if ctxPending s c then s else eraseOwned s c

/-- Writes STAT, FB and MISS into word 0 of a descriptor. -/
def workStatus (s : State) (i w0 stat : Nat) (fb miss : Bool) : State :=
  let w := putBits (putBits (putBits w0 7 0 stat) 9 9 (if fb then 1 else 0)) 10 10 (if miss then 1 else 0)
  (memWrite s .sched (workAddr s i) (leBytes 8 w)).1

/-- Ends a pending item with a status (REFUSED or ABORT). -/
def workRefuse (s : State) (i w0 stat : Nat) : State := workEnd (workStatus s i w0 stat (bit w0 9) (bit w0 10)) i

/-- The item that heads its context's order is refused; where it was the context's last, the context's adapter keys go (R294, R317). -/
def workRefuseHead (s : State) (c i w0 : Nat) : State := endKeys (workRefuse s i w0 4) c

/-- The fields of a descriptor are in range (Table 13-3). -/
def workFields (w : List Nat) : Bool :=
  let f (i hi lo : Nat) := bits (w.getD i 0) hi lo
  f 1 47 0 % 64 == 0 && f 2 45 23 % 64 == 0 && decide (f 2 45 23 ≤ tileSize) && f 2 22 0 % 64 == 0 && f 3 22 0 % 8 == 0 &&
    f 5 47 0 % 8 == 0

/-- An item at the head of its context's order is refused (Table 13-4, R297). -/
def workRefused (s : State) (c : Nat) (w : List Nat) : Bool :=
  let st := s.ctxState c
  st == 0 || st == 6 || st == 7 ||
    (st == 1 && ((setOf s c).isEmpty || s.fld 0x402000 1 0 != 2 || (setOf s c).any (fun n => !serves s n) || !workFields w))

/-- Copies the entry image to every engine of the set (R318). -/
def copyImage (w : List Nat) (ns : List Nat) (bs : List Byte) (s : State) : State :=
  ns.foldl (fun t e => (tileWrite t e (bits (w.getD 2 0) 22 0) bs).1) s

/-- Dispatch of item `i` on context `c` (R318). -/
def dispatchItem (s : State) (c i : Nat) (w : List Nat) : State :=
  let ns := setOf s c
  let it : WorkItem := ⟨i, w, s.us, s.sched.late⟩
  let s1 := ((bindSet s c ns).setCtxState c 2).modCtx c fun x => { x with item := some it, preempt := false }
  let s2 := (((s1.setReg (Off.ctxReg c 0x20) 0).setReg (Off.ctxReg c 0x24) 0).setReg (Off.ctxReg c 0x28) 0).setReg
    (Off.ctxReg c 0x2C) 0
  let img := bits (w.getD 1 0) 47 0
  let x := memRead s2 .sched img (bits (w.getD 2 0) 45 23)
  if x.2.1 = .ok then
    let s3 := copyImage w ns x.2.2 x.1
    startSet (ns.foldl (fun t e => setPc t e (bits (w.getD 3 0) 22 0)) s3) c
  else (x.1.appendRecord 0x02 0x0A 1 (some c) none img 0).beginTeardown c 0x020A

/-- The scan of R317 over pending items in ring order: the first item that is refused or dispatched. `seen` holds the contexts of earlier
items that have not completed. -/
def scanWork : List Nat → List Nat → State → State
  | [], _, s => s
  | i :: t, seen, s =>
    let x := memRead s .sched (workAddr s i) 64
    if x.2.1 ≠ .ok then (x.1.setFld Off.workCtl 31 31 0).appendRecord 0x02 0x09 2 none none i 0
    else
      let w := words8 x.2.2
      let c := bits (w.getD 0 0) 63 58
      if seen.contains c || (x.1.ctx c).item.isSome then scanWork t (c :: seen) x.1
      else if workRefused x.1 c w then workRefuseHead x.1 c i (w.getD 0 0)
      else if x.1.ctxState c == 1 && (setOf x.1 c).all (fun n => freeEngine (x.1.eng n)) then dispatchItem x.1 c i w
      else scanWork t (c :: seen) x.1

/-- DISPATCH: unless containment has stopped it, the waiting RESUMEs are served, which EN does not govern, and while EN is 1 one scan follows
(R315, R317, R333). -/
def dispatch (s : State) : State :=
  if s.fatal || !s.ready then s
  else
    let s1 := serveResumes s
    if s1.fld Off.workCtl 31 31 = 0 then s1 else scanWork (workPending s1) [] s1

/-! ## Progress and completion -/

/-- DEADLINE_MONITOR_MARK: the first mark on its way reaches its monitor (R325). -/
def markNext (s : State) : State :=
  match s.sched.marks with
  | [] => s
  | (c, sel, v) :: t => effMark c sel v { s with sched := { s.sched with marks := t } }

/-- The marks of a context that are on their way reach its monitor before its item completes (Table 13-9). -/
def flushMarks (s : State) (c : Nat) : State :=
  let mine := s.sched.marks.filter fun m => m.1 == c
  let rest := s.sched.marks.filter fun m => m.1 != c
  mine.foldl (fun t m => effMark c m.2.1 m.2.2 t) { s with sched := { s.sched with marks := rest } }

/-- Every engine of the set has completed DONE (R82). -/
def allDone (s : State) (c : Nat) : Bool :=
  !(s.ctx c).members.isEmpty && (s.ctx c).members.all fun e => decide ((s.eng e).issue = .done) && (s.eng e).quiet

/-! ## Stops, saves and restores -/

/-- An engine counts as stopped: stopped at a PREEMPT, or past a completed DONE (R96). -/
def engStopped (g : Engine) : Bool :=
  match g.issue with
  | .stopped _ _ => true
  | .done => g.quiet
  | _ => false

/-- Every engine of the set has stopped. -/
def allStopped (s : State) (c : Nat) : Bool := (s.ctx c).members.all fun e => engStopped (s.eng e)

/-- Engines waiting at a PREEMPT go on past it. -/
def continuePast (g : Engine) : Engine :=
  match g.issue with
  | .stopping _ _ | .stopped _ _ => { g with issue := .going, pageAbsent := false }
  | _ => { g with pageAbsent := false }

/-- PREEMPT_TIMEOUT (R323): a set that has not wholly stopped PTO µs after its request. -/
def preemptTimeout (s : State) (c : Nat) : State :=
  let pto := max 1 (s.fld (Off.ctxReg c 0) 19 0)
  if s.fatal || s.ctxState c ≠ 3 || decide (s.us < (s.ctx c).reqUs + pto) || allStopped s c then s
  else if s.fld (Off.ctxReg c 0) 27 27 = 1 then
    (s.appendRecord 0x02 0x02 1 (some c) none 0 0).beginTeardown c 0x0202
  else
    let s1 := (s.ctx c).members.foldl (fun t e => t.modEng e continuePast) s
    let s2 := (s1.setCtxState c 2).modCtx c fun x => { x with preempt := false }
    (s2.setFld (Off.ctxReg c 0x30) 31 31 1).appendRecord 0x02 0x02 1 (some c) none 0 0

/-- The live state that a PREEMPT names (Table 3-11). -/
def liveWords (g : Engine) : Nat × Nat :=
  match g.issue with
  | .stopped f w2 => (0x21 * 2 ^ 56 + f.toNat % 2 ^ 56, w2.toNat)
  | _ => (0, 0)

/-- The numbers of the bits set in a mask, ascending. -/
def maskBits (n m : Nat) : List Nat := (List.range n).filter (bit m)

def liveS (w1 : Nat) : List Nat := (maskBits 32 (bits w1 31 0)).filter (· != 0)
def liveA (w2 : Nat) : List Nat := maskBits 8 (bits w2 31 24)
def liveB (w2 : Nat) : List Nat := maskBits 16 (bits w2 47 32)
def liveT (w2 : Nat) : List Nat := maskBits 16 (bits w2 63 48)
def liveAcc (w1 : Nat) : List Nat := maskBits 4 (bits w1 51 48)

/-- Bytes of a live region. -/
def regionBytes (r : RegFile) (t : Nat) : Nat := min (r.tLen t) tileSize

/-- The length of a rank's record under its masks (R97, R321). -/
def recordLength (w1 w2 : Nat) (r : RegFile) : Nat :=
  256 + 8 * (liveS w1).length + 8 * (liveA w2).length + 256 * (liveB w2).length + (if bit w1 47 then 8192 else 0) +
    262144 * (liveAcc w1).length + ((liveT w2).map (regionBytes r)).foldl (· + ·) 0

/-- The fixed block of a record (Table 13-5). -/
def fixedBlock (g : Engine) (len : Nat) : List Byte :=
  let w := liveWords g
  let p := ((List.range 8).map fun i => if g.regs.getP i then 2 ^ i else 0).foldl (· + ·) 0
  leBytes 8 g.pc ++ leBytes 1 p ++ leBytes 1 (if g.bank then 1 else 0) ++ leBytes 6 0 ++
    ((List.range 32).map fun i => leBytes 2 (g.sem i)).flatten ++ leBytes 8 g.flags.toNat ++ leBytes 8 g.cycles.toNat ++
    ((List.range 16).map fun i => leBytes 8 (g.regs.getT i)).flatten ++ leBytes 8 w.1 ++ leBytes 8 w.2 ++ leBytes 4 len ++
    leBytes 1 g.rank ++ leBytes 1 g.nset ++ leBytes 1 g.ctx ++ leBytes 9 0

/-- Reads the live accumulator tiles of an engine, row-major. -/
def saveTiles (e : Nat) : List Nat → State → State × Bool × List Byte
  | [], s => (s, false, [])
  | t :: ts, s =>
    let x := (List.range 256).foldl (fun (a : State × Bool × List (List Byte)) r =>
      let y := accRead a.1 e t r 256
      (y.1, a.2.1 || y.2.1, a.2.2 ++ [(y.2.2.map (leBytes 4)).flatten])) (s, false, [])
    let z := saveTiles e ts x.1
    (z.1, x.2.1 || z.2.1, x.2.2.flatten ++ z.2.2)

/-- Reads the live regions. -/
def saveRegions (e : Nat) (r : RegFile) : List Nat → State → State × Bool × List Byte
  | [], s => (s, false, [])
  | t :: ts, s =>
    let x := tileRead s e (r.tBase t) (regionBytes r t)
    let z := saveRegions e r ts x.1
    (z.1, x.2.1 || z.2.1, x.2.2 ++ z.2.2)

/-- The record of one engine, and whether its reads met an uncorrectable error. -/
def saveRecord (s : State) (e : Nat) : State × Bool × List Byte :=
  let g := s.eng e
  let w := liveWords g
  let a := saveTiles e (liveAcc w.1) s
  let t := saveRegions e g.regs (liveT w.2) a.1
  (t.1, a.2.1 || t.2.1,
    fixedBlock g (recordLength w.1 w.2 g.regs) ++ ((liveS w.1).map fun i => leBytes 8 (g.regs.getS i)).flatten ++
      ((liveA w.2).map fun i => leBytes 8 (g.regs.getA i)).flatten ++
      ((liveB w.2).map fun i => g.slots.rdN (256 * i) 256).flatten ++ (if bit w.1 47 then g.store.rdN 0 8192 else []) ++
      a.2.2 ++ t.2.2)

/-- How the writing of the records ended: all written, a transfer with error, or a trap on an engine. -/
inductive SaveEnd where
  | ok
  | error
  | trap (e : Nat)
  deriving DecidableEq, Repr

/-- The engine has executed DONE: it has nothing to save (R96). -/
def pastDone (g : Engine) : Bool := decide (g.issue = .done)

/-- The ranks of a set that have nothing to save. -/
def endedRanks (s : State) (c : Nat) : List Nat :=
  ((s.ctx c).members.zipIdx.filter fun p => pastDone (s.eng p.1)).map (·.2)

/-- The engines of a set that have state to save, with their ranks. -/
def savedRanks (s : State) (c : Nat) : List (Nat × Nat) := (s.ctx c).members.zipIdx.filter fun p => !pastDone (s.eng p.1)

/-- Writes the record of every rank of a list. -/
def saveRanks (c : Nat) : List (Nat × Nat) → State → State × SaveEnd
  | [], s => (s, .ok)
  | (e, r) :: t, s =>
    let x := saveRecord s e
    if x.2.1 then (x.1, .trap e)
    else
      let w := memWrite x.1 .sched (saveAddr x.1 c r) x.2.2
      if w.2 = .ok then saveRanks c t w.1 else (w.1, .error)

/-- A save or restore that failed: SAVEERR and scheduler code 0x03 or 0x04 (R321, R324). -/
def saveFailed (s : State) (c code : Nat) : State :=
  ((s.setFld (Off.ctxReg c 0x30) 30 30 1).appendRecord 0x02 code 1 (some c) none 0 0).beginTeardown c (0x0200 + code)

/-- The records fit the save area, which lies in the HBM region (R321). -/
def saveFits (s : State) (c : Nat) : Bool :=
  let stride := s.fld (Off.ctxReg c 0x10) 15 0 * 2 ^ 20
  let ms := (s.ctx c).members
  ms.all (fun e => pastDone (s.eng e) || decide (recordLength (liveWords (s.eng e)).1 (liveWords (s.eng e)).2 (s.eng e).regs ≤ stride)) &&
    decide (s.fld64 (Off.ctxReg c 8) 47 12 * 4096 + ms.length * stride ≤ hbmSize)

/-- The point ID that rank 0 reported; one past DONE reported none. -/
def pointId (s : State) (c : Nat) : Option Nat :=
  match (s.ctx c).members.head? with
  | some e => if pastDone (s.eng e) then none else some (bits (liveWords (s.eng e)).2 23 16)
  | none => none

/-- LASTID holds the point that rank 0 reported at the save (R321). -/
def showPoint (s : State) (c : Nat) (p : Option Nat) : State :=
  match p with
  | some v => s.setFld (Off.ctxReg c 0x30) 7 0 v
  | none => s

/-- CONTEXT_SAVE (R97, R320, R321). DESIGN CHOICE (log entry 138): an uncorrectable word of tile or accumulator memory that a save reads raises the ECC trap on
its engine, with the address past the PREEMPT. -/
def contextSave (s : State) (c : Nat) : State :=
  if s.fatal || s.ctxState c ≠ 3 || !allStopped s c || allDone s c then s
  else if !saveFits s c then saveFailed s c 3
  else
    let x := saveRanks c (savedRanks s c) s
    match x.2 with
    | .error => saveFailed x.1 c 3
    | .trap e => x.1.raiseTrap e 4 (x.1.eng e).pc 0
    | .ok =>
      let s1 := showPoint x.1 c (pointId s c)
      (unbindSet (s1.setCtxState c 4) c).modCtx c fun y =>
        { y with preempt := false, savedNset := (s.ctx c).members.length, doneRanks := endedRanks s c }

/-- The list of 64-bit words from byte `o` of a record. -/
def recordWords (bs : List Byte) (o n : Nat) : List Nat := (List.range n).map fun i => leNat ((bs.drop (o + 8 * i)).take 8)

/-- Puts a record's state into an engine that has been bound and zero-filled (R98). The active bank is live state only with TS 1; without it bank 0
is active (Tables 3-11 and 8-5). -/
def restoreEngine (g : Engine) (bs : List Byte) : Engine :=
  let at8 (o : Nat) := leNat ((bs.drop o).take 8)
  let w1 := at8 224
  let w2 := at8 232
  let ss := liveS w1
  let as := liveA w2
  let bl := liveB w2
  let oA := 256 + 8 * ss.length
  let oB := oA + 8 * as.length
  let oTs := oB + 256 * bl.length
  let oAcc := oTs + (if bit w1 47 then 8192 else 0)
  let oReg := oAcc + 262144 * (liveAcc w1).length
  let r1 := (List.range 7).foldl (fun r i => r.setP (i + 1) (bit (at8 8) (i + 1))) g.regs
  let r2 := (List.range 16).foldl (fun r i => r.setT i (at8 (96 + 8 * i))) r1
  let r3 := (ss.zip (recordWords bs 256 ss.length)).foldl (fun r p => r.setS p.1 p.2) r2
  let r4 := (as.zip (recordWords bs oA as.length)).foldl (fun r p => r.setA p.1 p.2) r3
  let g1 : Engine := { g with regs := r4, pc := at8 0 % tileSize, flags := BitVec.ofNat 5 (at8 80), cycles := BitVec.ofNat 64 (at8 88), bank := bit w1 47 && bit (at8 8) 8 }
  let g2 := (List.range 32).foldl (fun h i => h.setSem i (leNat ((bs.drop (16 + 2 * i)).take 2))) g1
  let sl := bl.zipIdx.foldl (fun m p => ByteMap.wrN m (256 * p.1) ((bs.drop (oB + 256 * p.2)).take 256)) g2.slots
  let st := if bit w1 47 then ByteMap.wrN g2.store 0 ((bs.drop oTs).take 8192) else g2.store
  let g3 : Engine := { g2 with slots := sl, store := st, issue := .going }
  let g4 := (liveAcc w1).zipIdx.foldl (fun h p => putAcc h (accKey p.1 0 0)
    ((List.range 65536).map fun i => BitVec.ofNat 32 (leNat ((bs.drop (oAcc + 262144 * p.2 + 4 * i)).take 4)))) g3
  ((liveT w2).foldl (fun (a : Engine × Nat) t =>
    let n := regionBytes r4 t
    (putTile a.1 (r4.tBase t) ((bs.drop a.2).take n), a.2 + n)) (g4, oReg)).1

/-- The length that the words at the start of a saved record give it; nothing where they are not a record of this rank and context. -/
def recordLen (bs : List Byte) (c rank : Nat) : Option Nat :=
  let r := (List.range 16).foldl (fun (r : RegFile) i => r.setT i (leNat ((bs.drop (96 + 8 * i)).take 8))) {}
  let len := recordLength (leNat ((bs.drop 224).take 8)) (leNat ((bs.drop 232).take 8)) r
  if leNat ((bs.drop 240).take 4) ≠ len || leNat ((bs.drop 244).take 1) ≠ rank || leNat ((bs.drop 246).take 1) ≠ c then none else some len

/-- Reads the record of a rank: none where it fails to read or its bytes 240 to 246 disagree (R324). -/
def readRecord (s : State) (c rank : Nat) : State × Option (List Byte) :=
  let a := saveAddr s c rank
  let x := memRead s .sched a 256
  if x.2.1 ≠ .ok then (x.1, none)
  else match recordLen x.2.2 c rank with
    | none => (x.1, none)
    | some len =>
      let y := memRead x.1 .sched a len
      (y.1, if y.2.1 = .ok then some y.2.2 else none)

/-- Reads the record of a rank and restores its engine; whether it could. -/
def restoreRank (c : Nat) (er : Nat × Nat) (s : State) : State × Bool :=
  let x := readRecord s c er.2
  match x.2 with
  | none => (x.1, false)
  | some bs => (x.1.modEng er.1 fun g => restoreEngine g bs, true)

/-- Restores one rank after the other until one fails. -/
def rankLoop (step : Nat × Nat → State → State × Bool) : List (Nat × Nat) → State → State × Bool
  | [], s => (s, true)
  | x :: t, s =>
    let y := step x s
    if y.2 then rankLoop step t y.1 else (y.1, false)

/-- Restores the ranks of a set. A rank that had ended before the save has no record: its engine stays past DONE. -/
def restoreRanks (c : Nat) (l : List (Nat × Nat)) (s : State) : State × Bool :=
  rankLoop (fun er t =>
    if (t.ctx c).doneRanks.contains er.2 then (t.modEng er.1 fun g => { g with issue := .done }, true) else restoreRank c er t) l s

/-- CONTEXT_RESTORE (R98, R324): the set has been bound and zero-filled; issue restarts on every engine together. -/
def contextRestore (s : State) (c : Nat) : State :=
  if s.fatal || s.ctxState c ≠ 5 then s
  else
    let x := restoreRanks c (s.ctx c).members.zipIdx s
    if x.2 then startSet (x.1.setCtxState c 2) c else saveFailed x.1 c 4

/-! ## Error records and the host -/

/-- ERR_HEAD_WRITE (R328). -/
def writeErrHead (s : State) (v : Nat) : State :=
  let tail := s.fld Off.errTail 7 0
  let pend := (tail + 256 - v % 256) % 256
  if !s.writable Off.errHead || 64 < pend then s
  else (s.setFld Off.errHead 7 0 v).setFld Off.errStatus 6 0 pend

end Sys2Proof.Machine
end

