-- ==== Sys2Proof/Machine/Aes.lean ====
section
/-! DEFINITION. AES-256 in Galois/counter mode, which the specification names and does not define. PRESUMED (log entry 126): FIPS 197 and SP 800-38D. -/

namespace Sys2Proof.Machine

/-! ## The block cipher -/

/-- Multiplication of a byte by x in its field. -/
def xtime (b : Nat) : Nat := if b < 128 then 2 * b else (2 * b - 256) ^^^ 0x1B

/-- Multiplication of two bytes in their field. -/
def byteMul (a b : Nat) : Nat := ((List.range 8).foldl (fun p i => (if bit b i then p.1 ^^^ p.2 else p.1, xtime p.2)) (0, a)).1

/-- The inverse of a byte, its 254th power. -/
def byteInv (a : Nat) : Nat :=
  ((List.range 7).foldl (fun p _ =>
    let q := byteMul p.2 p.2
    (byteMul p.1 q, q)) (1, a)).1

/-- A byte rotated to the left. -/
def rotl8 (x n : Nat) : Nat := x * 2 ^ n % 256 + x / 2 ^ (8 - n)

/-- The substitution of a byte. -/
def subByte (x : Nat) : Nat :=
  let i := byteInv x
  i ^^^ rotl8 i 1 ^^^ rotl8 i 2 ^^^ rotl8 i 3 ^^^ rotl8 i 4 ^^^ 0x63

/-- The substitution of the four bytes of a word. -/
def subWord (w : Nat) : Nat := ((List.range 4).map fun i => subByte (w / 256 ^ i % 256) * 256 ^ i).foldl (· + ·) 0

/-- The word that follows those of the key schedule so far, the latest first. -/
def keyWord (ws : List Nat) (i : Nat) : Nat :=
  let last := ws.getD 0 0
  let t := if i % 8 = 0 then subWord (last % 2 ^ 24 * 256 + last / 2 ^ 24) ^^^ ((List.range (i / 8 - 1)).foldl (fun r _ => xtime r) 1 * 2 ^ 24)
    else if i % 8 = 4 then subWord last
    else last
  ws.getD 7 0 ^^^ t

/-- The sixty words of the schedule of a 256-bit key. -/
def keySchedule (key : List Byte) : List Nat :=
  let first := (List.range 8).map fun i => beNat ((key.drop (4 * i)).take 4)
  ((List.range 52).foldl (fun ws i => keyWord ws (i + 8) :: ws) first.reverse).reverse

/-- The sixteen bytes of round key `r`. -/
def roundKey (ws : List Nat) (r : Nat) : List Nat := (List.range 16).map fun i => ws.getD (4 * r + i / 4) 0 / 256 ^ (3 - i % 4) % 256

/-- Two lists of bytes added. -/
def addBytes (a b : List Nat) : List Nat := (a.zip b).map fun p => p.1 ^^^ p.2

/-- Bytes substituted, and rows shifted: byte `i` of the state stands in row i mod 4 of column i / 4. -/
def subShift (st : List Nat) : List Nat := (List.range 16).map fun i => subByte (st.getD ((i + 4 * (i % 4)) % 16) 0)

/-- Columns mixed. -/
def mixColumns (st : List Nat) : List Nat :=
  (List.range 16).map fun i =>
    let c (k : Nat) := st.getD (i / 4 * 4 + (i + k) % 4) 0
    byteMul (c 0) 2 ^^^ byteMul (c 1) 3 ^^^ c 2 ^^^ c 3

/-- The cipher on a block, under the words of a schedule. -/
def cipherBlock (ws : List Nat) (block : List Nat) : List Nat :=
  let mid := (List.range 13).foldl (fun st r => addBytes (mixColumns (subShift st)) (roundKey ws (r + 1))) (addBytes block (roundKey ws 0))
  addBytes (subShift mid) (roundKey ws 14)

/-- The cipher on a block given as a number, most significant byte first. -/
def aes256 (key : List Byte) (x : Nat) : Nat :=
  (cipherBlock (keySchedule key) ((beBytes 16 x).map (·.toNat))).foldl (fun a b => 256 * a + b) 0

/-! ## Galois/counter mode -/

/-- Multiplication of two blocks in their field; bit 0 of a block is its most significant. -/
def blockMul (x y : Nat) : Nat :=
  ((List.range 128).foldl (fun p i =>
    (if bit x (127 - i) then p.1 ^^^ p.2 else p.1, if bit p.2 0 then (p.2 / 2) ^^^ (0xE1 * 2 ^ 120) else p.2 / 2)) (0, y)).1

/-- A text filled with zeros to whole blocks. -/
def fillBlocks (l : List Byte) : List Byte := l ++ List.replicate ((16 - l.length % 16) % 16) 0#8

/-- The hash of whole blocks under a subkey. -/
def ghash (h : Nat) (l : List Byte) : Nat :=
  (List.range (l.length / 16)).foldl (fun y i => blockMul (y ^^^ beNat ((l.drop (16 * i)).take 16)) h) 0

/-- Byte `i` of the keystream under a key and a 96-bit IV. -/
def gcmStream (key : List Byte) (iv i : Nat) : Byte := (beBytes 16 (aes256 key (iv * 2 ^ 32 + (2 + i / 16)))).getD (i % 16) 0#8

/-- The bytes of a text under the keystream. -/
def gcmCrypt (key : List Byte) (iv : Nat) (text : List Byte) : List Byte := text.zipIdx.map fun p => p.1 ^^^ gcmStream key iv p.2

/-- The 16 bytes of a tag. -/
def gcmTag (key : List Byte) (iv : Nat) (aad ct : List Byte) : List Byte :=
  let text := fillBlocks aad ++ fillBlocks ct ++ beBytes 8 (8 * aad.length) ++ beBytes 8 (8 * ct.length)
  beBytes 16 (ghash (aes256 key 0) text ^^^ aes256 key (iv * 2 ^ 32 + 1))

/-- Seals a plaintext: its ciphertext and tag (R283). -/
def gcmSeal (key : List Byte) (iv : Nat) (aad pt : List Byte) : List Byte × List Byte :=
  let ct := gcmCrypt key iv pt
  (ct, gcmTag key iv aad ct)

/-- Opens a ciphertext; nothing where its tag does not verify (R283). -/
def gcmOpen (key : List Byte) (iv : Nat) (aad ct tag : List Byte) : Option (List Byte) :=
  if tag = gcmTag key iv aad ct then some (gcmCrypt key iv ct) else none

end Sys2Proof.Machine
end

