-- ==== Sys2Proof/Machine/Curve.lean ====
section
/-! DEFINITION. The curve P-384: key agreement and the verification of a signature, which the specification names and does not define. PRESUMED (log entry
126): SP 800-186, SP 800-56A and FIPS 186-5. -/

namespace Sys2Proof.Machine

/-- The field, the group's order, and the curve's constant and base point. -/
def curveP : Nat := 2 ^ 384 - 2 ^ 128 - 2 ^ 96 + 2 ^ 32 - 1
def curveN : Nat := 0xffffffffffffffffffffffffffffffffffffffffffffffffc7634d81f4372ddf581a0db248b0a77aecec196accc52973
def curveB : Nat := 0xb3312fa7e23ee7e4988e056be3f82d19181d9c6efe8141120314088f5013875ac656398d8a2ed19d2a85c8edd3ec2aef
def curveG : Nat × Nat :=
  (0xaa87ca22be8b05378eb1c71ef320ad746e1d3b628ba79b9859f741e082542a385502f25dbf55296c3a545e3872760ab7,
    0x3617de4a96262c6f5d9e98bf9292dc29f8f41dbd289a147ce9da3113b5f0b8c00a60b1ce1d7e819d7a431d7c90ea0e5f)

/-- x ^ e modulo m, for e below 2^384. -/
def powMod (m x e : Nat) : Nat := (List.range 384).foldl (fun a i => a * a % m * (if bit e (383 - i) then x else 1) % m) 1

/-- The inverse of x modulo a prime. -/
def invMod (m x : Nat) : Nat := powMod m x (m - 2)

/-- The point is on the curve. -/
def onCurve (q : Nat × Nat) : Bool :=
  decide (q.1 < curveP) && decide (q.2 < curveP) && q.2 * q.2 % curveP == (q.1 * q.1 * q.1 + (curveP - 3) * q.1 + curveB) % curveP

/-- The third point of a line of slope `k` through two points of abscissas `x` and `u`, reflected. -/
def chord (k x y u : Nat) : Nat × Nat :=
  let r := (k * k + 2 * curveP - x - u) % curveP
  (r, (k * (x + curveP - r) + curveP - y) % curveP)

/-- The sum of two points; none is the point at infinity. -/
def pointAdd : Option (Nat × Nat) → Option (Nat × Nat) → Option (Nat × Nat)
  | none, b => b
  | a, none => a
  | some (x, y), some (u, v) =>
    if x ≠ u then some (chord ((v + curveP - y) * invMod curveP ((u + curveP - x) % curveP) % curveP) x y u)
    else if y = v && y ≠ 0 then some (chord ((3 * x * x + curveP - 3) * invMod curveP (2 * y % curveP) % curveP) x y u)
    else none

/-- A multiple of a point. -/
def pointMul (k : Nat) (q : Nat × Nat) : Option (Nat × Nat) :=
  (List.range 384).foldl (fun a i =>
    let d := pointAdd a a
    if bit k (383 - i) then pointAdd d (some q) else d) none

/-- The point of an uncompressed public key; none for one that is not on the curve. -/
def pointOf (b : List Byte) : Option (Nat × Nat) :=
  let q := (beNat ((b.drop 1).take 48), beNat ((b.drop 49).take 48))
  if b.length = 97 && b.take 1 == [4#8] && onCurve q then some q else none

/-- A point as an uncompressed public key. -/
def pointBytes (q : Nat × Nat) : List Byte := 4#8 :: beBytes 48 q.1 ++ beBytes 48 q.2

/-- The shared secret of a private key with a public key; none for one that is not on the curve (R295). -/
def ecdh (d : Nat) (b : List Byte) : Option (List Byte) := ((pointOf b).bind (pointMul d)).map fun q => beBytes 48 q.1

/-- A signature r ‖ s over bytes verifies under a public point (R450). -/
def ecdsaGood (key : Nat × Nat) (m sig : List Byte) : Bool :=
  let r := beNat (sig.take 48)
  let s := beNat ((sig.drop 48).take 48)
  let w := invMod curveN s
  let e := beNat (sha384 m)
  decide (0 < r) && decide (r < curveN) && decide (0 < s) && decide (s < curveN) &&
    (match pointAdd (pointMul (e * w % curveN) curveG) (pointMul (r * w % curveN) key) with
      | some q => q.1 % curveN == r
      | none => false)

/-! ## The identity key (R454, R456) -/

/-- The private key of the device. -/
def identityKey : Nat := 1 + Config.identitySeed % (curveN - 1)

/-- The uncompressed public key of the device. -/
def identityPublic : List Byte := pointBytes ((pointMul identityKey curveG).getD (0, 0))

/-- The UID: bytes 0 to 7 of the SHA-384 of the public key, least significant first (R456). -/
def deviceUid : Nat := leNat ((sha384 identityPublic).take 8)

end Sys2Proof.Machine
end

