-- ==== Sys2Proof/Machine/Crypto.lean ====
section
/-! DEFINITION. What the specification seals and opens: chunks (R283) and key blobs (R295). -/

namespace Sys2Proof.Machine

/-- The IV and the associated data of chunk `c` of object `obj`, `n` bytes long (R283). -/
def chunkIv (obj c : Nat) : Nat := obj * 2 ^ 64 + c * 2 ^ 16
def chunkAad (obj c n : Nat) : List Byte := leBytes 4 obj ++ leBytes 6 c ++ leBytes 4 n ++ [0#8, 0#8]

/-- The key that wraps the key of a blob: HKDF of the agreed secret under the model ID (R295). -/
def wrapKey (id z : List Byte) : List Byte := hkdf384 id z (asciiBytes "mv25 key wrap") 32

/-- A key blob as Table 11-6 lays it down, opened: its model ID, manifest digest and key; none for one of another TYPE, a point off the curve
or a tag that fails (R295). -/
def openBlob (type : Nat) (b : List Byte) : Option (Nat × List Byte × List Byte) :=
  let part (lo n : Nat) := (b.drop lo).take n
  if leNat (part 0 4) ≠ type then none
  else match ecdh identityKey (part 8 97) with
    | none => none
    | some z =>
      match gcmOpen (wrapKey (part 4 4) z) (beNat (part 112 12)) (part 0 112 ++ part 172 84) (part 124 32) (part 156 16) with
      | none => none
      | some key => some (leNat (part 4 4), part 172 48, key)

end Sys2Proof.Machine
end

