-- ==== Sys2Proof/Machine/Flash.lean ====
section
/-! DEFINITION. The flash tier (R278 to R298): logical blocks and their maintenance, flash commands, gates, signals to a context, and the key
slots and model commands of the security engine. -/

namespace Sys2Proof.Machine

/-! ## Registers -/

def flsRing : Nat := 0xC00000
def flsCtl : Nat := 0xC00008
def flsTail : Nat := 0xC0000C
def flsHead : Nat := 0xC00010
def flsStatus : Nat := 0xC00018
def flsCap : Nat := 0xC00020
def flsEcc : Nat := 0xC00028
def flsReloc : Nat := 0xC0002C
def flsRdthr : Nat := 0xC00030
def flsWear : Nat := 0xC00034
def secModel : Nat := 0x402000
def secBlob : Nat := 0x402008
def secModelId : Nat := 0x402010
def secDigest (i : Nat) : Nat := 0x402040 + 4 * i
def secKcmd : Nat := 0x402080
def sess (k : Nat) : Nat := 0x402200 + 4 * k

/-- Zero, under every key. -/
def zeroNat : Nat → Nat := fun _ => 0

/-! ## Signals to a context from outside its engines (R290, R303, R322) -/

/-- The number of engines in a context's set, as the last bound set has it where one was saved. -/
def ctxNset (s : State) (c : Nat) : Nat :=
  if s.ctxState c = 4 || s.ctxState c = 5 then (s.ctx c).savedNset
  else if (s.ctx c).members.isEmpty then (setOf s c).length else (s.ctx c).members.length

/-- A command, job or edit adds to semaphore `q` of the engine that holds a rank of context `c`: dropped once the context has ended or been torn
down; dropped with a scheduler record where the rank is not below NSET. `i` is the ring index that the record names. -/
def hubSignal (s : State) (c rank q inc i : Nat) : State :=
  if s.ctxState c = 0 || s.ctxState c = 7 then s
  else if ctxNset s c ≤ rank then s.appendRecord 0x02 0x08 1 (some c) none i 0
  else ctxSemAdd s c rank q inc

/-! ## Logical blocks (R279 to R282) -/

/-- Counts a read of the physical block that holds a logical block. -/
def countRead (s : State) (lba : Nat) : State :=
  let p := SMap.get zeroNat s.flash.phys lba
  if p = 0 then s
  else { s with flash := { s.flash with reads := SMap.set zeroNat s.flash.reads p (SMap.get zeroNat s.flash.reads p + 1) } }

/-- Reads a logical block; none where every try fails to decode (R280). -/
def readBlock (s : State) (lba : Nat) : State × Option (List Byte) :=
  let s1 := countRead s lba
  let m := SMap.get noMark s.flash.media lba
  if m = 2 then (s1.count flsEcc 31 16 1, none)
  else (if m = 1 then s1.count flsEcc 15 0 1 else s1, some (s1.flash.blocks.rdN (4096 * lba) 4096))

/-- Reads `n` logical blocks; none from the first that fails. -/
def readBlocks : Nat → Nat → State → State × Option (List Byte)
  | 0, _, s => (s, some [])
  | n + 1, lba, s =>
    let x := readBlock s lba
    match x.2 with
    | none => (x.1, none)
    | some b =>
      let y := readBlocks n (lba + 1) x.1
      (y.1, y.2.map (b ++ ·))

/-- The first physical block from `p` up that is not among `bad`, in at most `n` steps. -/
def blockOutside (bad : List Nat) : Nat → Nat → Nat
  | 0, p => p
  | n + 1, p => if bad.contains p then blockOutside bad n (p + 1) else p

/-- A logical block takes new content, in a physical block of the FTL's choice that is not among `bad`. -/
def placeBlock (bad : List Nat) (s : State) (lba : Nat) (bs : List Byte) : State :=
  let x := s.draw
  let p := blockOutside bad (bad.length + 1) (x.2 % 2 ^ 32 + 1)
  { x.1 with flash := { x.1.flash with
      blocks := x.1.flash.blocks.wrN (4096 * lba) (resize 4096 bs)
      phys := SMap.set zeroNat x.1.flash.phys lba p
      reads := SMap.set zeroNat x.1.flash.reads p 0
      media := SMap.set noMark x.1.flash.media lba 0 } }

/-- A logical block takes new content, in a physical block of the FTL's choice that is not retired (R280, R281). -/
def programBlock (s : State) (lba : Nat) (bs : List Byte) : State := placeBlock s.flash.retired s lba bs

/-- Programs consecutive logical blocks. -/
def programBlocks : Nat → Nat → List Byte → State → State
  | 0, _, _, s => s
  | n + 1, lba, bs, s => programBlocks n (lba + 1) (bs.drop 4096) (programBlock s lba (bs.take 4096))

/-- A logical block is unwritten again. -/
def trimBlock (s : State) (lba : Nat) : State :=
  { s with flash := { s.flash with
      blocks := s.flash.blocks.filter fun e => e.1 / 4096 != lba
      phys := SMap.set zeroNat s.flash.phys lba 0
      media := SMap.set noMark s.flash.media lba 0 } }

/-- The logical blocks that a physical block holds. -/
def blocksIn (s : State) (p : Nat) : List Nat := (s.flash.phys.filter fun e => e.2 == p).map (·.1)

/-- Moves the valid data of physical block `p` to others of the FTL's choice; a logical block that cannot be read stays where it is. Answers the
logical blocks that failed. -/
def relocate (p : Nat) : List Nat → State → State × List Nat
  | [], s => (s, [])
  | l :: t, s =>
    if SMap.get noMark s.flash.media l = 2 then
      let y := relocate p t (s.count flsEcc 31 16 1)
      (y.1, l :: y.2)
    else
      let s1 := if SMap.get noMark s.flash.media l = 1 then s.count flsEcc 15 0 1 else s
      relocate p t (placeBlock (p :: s1.flash.retired) s1 l (s1.flash.blocks.rdN (4096 * l) 4096))

/-- FTL_READ_DISTURB_RELOCATE of physical block `b` (R280); it writes flash, so none starts after power-fail (R446). -/
def readDisturb (s : State) (b : Nat) : State :=
  let p := b + 1
  if s.powerFail || decide (SMap.get zeroNat s.flash.reads p < max 1 (s.fld flsRdthr 23 0)) then s
  else
    let y := relocate p (blocksIn s p) s
    let s1 := y.2.foldl (fun t l => t.appendRecord 0x06 0x10 2 none none l 0) y.1
    { s1 with flash := { s1.flash with reads := SMap.set zeroNat s1.flash.reads p 0 } }.count flsReloc 31 16 1

/-- The media take note of their wear and their retired blocks. -/
def noteWear (s : State) : State :=
  if !s.boot.powered then s else { s with flash := { s.flash with wear := some (s.reg flsStatus, s.fld flsReloc 15 0, s.reg flsWear) } }

/-- The fields of Table 11-8 that come from the media; RO is set where the spare capacity stands below 1 % (R282). -/
def mountFtl (s : State) : State :=
  let avg := Config.factoryAvgPe % 2 ^ 16
  let m := s.flash.wear.getD (Config.factorySpare % 101, Config.factoryGrown % 2 ^ 16, min (avg + Config.factoryMaxPe % 501) 65535 * 65536 + avg)
  let ro := if bits m.1 6 0 = 0 then putBits m.1 31 31 1 else m.1
  ((s.setReg flsStatus ro).setFld flsReloc 15 0 m.2.1).setReg flsWear m.2.2

/-- WEAR_LEVELLING: the FTL moves the data of physical block `b` (dynamic and static wear levelling, garbage collection), and retires it where
a program or an erase has failed. Counts of wear stay within the bound of R280; the spare capacity that is left is open, and RO sets for good
below 1 % (R282). Nothing starts after power-fail (R446). -/
def wearLevel (s : State) (b : Nat) (retire : Bool) : State :=
  let p := b + 1
  let dies := retire && !s.flash.retired.contains p
  let s0 := if dies then { s with flash := { s.flash with retired := p :: s.flash.retired } } else s
  let y := relocate p (blocksIn s0 p) s0
  let s1 := y.2.foldl (fun t l => t.appendRecord 0x06 0x10 2 none none l 0) y.1
  let a := s1.draw
  let avg := s1.fld flsWear 15 0 + a.2 % 2
  let m := a.1.draw
  let s2 := m.1.setReg flsWear (min (max (avg + m.2 % 501) (s1.fld flsWear 31 16)) (min (avg + 500) 65535) * 65536 + min avg 65535)
  if s.powerFail then s
  else if !dies then noteWear s2
  else
    let d := s2.draw
    let spare := d.2 % (s2.fld flsStatus 6 0 + 1)
    let s3 := (d.1.count flsReloc 15 0 1).setFld flsStatus 6 0 spare
    noteWear (if spare = 0 then s3.setFld flsStatus 31 31 1 else s3)

/-! ## Commands -/

/-- A field of a command's descriptor (Table 11-2). -/
def FlashCmd.f (c : FlashCmd) (i hi lo : Nat) : Nat := bits (c.words.getD i 0) hi lo

def FlashCmd.op (c : FlashCmd) : Nat := c.f 0 63 60
def FlashCmd.ctx (c : FlashCmd) : Nat := c.f 0 59 54
def FlashCmd.slot (c : FlashCmd) : Nat := c.f 0 36 32
def FlashCmd.gated (c : FlashCmd) : Bool := c.f 0 8 8 == 1
def FlashCmd.lba (c : FlashCmd) : Nat := c.f 1 63 24
def FlashCmd.nlb (c : FlashCmd) : Nat := c.f 2 31 0
def FlashCmd.daddr (c : FlashCmd) : Nat := c.f 3 47 0
def FlashCmd.tagLba (c : FlashCmd) : Nat := c.f 4 63 24
def FlashCmd.obj (c : FlashCmd) : Nat := c.f 5 63 32
def FlashCmd.chunk0 (c : FlashCmd) : Nat := c.f 6 63 16
/-- Bytes and chunks of a command. -/
def FlashCmd.bytes (c : FlashCmd) : Nat := 4096 * c.nlb
def FlashCmd.chunks (c : FlashCmd) : Nat := (c.bytes + 65535) / 65536
/-- Bytes of its chunk `j`. -/
def FlashCmd.chunkLen (c : FlashCmd) (j : Nat) : Nat := min 65536 (c.bytes - 65536 * j)
/-- The units in which it is handled: chunks where it is sealed, logical blocks where it is not. -/
def FlashCmd.units (c : FlashCmd) : Nat := if c.slot = 0 || c.op = 3 then c.nlb else c.chunks

def flsSize (s : State) : Nat := ringSize (s.fld flsCtl 4 0)
def flsAddr (s : State) (i : Nat) : Nat := s.fld64 flsRing 47 6 * 64 + 64 * i

/-- The first ring index that has not been started. -/
def flsNext (s : State) : Option Nat :=
  (ringPending (s.fld flsHead 15 0) (s.fld flsTail 15 0) (flsSize s)).find? fun i =>
    !s.flash.done.contains i && !s.flash.cmds.any fun c => c.index == i

/-- A command has completed: STAT is written, HEAD advances in order, its source is raised, and a DONE command that asks for it signals its
semaphore (R289, R290). One whose STAT cannot be written ends with error: it signals nothing and has a record (R271). DEDUCED (log entry 57): with the
code of RANGE. -/
def flashEnd (s : State) (c : FlashCmd) (stat : Nat) (record : Bool) : State :=
  let w := memWrite s .flash (flsAddr s c.index) (leBytes 1 stat)
  let out := if w.2 = .ok || stat ≠ 1 then stat else 4
  let s2 := if record || w.2 ≠ .ok then w.1.appendRecord 0x06 out 1 (some c.ctx) none c.index 0 else w.1
  let r := ringAdvance (flsSize s) (flsSize s) (s2.fld flsHead 15 0) (s2.flash.done ++ [c.index])
  let s3 := ({ s2 with flash := { s2.flash with done := r.2, cmds := s2.flash.cmds.filter fun x => x.index != c.index } }.setFld
    flsHead 15 0 r.1)
  let s4 := if out = 1 && c.f 0 37 37 = 1 && !c.quiet then hubSignal s3 c.ctx (c.f 0 53 47) (c.f 0 46 42) (c.f 0 41 38) c.index else s3
  s4.raiseIrq 2

/-- An address of the HBM and Landing regions. -/
def deviceRegion (a : Nat) : Bool :=
  decide (a < hbmSize) || (decide (0x010000000000 ≤ a) && decide (a < 0x010040000000))

/-- The RANGE cases of R285 that its descriptor shows. Only fields that the command's OP uses count. -/
def flashRange (s : State) (c : FlashCmd) : Bool :=
  let cap := s.fld64 flsCap 39 0
  let o := c.op
  let sealed := c.slot != 0 && (o == 1 || o == 2)
  c.nlb == 0 || ((o == 1 || o == 2 || o == 3) && decide (cap < c.lba + c.nlb)) ||
    (sealed && decide (cap < c.tagLba + (16 * c.chunks + 4095) / 4096)) ||
    ((sealed || (o == 4 && c.slot != 0)) && c.f 6 15 0 != 0) ||
    (o != 3 && c.daddr % 64 != 0) || (o == 4 && (c.f 1 47 0 % 64 != 0 || c.f 4 47 0 % 64 != 0)) || (o == 5 && c.f 1 47 0 % 64 != 0) ||
    ((o == 1 || o == 4 || o == 5) && !deviceRegion c.daddr)

/-- The KEY cases of Table 11-3 and R287. -/
def flashKey (s : State) (c : FlashCmd) : Bool :=
  let w := s.reg (kslot c.slot)
  if c.op = 5 then false
  else if c.slot = 0 then c.op == 4
  else c.op == 3 || !bit w 31 || (bit w 29 && bits w 28 23 != c.ctx)

/-- The requester of an NFETCH's messages, and the number of its request `j`'s owner. -/
def nfRq : Nat := 0x70

/-- Sends the requests of an NFETCH: RD messages of 4,096 bytes on VC2 that carry SESS and DL (R293). -/
def nfetchSend (c : FlashCmd) : Nat → Nat → State → State
  | 0, _, s => s
  | n + 1, j, s =>
    let ttl := s.fld 0x2000004 21 16
    let m : Msg := { op := 1, src := s.fld 0x2000000 11 0, dst := c.f 1 59 48, rq := nfRq, dl := c.f 0 31 16, len := 4096,
                     addr := c.f 1 47 0 + 4096 * j, sess := c.f 4 7 0, vc := 2, ttl := if ttl = 0 then 1 else ttl }
    let q : RemoteReq := { tag := 0, rq := nfRq, id := c.index, op := 1, addr := m.addr, pos := 4096 * j, len := 4096, us := s.us }
    nfetchSend c n (j + 1) (startRequest s m q)

/-- A command starts: it ends at once with RANGE, KEY or RO, or is in progress (R285, R287, R282). -/
def flashStart (s : State) (c : FlashCmd) : State :=
  if c.op = 0 || 5 < c.op || flashRange s c then flashEnd s c 4 false
  else if flashKey s c then flashEnd s c 5 false
  else if (c.op = 2 || c.op = 3) && s.fld flsStatus 31 31 = 1 then flashEnd s c 7 false
  else
    let s1 := { s with flash := { s.flash with cmds := s.flash.cmds ++ [c] } }
    if c.op = 5 then nfetchSend c c.nlb 0 s1 else s1

/-- The hub may start the command that is next: the device is ready, EN is 1, fewer than 16 are in progress (R289), and power-fail has not been
signalled for a command that writes flash (R446). -/
def flashReady (s : State) : Bool :=
  s.ready && !s.fatal && s.fld flsCtl 31 31 == 1 && decide (s.flash.cmds.length < 16)

/-- The command that is next, read from the ring. A read that ends with error ends it with RANGE. -/
def flashNext (s : State) (go : State → FlashCmd → State) : State :=
  if !flashReady s then s
  else match flsNext s with
    | none => s
    | some i =>
      let x := memRead s .flash (flsAddr s i) 64
      match x.2.1 with
      | .ok =>
        let c : FlashCmd := { index := i, words := words8 x.2.2 }
        if (c.op = 2 || c.op = 3) && s.powerFail then s else go x.1 c
      | .wait => s
      | _ => flashEnd x.1 { index := i, words := [] } 4 true

/-- The command that is next starts where its OP passes the test and no gate applies. DEDUCED (log entry 56): one whose OP is not assigned has no gate. -/
def flashOp (s : State) (takes : Nat → Bool) : State :=
  flashNext s fun t c => if takes c.op && (!c.gated || !(1 ≤ c.op && c.op ≤ 5)) then flashStart t c else s

/-- FLASH_GATE_POLL (R288). DEDUCED (log entry 56): what ends a command at its gate comes before its own RANGE, KEY and RO. -/
def gatePoll (s : State) : State :=
  flashNext s fun t c =>
    if !c.gated || c.op = 0 || 5 < c.op then s
    else
      let g := c.f 7 47 0
      if !deviceRegion g || g % 8 ≠ 0 then flashEnd t c 4 false
      else
        let x := memReadNat t .flash g 8
        match x.2.1 with
        | .ok => if c.f 5 31 0 ≤ x.2.2 then flashStart x.1 c else x.1
        | .wait => s
        | _ => flashEnd x.1 c 4 true

/-! ## What a command moves -/

/-- How a command's move ended: every unit done, waiting for host data, or ended with a status and perhaps a record. -/
inductive FlashMove where
  | done
  | wait
  | ends (stat : Nat) (record : Bool)
  deriving DecidableEq, Repr

/-- How a device-memory access that failed ends a command (R31, R271, R286). -/
def moveFail : MemEnd → FlashMove
  | .wait => .wait
  | _ => .ends 4 true

/-- The key of a command's slot, where the slot is still valid and its owner is the command's context. -/
def slotKey (s : State) (c : FlashCmd) : Option (List Byte) :=
  if flashKey s c then none else some (SMap.get noBytes s.flash.keys c.slot)

/-- Opens chunk `j` of a command and writes its plaintext (R283, R286, Table 11-7). -/
def openChunk (s : State) (c : FlashCmd) (j : Nat) (ct tag : List Byte) : State × FlashMove :=
  match slotKey s c with
  | none => (s, .ends 5 false)
  | some key =>
    let n := c.chunk0 + j
    match gcmOpen key (chunkIv c.obj n) (chunkAad c.obj n (c.chunkLen j)) ct tag with
    | none => (s, .ends 2 true)
    | some pt =>
      let w := memWrite s .flash (c.daddr + 65536 * j) pt
      (w.1, if w.2 = .ok then .done else moveFail w.2)

/-- Unit `j` of a READ. -/
def readUnit (s : State) (c : FlashCmd) (j : Nat) : State × FlashMove :=
  if c.slot = 0 then
    let x := readBlock s (c.lba + j)
    match x.2 with
    | none => (x.1, .ends 3 true)
    | some b =>
      let w := memWrite x.1 .flash (c.daddr + 4096 * j) b
      (w.1, if w.2 = .ok then .done else moveFail w.2)
  else
    let x := readBlocks (c.chunkLen j / 4096) (c.lba + 16 * j) s
    match x.2 with
    | none => (x.1, .ends 3 true)
    | some ct =>
      let t := readBlock x.1 (c.tagLba + 16 * j / 4096)
      match t.2 with
      | none => (t.1, .ends 3 true)
      | some tb => openChunk t.1 c j ct ((tb.drop (16 * j % 4096)).take 16)

/-- Unit `j` of a WRITE. DESIGN CHOICE (log entry 58): a sealed one keeps the other bytes of the block of its tag, which is read once its data are programmed. -/
def writeUnit (s : State) (c : FlashCmd) (j : Nat) : State × FlashMove :=
  if s.fld flsStatus 31 31 = 1 then (s, .ends 7 false)
  else if c.slot = 0 then
    let x := memRead s .flash (c.daddr + 4096 * j) 4096
    if x.2.1 = .ok then (programBlock x.1 (c.lba + j) x.2.2, .done) else (x.1, moveFail x.2.1)
  else
    let x := memRead s .flash (c.daddr + 65536 * j) (c.chunkLen j)
    if x.2.1 ≠ .ok then (x.1, moveFail x.2.1)
    else match slotKey x.1 c with
      | none => (x.1, .ends 5 false)
      | some key =>
        let n := c.chunk0 + j
        let y := gcmSeal key (chunkIv c.obj n) (chunkAad c.obj n (c.chunkLen j)) x.2.2
        let s1 := programBlocks (c.chunkLen j / 4096) (c.lba + 16 * j) y.1 x.1
        let tb := c.tagLba + 16 * j / 4096
        let t := readBlock s1 tb
        match t.2 with
        | none => (t.1, .ends 3 true)
        | some b => (programBlock t.1 tb (b.take (16 * j % 4096) ++ y.2 ++ b.drop (16 * j % 4096 + 16)), .done)

/-- Unit `j` of an IMPORT. -/
def importUnit (s : State) (c : FlashCmd) (j : Nat) : State × FlashMove :=
  let x := memRead s .flash (c.f 1 47 0 + 65536 * j) (c.chunkLen j)
  if x.2.1 ≠ .ok then (x.1, moveFail x.2.1)
  else
    let t := memRead x.1 .flash (c.f 4 47 0 + 16 * j) 16
    if t.2.1 ≠ .ok then (t.1, moveFail t.2.1) else openChunk t.1 c j x.2.2 t.2.2

/-- One unit of a command other than NFETCH. -/
def flashUnit (s : State) (c : FlashCmd) (j : Nat) : State × FlashMove :=
  if c.op = 1 then readUnit s c j
  else if c.op = 2 then writeUnit s c j
  else if c.op = 3 then (trimBlock s (c.lba + j), .done)
  else importUnit s c j

/-- The first `n` units from `j` up, in ascending order (R286). -/
def flashUnits (c : FlashCmd) : Nat → Nat → State → State × FlashMove
  | 0, _, s => (s, .done)
  | n + 1, j, s =>
    let x := flashUnit s c j
    match x.2 with
    | .done => flashUnits c n (j + 1) x.1
    | m => (x.1, m)

/-! ## NFETCH data -/

/-- The requests of an NFETCH, in ascending order. -/
def nfReqs (s : State) (c : FlashCmd) : List RemoteReq := s.fabric.reqs.filter fun q => q.rq == nfRq && q.id == c.index

/-- Writes the opened responses of a command as far as they have come in ascending order (R286, R293): status 3 marks a request whose bytes are
written, and the first that failed stops them. -/
def nfRelease (c : FlashCmd) : List RemoteReq → State → State
  | [], s => s
  | q :: t, s =>
    if q.status = 3 then nfRelease c t s
    else if q.status = 1 then
      let w := memWrite s .flash (c.daddr + q.pos) q.data
      let st := if w.2 = .ok then 3 else 2
      let s1 := { w.1 with fabric := { w.1.fabric with reqs := w.1.fabric.reqs.map fun r =>
        if r.rq = nfRq && r.id = q.id && r.pos = q.pos then { r with status := st, ecode := if w.2 = .ok then 0 else 0x40, data := [] } else r } }
      if w.2 = .ok then nfRelease c t s1 else s1
    else s

/-- How an NFETCH stands: every request written, one failed, or still waiting. ECODE 0x41 (a tag that failed) ends it with AUTH, 0x40 (a
write that failed) with RANGE; a timeout and every other error response are REFUSED (R343). -/
def nfStand (s : State) (c : FlashCmd) : FlashMove :=
  match (nfReqs s c).find? fun q => q.status != 3 with
  | none => .done
  | some q =>
    if q.status ≠ 2 then .wait
    else if q.ecode = 0x41 then .ends 2 true
    else if q.ecode = 0x40 then .ends 4 true
    else .ends 6 true

/-- Forgets the requests of an NFETCH: responses that still arrive match none. -/
def nfDrop (s : State) (c : FlashCmd) : State :=
  tagsFree { s with fabric := { s.fabric with reqs := s.fabric.reqs.filter fun q => !(q.rq == nfRq && q.id == c.index) } } nfRq

/-- A command touches a logical block that an earlier one writes or trims (R289). -/
def flashBehind (s : State) (c : FlashCmd) : Bool :=
  let ranges (x : FlashCmd) : List (Nat × Nat) :=
    (if x.op = 1 || x.op = 2 || x.op = 3 then [(x.lba, x.nlb)] else []) ++
      (if x.slot ≠ 0 && (x.op = 1 || x.op = 2) then [(x.tagLba, (16 * x.chunks + 4095) / 4096)] else [])
  let meet (a b : Nat × Nat) : Bool := decide (a.1 < b.1 + b.2) && decide (b.1 < a.1 + a.2)
  (s.flash.cmds.takeWhile fun x => x.index != c.index).any fun x =>
    (x.op == 2 || x.op == 3) && (ranges x).any fun a => (ranges c).any (meet a)

/-- FLASH_COMMAND_COMPLETE: the `k`-th command in progress moves its units and completes. -/
def flashComplete (s : State) (k : Nat) : State :=
  match s.flash.cmds[k]? with
  | none => s
  | some c =>
    if flashBehind s c then s
    else
      let x := if c.op = 5 then (s, nfStand s c) else flashUnits c c.units 0 s
      match x.2 with
      | .wait => s
      | .done => flashEnd (nfDrop x.1 c) c 1 false
      | .ends st rec => flashEnd (nfDrop x.1 c) c st rec

/-- A command is cut short: of one that no earlier one held back (`behind`) a free number of its units have been done (R281, R289, R296). -/
def flashPart (behind : Bool) (s : State) (c : FlashCmd) : State :=
  let x := s.draw
  if behind then x.1 else (flashUnits c (x.2 % (c.units + 1)) 0 x.1).1

/-- An unload ends a command in progress with ABORT; how many of its units had been done is open (R296, Table 11-7). -/
def flashAbort (behind : Bool) (s : State) (c : FlashCmd) : State :=
  flashEnd (nfDrop (flashPart (behind || c.op == 5) s c) c) c 8 false

/-! ## Key slots (R287, R294) -/

/-- A key slot takes a key. `owner` is the context that owns an adapter's slot. -/
def setKey (s : State) (k : Nat) (key : List Byte) (owner : Option Nat) : State :=
  let w := match owner with
    | none => 2 ^ 31 + 2 ^ 30
    | some c => 2 ^ 31 + 2 ^ 29 + c * 2 ^ 23
  { s with flash := { s.flash with keys := SMap.set noBytes s.flash.keys k key } }.setReg (kslot k) w

/-- The bytes of a key blob; none where the read fails. -/
def readBlob (s : State) (a : Nat) : State × Option (List Byte) :=
  let x := memRead s .sched a 256
  (x.1, if x.2.1 = .ok then some x.2.2 else none)

/-- SEC_KCMD install of an adapter key (R294). -/
def keyInstall (s : State) (k c blob : Nat) : State :=
  let x := readBlob s blob
  let r := match x.2 with
    | none => none
    | some b => openBlob 2 b
  match r with
  | none => x.1.setFld64 secKcmd 60 60 1
  | some (id, _, key) =>
    if k < 2 || s.fld secModel 1 0 ≠ 2 || id ≠ s.reg secModelId || bit (s.reg (kslot k)) 31 then x.1.setFld64 secKcmd 60 60 1
    else setKey x.1 k key (some c)

/-- SEC_KCMD erase. -/
def keyErase (s : State) (k : Nat) : State := if k < 2 then s.setFld64 secKcmd 60 60 1 else eraseKey s k

/-- A write of SEC_KCMD. The fields that read as 0 are kept for a later write of the other word (R11); an OP acts with the word that holds it. -/
def kcmdWrite (s : State) (a : Acc) (v : Nat) : State :=
  if !s.writable secKcmd then s
  else
    let w := accMerge (s.reg64 secKcmd) a v
    let rej := if a ≠ .low && bit w 60 then 0 else s.fld64 secKcmd 60 60
    let s1 := s.setReg64 secKcmd (putBits (putBits w 60 60 rej) 63 61 0)
    if a = .low then s1
    else match bits w 63 61 with
      | 1 => keyInstall s1 (bits w 53 49) (bits w 59 54) (bits w 47 0)
      | 2 => keyErase s1 (bits w 53 49)
      | _ => s1

/-! ## Sessions -/

/-- Session `k` is closed: its key is erased and its register reads 0. -/
def closeSession (s : State) (k : Nat) : State :=
  { s with flash := { s.flash with sessKeys := SMap.set noBytes s.flash.sessKeys k [], sessSeq := SMap.set zeroNat s.flash.sessSeq k 0 } }.setReg
    (sess k) 0

/-! ## The model (R296, R297) -/

/-- A context is active: neither FREE nor TORN. -/
def ctxActive (s : State) (c : Nat) : Bool := s.ctxState c != 0 && s.ctxState c != 7

/-- A refused model command. -/
def modelRej (s : State) (err : Nat) : State := (s.setFld secModel 28 28 1).setFld secModel 15 8 err

/-- UNLOAD: flash commands in progress end with ABORT, and slot 1, every adapter slot and every session go. DESIGN CHOICE (log entries 58 and 61): what the
commands had done, sealed ones too, they did while the keys stood; and a LOAD in progress is abandoned. -/
def modelUnload (s : State) : State :=
  if (List.range 64).any (ctxActive s) then modelRej s 1
  else
    let s1 := s.flash.cmds.foldl (fun t c => flashAbort (flashBehind s c) t c) s
    let s2 := (List.range 32).foldl eraseKey s1
    let s3 := (List.range 16).foldl closeSession s2
    { s3 with flash := { s3.flash with unloading := true, loading := none } }.setFld secModel 1 0 1

/-- LOAD: the blob at SEC_MODEL_BLOB is opened. -/
def modelLoad (s : State) : State :=
  if s.fld secModel 1 0 ≠ 0 then modelRej s 2
  else
    let x := readBlob s (s.fld64 secBlob 47 6 * 64)
    let r := match x.2 with
      | none => none
      | some b => openBlob 1 b
    { x.1 with flash := { x.1.flash with unloading := false, loading := some r } }.setFld secModel 1 0 1

/-- A write of SEC_MODEL. -/
def modelWrite (s : State) (v : Nat) : State :=
  if !s.writable secModel then s
  else
    let s1 := if bit v 28 then s.setFld secModel 28 28 0 else s
    match bits v 31 29 with
    | 1 => modelUnload s1
    | 2 => modelLoad s1
    | _ => s1

/-- MODEL_COMMAND_COMPLETE (R296). DEDUCED (log entry 61): ERR keeps its value where the command succeeds. -/
def modelComplete (s : State) : State :=
  if s.fld secModel 1 0 ≠ 1 then s
  else if s.flash.unloading then
    let s1 := { s with flash := { s.flash with unloading := false } }
    let s2 := (List.range 12).foldl (fun t i => t.setReg (secDigest i) 0) (s1.setReg secModelId 0)
    (s2.setFld secModel 1 0 0).raiseIrq 8
  else match s.flash.loading with
    | none => s
    | some none => (({ s with flash := { s.flash with loading := none } }.setFld secModel 15 8 3).setFld secModel 1 0 3).raiseIrq 8
    | some (some (id, digest, key)) =>
      let s1 := setKey { s with flash := { s.flash with loading := none } } 1 key none
      let s2 := (List.range 12).foldl (fun t i => t.setReg (secDigest i) (leNat ((digest.drop (4 * i)).take 4))) (s1.setReg secModelId id)
      (s2.setFld secModel 1 0 2).raiseIrq 8

end Sys2Proof.Machine
end

