-- ==== Sys2Proof/Machine/Fabric.lean ====
section
/-! DEFINITION. Bolsol (R337 to R364): messages and flits, link-level retry and credits, training, link-down, and the router. -/

namespace Sys2Proof.Machine

/-! ## Registers -/

/-- A register of the window of link die `d`. -/
def ldReg (d o : Nat) : Nat := 0x2000000 + 0x800000 * d + o
/-- A register of slip `n`. -/
def slipReg (n o : Nat) : Nat := ldReg (n / 8) (0x1000 + 0x100 * (n % 8) + o)
def fabId : Nat := 0x2000000
def fabCtl : Nat := 0x2000004
def fabTmo : Nat := 0x2000008
def fabUid : Nat := 0x2000010
def srBuf (d : Nat) : Nat := ldReg d 0x30
def srStat (d : Nat) : Nat := ldReg d 0x38

/-- FAB_Sn_STAT.STATE (Table 14-2). -/
def slipState (s : State) (n : Nat) : Nat := s.fld (slipReg n 4) 30 28
def setSlipState (s : State) (n v : Nat) : State := s.setFld (slipReg n 4) 30 28 v
/-- The slip is UP. -/
def slipUp (s : State) (n : Nat) : Bool := slipState s n == 5
/-- The device ID, and the TTL that requests and responses start with. -/
def ownId (s : State) : Nat := s.fld fabId 11 0
def startTtl (s : State) : Nat := max 1 (s.fld fabCtl 21 16)

def slipOf (s : State) (n : Nat) : Slip := SMap.get Slip.reset s.fabric.slips n
def setSlip (s : State) (n : Nat) (x : Slip) : State :=
  { s with fabric := { s.fabric with slips := SMap.set Slip.reset s.fabric.slips n x } }
def modSlip (s : State) (n : Nat) (f : Slip → Slip) : State := setSlip s n (f (slipOf s n))

/-! ## Messages (Tables 14-4, 14-10 and 15-2) -/

/-- A source-routed message. -/
def Msg.sourceRouted (m : Msg) : Bool := decide (9 ≤ m.op) && decide (m.op ≤ 0xD)
/-- A message of class response (Tables 14-5 and 15-3); an error response of a collective request is one. -/
def Msg.rsp (m : Msg) : Bool :=
  m.op == 2 || m.op == 4 || m.op == 7 || m.op == 0xA || m.op == 0xD || (m.op == 8 && (m.kind == 8 || m.err))

/-- The bytes of a message. -/
def Msg.bytes (m : Msg) : List Byte :=
  if m.sourceRouted then
    leBytes 2 (m.op * 4096 + m.src % 4096) ++ leBytes 8 m.path ++ leBytes 8 m.rpath ++ leBytes 8 m.ouid ++ leBytes 2 m.tag ++
      leBytes 4 m.off ++ resize 32 m.data
  else
    leBytes 2 (m.op * 4096 + m.src % 4096) ++ leBytes 1 m.rq ++
      leBytes 1 (m.pri % 2 * 128 + (if m.err then 64 else 0) + m.ecode % 64) ++ leBytes 2 m.tag ++ leBytes 2 m.dl ++ leBytes 2 m.len ++
      (if m.op = 8 then
        leBytes 1 m.gid ++ leBytes 1 (m.kind * 16) ++ leBytes 2 m.epoch ++ leBytes 2 m.step ++
          leBytes 1 (m.instr % 4 * 64 + m.xm % 4 * 16 + m.rop % 4 * 4) ++ leBytes 1 (m.et % 16) ++ leBytes 2 (m.frm % 4096) ++
          leBytes 2 m.cred ++ leBytes 2 (m.dest % 4096) ++ leBytes 8 m.off
      else
        leBytes 6 m.addr ++ leBytes 1 (m.aty % 16 * 16 + m.aop % 4 * 4) ++ leBytes 1 m.sess ++ leBytes 5 m.seq ++ leBytes 9 0) ++
      m.data

/-- The message that bytes spell, with the destination, channel and TTL that its flits carried. DESIGN CHOICE (log entry 145): a source-routed message, whose header has no
DL, has DL 0. -/
def Msg.ofBytes (b : List Byte) (dst vc ttl : Nat) : Msg :=
  let f (lo n : Nat) := leNat ((b.drop lo).take n)
  let op := f 0 2 / 4096
  if 9 ≤ op && op ≤ 0xD then
    { op := op, src := f 0 2 % 4096, dst := dst, vc := vc, ttl := ttl, path := f 2 8, rpath := f 10 8, ouid := f 18 8, tag := f 26 2,
      off := f 28 4, data := (b.drop 32).take 32 }
  else if op = 8 then
    { op := op, src := f 0 2 % 4096, dst := dst, vc := vc, ttl := ttl, rq := f 2 1, pri := bits (f 3 1) 7 7, err := bit (f 3 1) 6,
      ecode := bits (f 3 1) 5 0, tag := f 4 2, dl := f 6 2, len := f 8 2, gid := f 10 1, kind := bits (f 11 1) 7 4, epoch := f 12 2,
      step := f 14 2, instr := bits (f 16 1) 7 6, xm := bits (f 16 1) 5 4, rop := bits (f 16 1) 3 2, et := bits (f 17 1) 3 0,
      frm := bits (f 18 2) 11 0, cred := f 20 2, dest := bits (f 22 2) 11 0, off := f 24 8, data := b.drop 32 }
  else
    { op := op, src := f 0 2 % 4096, dst := dst, vc := vc, ttl := ttl, rq := f 2 1, pri := bits (f 3 1) 7 7, err := bit (f 3 1) 6,
      ecode := bits (f 3 1) 5 0, tag := f 4 2, dl := f 6 2, len := f 8 2, addr := f 10 6, aty := bits (f 16 1) 7 4,
      aop := bits (f 16 1) 3 2, sess := f 17 1, seq := f 18 5, data := b.drop 32 }

/-- The flits of a message (R341, R342), each with what `f` gives it beside its payload. -/
def cutFlits (f : Flit) : Nat → Bool → List Byte → List Flit
  | 0, _, _ => []
  | n + 1, head, b =>
    if b.length ≤ 240 then [{ f with head := head, tail := true, payload := b }]
    else { f with head := head, tail := false, payload := b.take 240 } :: cutFlits f n false (b.drop 240)

def Msg.flits (m : Msg) (source : Nat) : List Flit :=
  cutFlits { dst := m.dst, vc := m.vc, rsp := m.rsp, head := true, tail := true, ttl := m.ttl, payload := [], source := source, dl := m.dl, pri := m.pri } 19
    true m.bytes

/-! ## Flits on a slip (Table 14-3) -/

/-- CRC-32C, one bit and one byte at a time, on the reflected register. -/
def crcBit (c : Nat) : Nat := if c % 2 = 1 then (c / 2) ^^^ 0x82F63B78 else c / 2
def crcByte (c : Nat) (b : Byte) : Nat := (List.range 8).foldl (fun x _ => crcBit x) (c ^^^ b.toNat)
def crc32c (l : List Byte) : Nat := (l.foldl crcByte 0xFFFFFFFF) ^^^ 0xFFFFFFFF

/-- A link flit: its link header, its route header and its payload, with the CRC. -/
def flitBytes (link route : Nat) (payload : List Byte) : List Byte :=
  let b := leBytes 8 link ++ leBytes 4 route ++ resize 240 payload
  b ++ leBytes 4 (crc32c b)

/-- The ACK fields of a slip's link headers. -/
def ackBits (g : Slip) : Nat := if g.rxAny then (g.rxSeq + 4095) % 4096 * 2 ^ 36 + 2 ^ 35 else 0

/-- The route header of a DATA flit. -/
def flitRoute (f : Flit) : Nat :=
  f.dst % 4096 * 2 ^ 20 + f.vc % 4 * 2 ^ 18 + (if f.rsp then 2 ^ 17 else 0) + (if f.head then 2 ^ 16 else 0) +
    (if f.tail then 2 ^ 15 else 0) + f.ttl % 64 * 2 ^ 9 + f.payload.length % 512

/-- A flit leaves on slip `n`. -/
def emit (s : State) (n : Nat) (b : List Byte) : State := { s with fabric := { s.fabric with flits := s.fabric.flits ++ [(n, b)] } }

/-- A DATA flit leaves with its SEQ. -/
def emitData (s : State) (n seq : Nat) (f : Flit) : State :=
  emit s n (flitBytes (1 * 2 ^ 60 + seq % 4096 * 2 ^ 48 + ackBits (slipOf s n)) (flitRoute f) f.payload)

/-- A flit of another TYPE leaves; `credit` returns one credit of a channel and class. -/
def emitLink (s : State) (n type : Nat) (credit : Option (Nat × Bool)) (route : Nat) : State :=
  let c := match credit with
    | some (vc, rsp) => vc * 2 ^ 33 + (if rsp then 2 ^ 32 else 0) + 2 ^ 24
    | none => 0
  emit s n (flitBytes (type * 2 ^ 60 + ackBits (slipOf s n) + c) route [])


/-! ## The arbiter of an egress (R252 to R256, R349) -/

/-- The key of a channel and class. -/
def chan (vc : Nat) (rsp : Bool) : Nat := 2 * vc + (if rsp then 1 else 0)
/-- The buffers of Table 14-7, alike for both classes. -/
def vcBuffers (vc : Nat) : Nat := [16, 64, 128, 64].getD vc 0

/-- Credits go back to the partner of slip `n` for ingress buffers that have become free (R347); in LP, at the exit from it. -/
def freeBuffers (s : State) (n vc : Nat) (rsp : Bool) (k : Nat) : State :=
  if k = 0 then s
  else if slipUp s n then
    emit s n (flitBytes (2 * 2 ^ 60 + ackBits (slipOf s n) + vc % 4 * 2 ^ 33 + (if rsp then 2 ^ 32 else 0) + k % 256 * 2 ^ 24) 0 [])
  else if slipState s n = 7 then modSlip s n fun g => { g with owed := SMap.set zeroNat g.owed (chan vc rsp) (SMap.get zeroNat g.owed (chan vc rsp) + k) }
  else s

/-- A CUT of channel and class `k` leaves on slip `n` (R358); a slip in LP carries none, and is asked to exit for it (R360). -/
def sendCut (n : Nat) (s : State) (k : Nat) : State :=
  if slipUp s n then emitLink s n 6 none (k / 2 % 4 * 2 ^ 18 + k % 2 * 2 ^ 17)
  else if slipState s n = 7 then modSlip s n fun g => { g with cuts := g.cuts ++ [k], lpOut := true }
  else s

/-- The credits and the CUTs that a slip has owed in LP leave (R347, R358, R360). -/
def payOwed (s : State) (n : Nat) : State :=
  let g := slipOf s n
  g.cuts.foldl (sendCut n) (g.owed.foldl (fun t x => freeBuffers t n (x.1 / 2) (x.1 % 2 == 1) x.2) (modSlip s n fun h => { h with owed := [], cuts := [] }))

/-- FCLK since the last cold reset, 2,000 in a microsecond. -/
def fclk (s : State) : Nat := 2000 * s.us

/-- A flit takes its stamp as it enters an egress, with KMUL 512 (R253). -/
def stamped (s : State) (f : Flit) : Flit := { f with stamp := fclk s + if f.dl = 0xFFFF then 16383 else min (f.dl * 512 / 256) 16383 }

/-- The stamp lies more than 2^14 cycles back: the request saturates (R255). DESIGN CHOICE (log entry 144): stamps are not reduced modulo 2^16, so that a flit that
waits for longer than 2^15 cycles past its stamp stays saturated. -/
def saturated (now : Nat) (f : Flit) : Bool := decide (f.stamp + 2 ^ 14 < now)

/-- The deadline class under a class shift. -/
def deadlineClass (now q : Nat) (f : Flit) : Nat := (if saturated now f then now - 2 ^ 14 else f.stamp) / 2 ^ q

/-- The order among requesters that tie on key, PRI and saturation: rotating after the saturated requester granted last, and by index among the others. -/
def tieRank (now last : Nat) (f : Flit) : Nat := if saturated now f then (f.source + 13 - last) % 13 else f.source

/-- A flit in transit (Table 14-8). -/
def inTransit (f : Flit) : Bool := decide (f.source < 9)

/-- One request goes before another: by key and PRI; transit before local injection; then by saturation and rank (R255, R349). -/
def goesFirst (now q last : Nat) (x y : Flit) : Bool :=
  let k := deadlineClass now q x
  let j := deadlineClass now q y
  if k ≠ j then decide (k < j)
  else if x.pri ≠ y.pri then decide (y.pri < x.pri)
  else if inTransit x ≠ inTransit y then inTransit x
  else if saturated now x ≠ saturated now y then saturated now x
  else decide (tieRank now last x < tieRank now last y)

/-- The owner of a flit's message at the arbiter: its requester (Table 14-8). -/
def ownerOf (f : Flit) : Nat := 1 + f.source

/-- The stream that a flit's message belongs to, whose flits are in order: the ingress slip of transit, or the requester of this device, and the class. The other link die
is one requester with a stream for each of its slips. -/
def streamAt (holds : Option Nat) (source : Nat) (rsp : Bool) : Nat := 1 + 2 * (holds.getD (16 + source)) + if rsp then 1 else 0
def streamOf (f : Flit) : Nat := streamAt f.holds f.source f.rsp

/-- The oldest flit of each stream on a channel, if its class has a credit. -/
def headFlits (g : Slip) (vc : Nat) : List Flit :=
  ((g.out.filter fun f => f.vc == vc).foldl (fun (l : List Flit) f => if l.any fun x => streamOf x == streamOf f then l else l ++ [f]) []).filter fun f =>
    decide (SMap.get zeroNat g.used (chan vc f.rsp) < vcBuffers vc)

/-- The owner of a channel's grant has more queued, in either class. -/
def Slip.ownerQueued (g : Slip) (vc : Nat) : Bool := g.out.any fun f => f.vc == vc && ownerOf f == SMap.get zeroNat g.grant vc

/-- The grant of a channel ends where its owner has nothing more queued, outside a message (R256, R349). -/
def Slip.closeGrant (g : Slip) (vc : Nat) : Slip :=
  if SMap.get zeroNat g.mid vc = 0 && !g.ownerQueued vc then
    { g with grant := SMap.set zeroNat g.grant vc 0, beats := SMap.set zeroNat g.beats vc 0 }
  else g

/-- The winner of a decision. -/
def winner (now q last : Nat) : List Flit → Option Flit
  | [] => none
  | f :: t => match winner now q last t with
    | none => some f
    | some x => if goesFirst now q last x f then some x else some f

/-- Q and BURST of FAB_ARB on the slip's link die; Q above 8 acts as 8. -/
def arbShift (s : State) (n : Nat) : Nat := min 8 (s.fld (ldReg (n / 8) 0x18) 11 8)
def burstLimit (s : State) (n : Nat) : Nat := s.fld (ldReg (n / 8) 0x18) 5 0 + 1

/-- The flit that channel `vc` may send now: of the message half sent; else of the owner of the grant up to its burst limit, which keeps the path while its flits
lack a credit (R256); else the winner of a decision. DESIGN CHOICE (log entry 67): a decision is made among the requests that have a credit. Nothing leaves while 256
flits are unacknowledged (R344). -/
def maySend (s : State) (n vc : Nat) : Option Flit :=
  let g := slipOf s n
  let hs := headFlits g vc
  let pick (l : List Flit) := winner (fclk s) (arbShift s n) (SMap.get zeroNat g.sat vc) l
  if 256 ≤ g.retry.length then none
  else if SMap.get zeroNat g.mid vc ≠ 0 then hs.find? fun f => streamOf f == SMap.get zeroNat g.mid vc
  else if SMap.get zeroNat g.beats vc < burstLimit s n && g.ownerQueued vc then pick (hs.filter fun f => ownerOf f == SMap.get zeroNat g.grant vc)
  else pick hs

/-- Sends one flit: its channel's owner and beats follow, a flit that moves after its stamp is counted in FAB_LATE, and the ingress buffer that it held is free. -/
def sendFlit (s : State) (n : Nat) (f : Flit) : State :=
  let g := slipOf s n
  let k := chan f.vc f.rsp
  let o := ownerOf f
  let on := SMap.get zeroNat g.grant f.vc == o && (SMap.get zeroNat g.mid f.vc == streamOf f || decide (SMap.get zeroNat g.beats f.vc < burstLimit s n))
  let s1 := setSlip (emitData s n g.txSeq f) n (Slip.closeGrant
    { g with txSeq := (g.txSeq + 1) % 4096, out := g.out.erase f, retry := g.retry ++ [(g.txSeq, f)],
             used := SMap.set zeroNat g.used k (SMap.get zeroNat g.used k + 1), mid := SMap.set zeroNat g.mid f.vc (if f.tail then 0 else streamOf f),
             grant := SMap.set zeroNat g.grant f.vc o, beats := SMap.set zeroNat g.beats f.vc (if on then SMap.get zeroNat g.beats f.vc + 1 else 1),
             sat := if !on && saturated (fclk s) f then SMap.set zeroNat g.sat f.vc (f.source + 1) else g.sat } f.vc)
  let s2 := if f.stamp < fclk s then s1.count (ldReg (n / 8) 0x1C) 31 0 1 else s1
  match f.holds with
  | some i => freeBuffers s2 i f.vc f.rsp 1
  | none => s2

/-- A channel sends while its deficit is at least 1. -/
def spend (n vc : Nat) : Nat → State → State
  | 0, s => s
  | d + 1, s => match maySend s n vc with
    | some f => spend n vc d (sendFlit s n f)
    | none => s

/-- FAB_QUANT of a channel on the slip's link die. -/
def quantum (s : State) (n vc : Nat) : Nat := s.fld (ldReg (n / 8) 0xC) (8 * vc + 7) (8 * vc)

/-- The turn of a channel: its deficit grows by its quantum and is spent; a channel that cannot send keeps 0. -/
def turn (n : Nat) (s : State) (vc : Nat) : State :=
  let d := SMap.get zeroNat (slipOf s n).deficits vc + quantum s n vc
  if (maySend s n vc).isNone then modSlip s n fun g => { g with deficits := SMap.set zeroNat g.deficits vc 0 }
  else
    let before := (slipOf s n).txSeq
    let s1 := spend n vc d s
    let sent := ((slipOf s1 n).txSeq + 4096 - before) % 4096
    modSlip s1 n fun g => { g with deficits := SMap.set zeroNat g.deficits vc (if (maySend s1 n vc).isNone then 0 else d - sent) }

/-- Rounds of deficit round robin until nothing may be sent. -/
def pumpFuel (n : Nat) : Nat → State → State
  | 0, s => s
  | k + 1, s =>
    let live := [0, 1, 2, 3].filter fun vc => (maySend s n vc).isSome
    if live.isEmpty then s
    else if live.any fun vc => quantum s n vc != 0 then pumpFuel n k ([0, 1, 2, 3].foldl (turn n) s)
    else pumpFuel n k (spend n (live.headD 0) 1 s)

/-- A slip that is UP sends what it may. -/
def pump (s : State) (n : Nat) : State := if slipUp s n then pumpFuel n ((slipOf s n).out.length + 1) s else s

/-- Flits take their places at the egress of a slip; a slip in LP is asked to exit for them (R360). -/
def sendFlits (s : State) (n : Nat) (fs : List Flit) : State :=
  pump (modSlip s n fun g => { g with out := g.out ++ fs.map (stamped s), lpOut := g.lpOut || slipState s n == 7 }) n

/-- The requester index of a message of this device at the egress of slip `n` (Table 14-8): a collective engine through its own link die or the other one, the
compute die of an engine, or the hub, which also sends responses and source-routed messages (log 129). -/
def localIndex (s : State) (n : Nat) (m : Msg) : Nat :=
  if m.op = 8 then (if m.gid / 128 = n / 8 then 9 else 8)
  else if m.sourceRouted || m.rsp || 96 ≤ m.rq then 12
  else 10 + engDie s m.rq

/-- A message of this device takes its place at the egress of a slip. -/
def sendOn (s : State) (n : Nat) (m : Msg) : State := sendFlits s n (m.flits (localIndex s n m))

/-- The requester index of transit from slip `i` at the egress of slip `p`. -/
def transitIndex (i p : Nat) : Nat := if i / 8 = p / 8 then i % 8 else 8

/-- A flit from slip `i` goes on to slip `p` with its TTL lowered. -/
def forwardFlit (s : State) (i p : Nat) (f : Flit) : State :=
  sendFlits s p [{ f with ttl := f.ttl - 1, source := transitIndex i p, holds := some i }]

/-! ## Training (R338 to R340) -/

/-- A slip becomes FAILED with a reason, and TRAINFAIL is appended. -/
def slipFail (s : State) (n reason : Nat) : State :=
  let s1 := (setSlipState s n 6).setFld (slipReg n 4) 3 0 reason
  (modSlip s1 n fun g => { g with failUs := s.us, fast := false }).appendRecord 0x08 0x03 0 none none (16 * n + reason) 0

/-- A slip enters DETECT. -/
def slipDetect (s : State) (n : Nat) : State :=
  modSlip (setSlipState s n 1) n fun g => { g with detectUs := s.us, eqTries := 0, fast := false }

/-- SLIP_DETECT: every lane of a slip in DETECT sees signal. -/
def detected (s : State) (n : Nat) : State :=
  if slipState s n ≠ 1 || s.fld (slipReg n 0) 31 31 = 0 then s
  else if SMap.get zeroNat s.dcr.slips n ≠ 0 then modSlip (setSlipState s n 3) n fun g => { g with fast := true }
  else setSlipState s n 2

/-- DETECT_TIMEOUT. -/
def detectTimeout (s : State) (n : Nat) : State :=
  if slipState s n = 1 && (slipOf s n).detectUs + 1000 * max 1 (s.fld (slipReg n 0) 15 8) ≤ s.us then slipFail s n 1 else s

/-- FASTEQ_DONE. -/
def fastEqDone (s : State) (n : Nat) (ok : Bool) : State :=
  if slipState s n ≠ 3 then s
  else if ok then setSlipState s n 4
  else modSlip (setSlipState s n 2) n fun g => { g with fast := false }

/-- EQ_ATTEMPT_DONE: after three failures the slip is FAILED with EQFAIL. -/
def eqDone (s : State) (n : Nat) (ok : Bool) : State :=
  if slipState s n ≠ 2 then s
  else if ok then setSlipState s n 4
  else if 2 ≤ (slipOf s n).eqTries then slipFail s n 2
  else modSlip s n fun g => { g with eqTries := g.eqTries + 1 }

/-- The widest usable width and its first lane (R339). -/
def slipWidth (pass : Nat) : Option Nat :=
  [8, 4, 2, 1].find? fun w => (List.range (8 / w)).any fun k => (List.range w).all fun i => bit pass (w * k + i)

/-- SLIP_CONFIG: the lanes that pass at each end, the order found (0 straight, 1 reversed, 2 another), the lanes inverted, and who the partner
is: UID, slip, and VALID with its ID. -/
def slipConfig (s : State) (n mine theirs order inv uid pslip peer : Nat) : State :=
  if slipState s n ≠ 4 then s
  else
    let g := slipOf s n
    let pass := mine &&& theirs
    let who := 16 * uid + pslip + 1
    if order = 2 then slipFail s n 4
    else if g.fast && SMap.get zeroNat s.dcr.slips n ≠ who then modSlip (setSlipState s n 2) n fun h => { h with fast := false }
    else match slipWidth pass with
      | none => slipFail s n 3
      | some w =>
        if w < 2 ^ s.fld (slipReg n 0) 25 24 then slipFail s n 3
        else
          let code := if w = 8 then 3 else if w = 4 then 2 else if w = 2 then 1 else 0
          let st := 5 * 2 ^ 28 + code * 2 ^ 26 + (if order = 1 then 2 ^ 25 else 0) + (if g.fast then 2 ^ 24 else 0) + pass * 2 ^ 16 + inv * 2 ^ 8
          let s1 := ((s.setReg (slipReg n 4) st).setReg (slipReg n 8) (2 ^ 31 + pslip * 2 ^ 24 + peer % 2 ^ 13)).setReg64 (slipReg n 0x10) uid
          let s2 := setSlip s1 n { fast := g.fast }
          let s3 := if g.fast then s2 else { s2 with dcr := { s2.dcr with newSlips := SMap.set zeroNat s2.dcr.newSlips n who } }
          if w < 8 then s3.appendRecord 0x08 0x02 0 none none (16 * n + w) 0 else s3

/-- REDETECT_TIMER (R340). -/
def redetect (s : State) (n : Nat) : State :=
  let r := s.fld (slipReg n 0) 7 0
  if slipState s n = 6 && r ≠ 0 && (slipOf s n).failUs + 1000000 * r ≤ s.us then slipDetect s n else s

/-! ## Link-down (R358) -/

/-- The flits of a list up to the last TAIL, and those after it. -/
def splitTail (l : List Flit) : List Flit × List Flit :=
  let r := (l.reverse.span fun f => !f.tail)
  (r.2.reverse, r.1.reverse)

/-- The message that comes in on channel and class `k` of slip `n` and is forwarded to `p` ends there: what has not left is dropped, and a CUT flit ends what
has. -/
def endForward (s : State) (n k p : Nat) : State :=
  let g := slipOf s p
  let mine (f : Flit) : Bool := f.holds == some n && chan f.vc f.rsp == k
  let left := (splitTail (g.out.filter mine)).2
  let s1 := modSlip s p fun h => Slip.closeGrant
    { h with out := left.foldl (fun (l : List Flit) f => l.erase f) h.out,
             mid := if left.any (·.head) then h.mid else SMap.set zeroNat h.mid (k / 2) 0 } (k / 2)
  if left.any (·.head) then s1
  else sendCut p s1 k

/-- What came in on slip `n` and waits at the egress of slip `p` is discarded with its ingress buffers, and a message of it that is half sent there ends with CUT. -/
def endEgress (n : Nat) (s : State) (p : Nat) : State :=
  let half := (List.range 8).filter fun k => SMap.get zeroNat (slipOf s p).mid (k / 2) == streamAt (some n) 0 (k % 2 == 1)
  let s1 := modSlip s p fun h =>
    let h1 : Slip := { h with out := h.out.filter fun f => f.holds != some n, mid := half.foldl (fun m k => SMap.set zeroNat m (k / 2) 0) h.mid }
    [0, 1, 2, 3].foldl Slip.closeGrant h1
  half.foldl (sendCut p) s1

/-- Everything that came in on slip `n` ends: at an egress, at the router, and for this device. -/
def endIngress (s : State) (n : Nat) : State :=
  let s1 := ((List.range 16).filter (· != n)).foldl (endEgress n) s
  let f := s1.fabric
  { s1 with fabric := { f with routing := f.routing.filter fun x => x.slip != n, inbox := f.inbox.filter fun x => x.2 != n } }

/-- Messages that were being forwarded to a slip that is down are discarded as they go on coming. -/
def dropForward (s : State) (p : Nat) : State :=
  (List.range 16).foldl (fun t i => modSlip t i fun g => { g with parts := g.parts.map fun x => (x.1, if x.2.goes = .slip p then { goes := .drop } else x.2) }) s

/-- The flits that wait at the egress of a slip that goes down free the ingress buffers of other slips that they hold (R347). -/
def freeEgress (s : State) (n : Nat) : State :=
  (slipOf s n).out.foldl (fun t f => match f.holds with
    | some i => if i = n then t else freeBuffers t i f.vc f.rsp 1
    | none => t) s

/-- An UP or LP slip goes down. Causes: 1 signal, 2 retry limit, 3 RETRAIN, 4 partner, 5 power, 6 fatal, 7 disabled. With AUTO it returns to DETECT, but for one
that was disabled. -/
def linkDown (s : State) (n cause : Nat) : State :=
  if slipState s n ≠ 5 && slipState s n ≠ 7 then s
  else
    let s1 := setSlip (dropForward (freeEgress (endIngress (s.setFld (slipReg n 0) 28 28 0) n) n) n) n {}
    let s2 := (s1.appendRecord 0x08 0x01 0 none none (16 * n + cause) 0).count (slipReg n 0x1C) 31 16 1
    let s3 := setSlipState s2 n 0
    if cause = 3 || (cause != 7 && s.fld (slipReg n 0) 30 30 = 1) then slipDetect s3 n else s3

/-- RETRAIN: an UP or LP slip goes down; in any other state training starts again. No effect while EN is 0. -/
def retrain (s : State) (n : Nat) : State :=
  if s.fld (slipReg n 0) 31 31 = 0 then s
  else if slipState s n = 5 || slipState s n = 7 then linkDown s n 3
  else slipDetect s n

/-- A write of 0 to EN: an UP or LP slip goes down and stays; training or re-detection stops. -/
def disableSlip (s : State) (n : Nat) : State :=
  let s1 := if slipState s n = 5 || slipState s n = 7 then linkDown s n 7 else setSlipState s n 0
  s1.setFld (slipReg n 0) 31 31 0

/-- A write of 1 to EN of a disabled slip: it leaves DOWN for DETECT. -/
def enableSlip (s : State) (n : Nat) : State :=
  let s1 := s.setFld (slipReg n 0) 31 31 1
  if slipState s n = 0 && s.fld (slipReg n 0) 31 31 = 0 then slipDetect s1 n else s1

/-- WAKE_PATTERN_SEND: eight bursts on a slip that is not UP (R361). -/
def sendWake (s : State) (n : Nat) : State :=
  if slipUp s n then s else { s with fabric := { s.fabric with wakes := s.fabric.wakes ++ [n] } }

/-- A write of FAB_Sn_CTL. -/
def slipCtlWrite (s : State) (n v : Nat) : State :=
  let keep := putBits (v &&& 0x5B00FFFF) 31 31 (s.fld (slipReg n 0) 31 31) &&& 0xDB00FFFF
  let s1 := s.setReg (slipReg n 0) keep
  let s2 := if bit v 31 then enableSlip s1 n else disableSlip s1 n
  let s3 := if bit v 29 then retrain s2 n else s2
  if bit v 26 then sendWake s3 n else s3

/-! ## Receiving flits (R344, R345) -/

/-- What the CRC of a flit shows: right, its inverse, or neither. -/
inductive CrcKind where
  | good
  | inverted
  | bad
  deriving DecidableEq, Repr

def crcOf (b : List Byte) : CrcKind :=
  let c := crc32c (b.take 252)
  let x := leNat ((b.drop 252).take 4)
  if x = c then .good else if x = c ^^^ 0xFFFFFFFF then .inverted else .bad

/-- The link and route headers of a flit. -/
def linkWord (b : List Byte) : Nat := leNat (b.take 8)
def routeWord (b : List Byte) : Nat := leNat ((b.drop 8).take 4)
def flitType (b : List Byte) : Nat := bits (linkWord b) 63 60

/-- The DATA flits up to and with one that is acknowledged leave the retry buffer. -/
def ackTo (g : Slip) (seq : Nat) : Slip :=
  if g.retry.any fun p => p.1 == seq then
    let rest := (g.retry.dropWhile fun p => p.1 != seq).tail
    { g with retry := rest, resends := g.resends.filter fun x => rest.any fun p => p.1 == x.1 }
  else g

/-- The acknowledgement and the credits of a received flit. -/
def takeHeader (s : State) (n w : Nat) : State :=
  modSlip s n fun g =>
    let g1 := if bit w 35 && bits w 63 60 != 3 then ackTo g (bits w 47 36) else g
    let k := chan (bits w 34 33) (bit w 32)
    { g1 with used := SMap.set zeroNat g1.used k (SMap.get zeroNat g1.used k - bits w 31 24) }

/-- A NAK leaves: it carries the expected SEQ. -/
def sendNak (s : State) (n : Nat) : State :=
  let s1 := emit s n (flitBytes (3 * 2 ^ 60 + (slipOf s n).rxSeq % 4096 * 2 ^ 36 + 2 ^ 35) 0 [])
  (modSlip s1 n fun g => { g with awaiting := true }).count (slipReg n 0x18) 15 0 1

/-- The flit that the bytes of a DATA flit spell. -/
def dataOf (b : List Byte) : Flit :=
  let r := routeWord b
  { dst := bits r 31 20, vc := bits r 19 18, rsp := bit r 17, head := bit r 16, tail := bit r 15, ttl := bits r 14 9,
    payload := (b.drop 12).take (min 240 (bits r 8 0)) }

/-- The message that flits spell; it holds their ingress buffers. -/
def msgOf (fs : List Flit) : Msg :=
  let f := fs.headD { dst := 0, vc := 0, rsp := false, head := true, tail := true, ttl := 0, payload := [] }
  { Msg.ofBytes (fs.map (·.payload)).flatten f.dst f.vc f.ttl with held := fs.length }

/-- A message is delivered to this device. -/
def deliver (s : State) (m : Msg) (n : Nat) : State := { s with fabric := { s.fabric with inbox := s.fabric.inbox ++ [(m, n)] } }

/-- What comes in on a channel and class of a slip. -/
def ingressOf (s : State) (n : Nat) (f : Flit) : Ingress := SMap.get Ingress.reset (slipOf s n).parts (chan f.vc f.rsp)
def setIngress (s : State) (n : Nat) (f : Flit) (x : Ingress) : State :=
  modSlip s n fun g => { g with parts := SMap.set Ingress.reset g.parts (chan f.vc f.rsp) x }

/-- A HEAD flit: a source-routed message is for this device, and another one waits at the router. -/
def takeHead (s : State) (n : Nat) (f : Flit) : State :=
  let m := msgOf [f]
  if m.sourceRouted then
    (if f.tail then deliver (setIngress s n f {}) m n else setIngress s n f { goes := .here, flits := [f] })
  else
    let t := setIngress s n f (if f.tail then {} else { goes := .waiting, dl := m.dl, pri := m.pri })
    { t with fabric := { t.fabric with routing := t.fabric.routing ++ [{ msg := m, slip := n, flits := [f], whole := f.tail }] } }

/-- A flit joins the message from slip `n` that still comes in and waits at the router. -/
def joinTransit (n : Nat) (f : Flit) (x : Transit) : Transit :=
  if x.slip = n && !x.whole && x.msg.vc == f.vc && x.msg.rsp == f.rsp then { x with flits := x.flits ++ [f], whole := f.tail } else x

/-- A flit that is no HEAD follows its message. -/
def takeBody (s : State) (n : Nat) (f : Flit) : State :=
  let x := ingressOf s n f
  let ended (t : State) : State := if f.tail then setIngress t n f {} else t
  match x.goes with
  | .none => freeBuffers s n f.vc f.rsp 1
  | .waiting =>
    let g := s.fabric
    ended { s with fabric := { g with routing := g.routing.map (joinTransit n f) } }
  | .here =>
    if f.tail then deliver (ended s) (msgOf (x.flits ++ [f])) n else setIngress s n f { x with flits := x.flits ++ [f] }
  | .slip p => ended (forwardFlit s n p { f with dl := x.dl, pri := x.pri })
  | .drop => ended (freeBuffers s n f.vc f.rsp 1)

/-- A DATA flit that is the expected one is acknowledged and joins the message of its channel and class. -/
def acceptFlit (s : State) (n : Nat) (b : List Byte) : State :=
  let f := dataOf b
  let s1 := emitLink (modSlip s n fun g => { g with rxSeq := (g.rxSeq + 1) % 4096, rxAny := true, awaiting := false }) n 2 none 0
  if f.head then takeHead s1 n f else takeBody s1 n f

/-- FAB_Sn_STAT.WIDTH. -/
def widthOf (s : State) (n : Nat) : Nat := s.fld (slipReg n 4) 27 26

/-- The expected flit fails its CRC on a slip below x8 while its message is cut through: the egress may have begun to forward it, which is free, and completes it with
its CRC inverted under a SEQ that it uses again (R345, R354). -/
def passBad (s : State) (n : Nat) (b : List Byte) : State :=
  let f := dataOf b
  match (ingressOf s n f).goes with
  | .slip p =>
    let g := slipOf s p
    if f.head || widthOf s n = 3 || widthOf s n < widthOf s p || !slipUp s p || !g.out.isEmpty || 256 ≤ g.retry.length ||
        SMap.get zeroNat g.mid f.vc ≠ streamAt (some n) 0 f.rsp || vcBuffers f.vc ≤ SMap.get zeroNat g.used (chan f.vc f.rsp) then s
    else
      let x := s.draw
      if x.2 % 2 = 0 then x.1
      else
        let c := flitBytes (1 * 2 ^ 60 + g.txSeq % 4096 * 2 ^ 48 + ackBits g) (flitRoute { f with ttl := f.ttl - 1 }) f.payload
        emit x.1 p (c.take 252 ++ (c.drop 252).map fun y => ~~~y)
  | _ => s

/-- DATA_FLIT_RECEIVE: in SEQ order it is accepted; otherwise the receiver sends one NAK and discards until the expected flit comes. -/
def dataFlit (s : State) (n : Nat) (b : List Byte) : State :=
  if !slipUp s n then s
  else
    let seq := bits (linkWord b) 59 48
    match crcOf b with
    | .inverted => s
    | .bad =>
      let g := slipOf s n
      let s0 := s.count (slipReg n 0x18) 31 16 1
      let s1 := if flitType b = 1 && !g.awaiting && seq = g.rxSeq then passBad s0 n b else s0
      if flitType b = 1 && (!g.awaiting || seq = g.rxSeq) then sendNak s1 n else s1
    | .good =>
      let t := flitType b
      if t = 0 || 6 < t then s.count (slipReg n 0x18) 31 16 1
      else if t ≠ 1 then s
      else
        let s1 := takeHeader s n (linkWord b)
        let g := slipOf s1 n
        if seq = g.rxSeq then pump (acceptFlit s1 n b) n
        else if g.awaiting then pump s1 n
        else pump (sendNak s1 n) n

/-- A flit of the other types arrives on a slip that carries flits: its CRC, acknowledgement and credits, then what its TYPE does. -/
def linkFlit (s : State) (n type : Nat) (b : List Byte) (go : State → State) : State :=
  if !slipUp s n then s
  else match crcOf b with
    | .inverted => s
    | .bad => s.count (slipReg n 0x18) 31 16 1
    | .good => if flitType b = type then pump (go (takeHeader s n (linkWord b))) n else s

/-- IDLE_FLIT_RECEIVE: only its acknowledgement and credits. -/
def idleFlit (s : State) (n : Nat) (b : List Byte) : State := linkFlit s n 2 b id

/-- How often each of the flits that are sent again has been sent again in a row. -/
def sentAgain (g : Slip) (rest : List (Nat × Flit)) : SMap Nat :=
  rest.foldl (fun m p => SMap.set zeroNat m p.1 (SMap.get zeroNat g.resends p.1 + 1)) []

/-- A NAK: what stands before the expected SEQ is acknowledged, the rest is sent again in order; where a SEQ of it is at the retry limit the slip goes down (R344). -/
def nakFlit (s : State) (n : Nat) (b : List Byte) : State :=
  linkFlit s n 3 b fun t =>
    let seq := bits (linkWord b) 47 36
    let g := slipOf t n
    let rest := g.retry.dropWhile fun p => p.1 != seq
    if rest.isEmpty then (if g.txSeq = seq then setSlip t n { g with retry := [], resends := [] } else t)
    else if rest.any fun p => decide (max 1 (t.fld (slipReg n 0x20) 7 0) ≤ SMap.get zeroNat g.resends p.1) then linkDown t n 2
    else rest.foldl (fun z p => emitData z n p.1 p.2) (setSlip t n { g with retry := rest, resends := sentAgain g rest })

/-- A CUT: the partial message of its channel is discarded, and CUT goes on where it was being forwarded (R358). -/
def cutFlit (s : State) (n : Nat) (b : List Byte) : State :=
  linkFlit s n 6 b fun t =>
    let f := dataOf b
    let x := ingressOf t n f
    let k := chan f.vc f.rsp
    let held := match x.goes with
      | .waiting => ((t.fabric.routing.find? fun y => y.slip == n && !y.whole && y.msg.vc == f.vc && y.msg.rsp == f.rsp).map (·.flits.length)).getD 0
      | .here => x.flits.length
      | .slip p => (splitTail ((slipOf t p).out.filter fun y => y.holds == some n && chan y.vc y.rsp == k)).2.length
      | _ => 0
    let t1 := match x.goes with
      | .slip p => endForward t n k p
      | _ => t
    let t2 := { t1 with fabric := { t1.fabric with
      routing := t1.fabric.routing.filter fun y => !(y.slip == n && !y.whole && y.msg.vc == f.vc && y.msg.rsp == f.rsp) } }
    if x.goes = .none then t
    else (freeBuffers (setIngress t2 n f {}) n f.vc f.rsp held).count (slipReg n 0x1C) 15 0 1

/-- A slip enters LP; it is asked to exit at once for flits that wait at its egress (R360). -/
def toLp (s : State) (n : Nat) : State := modSlip (setSlipState s n 7) n fun g => { g with lpWait := false, lpOut := !g.out.isEmpty }

/-- LPREQ: the slip answers LPACK and enters LP (R360). -/
def lpReq (s : State) (n : Nat) (b : List Byte) : State :=
  linkFlit s n 4 b fun t => toLp (emitLink t n 5 none 0) n

/-- LPACK: the slip that asked enters LP. -/
def lpAck (s : State) (n : Nat) (b : List Byte) : State :=
  linkFlit s n 5 b fun t =>
    if (slipOf t n).lpWait then toLp t n else t

/-- The slips exchange LPREQ when the device enters P2. -/
def lpEnter (s : State) : State :=
  (List.range 16).foldl (fun t n => if slipUp t n then modSlip (emitLink t n 4 none 0) n fun g => { g with lpWait := true } else t) s

/-! ## The router (R350 to R353) -/

/-- The operation of the response to a request (Table 14-5). -/
def rspOp (op : Nat) : Nat := if op = 1 then 2 else if op = 6 then 7 else if op = 8 then 8 else 4

/-- The response to a request: to its SRC, with RQ and TAG copied. -/
def respond (s : State) (m : Msg) (data : List Byte) : Msg :=
  { op := rspOp m.op, src := ownId s, dst := m.src, rq := m.rq, pri := m.pri, tag := m.tag, dl := m.dl, len := data.length, vc := m.vc,
    ttl := startTtl s, data := data }

/-- The error response to a request. -/
def errorRsp (s : State) (m : Msg) (code : Nat) : Msg :=
  { respond s m [] with err := true, ecode := code, gid := m.gid, kind := m.kind, epoch := m.epoch, step := m.step }

/-- A message of this device goes to the router. -/
def originate (s : State) (m : Msg) : State := { s with fabric := { s.fabric with routing := s.fabric.routing ++ [{ msg := m }] } }

/-- An error response to a message that came from slip `n`; one to a requester of this device (16) needs no routing. -/
def answerError (s : State) (m : Msg) (n code : Nat) : State :=
  if n = 16 then deliver s (errorRsp s m code) 16 else originate s (errorRsp s m code)

/-- The link die of a message that came on slip `n`; what this device originates belongs to LD0. -/
def dieOf (n : Nat) : Nat := if n < 16 then n / 8 else 0

/-- A message is discarded by link die `d`: counted, and for a request recorded at most once a millisecond (R352, R362). -/
def noteDiscard (s : State) (m : Msg) (d code : Nat) : State :=
  let s1 := if code = 2 then s.count (ldReg d 0x20) 31 16 1 else s.count (ldReg d 0x20) 15 0 1
  if m.rsp then s1
  else
    let quietUntil := SMap.get (fun _ => none) s.fabric.discardUs d
    if (match quietUntil with
        | some u => decide (s.us < u + 1000)
        | none => false) then s1
    else { s1.appendRecord 0x08 0x04 0 none none (m.dst * 2 ^ 16 + code) 0 with
      fabric := { s1.fabric with discardUs := SMap.set (fun _ => none) s1.fabric.discardUs d (some s.us) } }

/-- A message is discarded, and a request is answered with an error (R352). -/
def discard (s : State) (m : Msg) (n code : Nat) : State :=
  let s1 := noteDiscard s m (dieOf n) code
  if m.rsp then s1 else answerError s1 m n code

/-- The route entry of a destination in the table of a link die: V and SLIPS. -/
def routeEntry (s : State) (d dst : Nat) : Nat := s.reg (ldReg d (0x10000 + 4 * dst))

/-- The slips of a state whose ROUTE is 1. -/
def routeMask (s : State) (state : Nat) : Nat :=
  ((List.range 16).map fun n => if slipState s n = state && s.fld (slipReg n 0) 28 28 = 1 then 2 ^ n else 0).foldl (· + ·) 0

/-- The egress slip of R351 among a usable mask. -/
def pickSlip (m : Msg) (slips usable : Nat) : Option Nat :=
  let h := m.src ^^^ (m.rq * 16) ^^^ m.dst
  let u := slips &&& usable
  if popcount slips = 0 || popcount u = 0 then none
  else
    let p := nthSet slips (h % popcount slips)
    some (if bit usable p then p else nthSet u (h % popcount u))

/-- A message that has been routed goes where it goes: what of it still comes in follows. -/
def settleTransit (s : State) (x : Transit) (goes : Onward) : State :=
  if x.whole then s
  else
    let f := x.flits.headD { dst := 0, vc := 0, rsp := false, head := true, tail := true, ttl := 0, payload := [] }
    setIngress s x.slip f { goes := goes, flits := if goes = .here then x.flits else [], dl := x.msg.dl, pri := x.msg.pri }

/-- A message of this device, or the flits of one in transit, leave on slip `p`. -/
def routeOut (s : State) (x : Transit) (p : Nat) : State :=
  if x.slip = 16 then sendOn s p { x.msg with ttl := x.msg.ttl - 1 }
  else settleTransit (x.flits.foldl (fun t f => forwardFlit t x.slip p { f with dl := x.msg.dl, pri := x.msg.pri }) s) x (.slip p)

/-- A message for this device, once it has come in whole. -/
def routeHere (s : State) (x : Transit) : State :=
  if x.slip = 16 then deliver s x.msg 16
  else if x.whole then deliver s (msgOf x.flits) x.slip
  else settleTransit s x .here

/-- What there is of a message is discarded, and so is what still comes. -/
def routeAway (s : State) (x : Transit) : State := settleTransit (freeBuffers s x.slip x.msg.vc x.msg.rsp x.flits.length) x .drop

/-- The router's choice for the message whose HEAD is next, with the route entry as it stands now (R350 to R353). One that only slips in LP could carry waits at such
a slip's egress and starts its exit (R360). -/
def route (s : State) (x : Transit) : State :=
  let m := x.msg
  let n := x.slip
  if s.fld fabId 31 31 = 0 then discard (routeAway s x) m n 1
  else if m.dst = ownId s then
    if s.fld fabCtl 30 30 = 1 || m.vc = 0 then routeHere s x
    else if m.rsp then routeAway s x
    else answerError (routeAway s x) m n 5
  else
    let e := routeEntry s (dieOf n) m.dst
    if !bit e 31 then discard (routeAway s x) m n 1
    else match pickSlip m (bits e 15 0) (routeMask s 5) with
      | some p => if m.ttl = 0 then discard (routeAway s x) m n 2 else routeOut s x p
      | none => match pickSlip m (bits e 15 0) (routeMask s 7) with
        | some p => if m.ttl = 0 then discard (routeAway s x) m n 2 else routeOut s x p
        | none => discard (routeAway s x) m n 1

/-- ROUTE_MESSAGE: the message that is next at the router. -/
def routeNext (s : State) : State :=
  match s.fabric.routing with
  | [] => s
  | x :: t => route { s with fabric := { s.fabric with routing := t } } x

end Sys2Proof.Machine
end

