-- ==== Sys2Proof/Machine/Remote.lean ====
section
/-! DEFINITION. Remote requests at their destination (R32, R261, R342), responses at their requester (R343, R359), and neighbour fetch (R292, R293). -/

namespace Sys2Proof.Machine

/-! ## The inbox -/

/-- Splits a list at the first element that passes a test. -/
def splitFirst {α : Type} (p : α → Bool) : List α → Option (List α × α × List α)
  | [] => none
  | x :: t => if p x then some ([], x, t) else (splitFirst p t).map fun r => (x :: r.1, r.2)

/-- The first delivered message that passes a test, with the slip it came from, and the state without it. A message of another kind that came before
it from the same device on the same channel goes first (R22, R346). -/
def takeInbox (s : State) (p : Msg → Bool) : Option (Msg × Nat × State) :=
  match splitFirst (fun x => p x.1) s.fabric.inbox with
  | none => none
  | some (before, (m, n), after) =>
    if before.any fun x => x.1.src == m.src && x.1.vc == m.vc && x.1.rsp == m.rsp then none
    else some (m, n, { s with fabric := { s.fabric with inbox := before ++ after } })

/-- Handles the next delivered message that passes a test; the ingress buffers that it held are free (R347). Nothing is handled after containment (R333). -/
def onInbox (s : State) (p : Msg → Bool) (go : State → Msg → Nat → State) : State :=
  if s.fatal then s
  else match takeInbox s p with
    | none => s
    | some (m, n, t) => go (freeBuffers t n m.vc m.rsp m.held) m n

/-- A delivered request for this device's memory: it waits while HBM is off, and in a compute-only reset it is refused (R363, R404, R425). -/
def onRequest (s : State) (p : Msg → Bool) (go : State → Msg → Nat → State) : State :=
  if memDown s && !s.compReset then s else onInbox s p go

/-! ## Serving requests -/

/-- The error code of an access that failed (Table 14-6). -/
def endEcode : MemEnd → Nat
  | .ecc => 4
  | _ => 3

/-- RD: a read of HBM or a Landing. -/
def serveRd (s : State) (m : Msg) (_n : Nat) : State :=
  if s.compReset then originate s (errorRsp s m 7)
  else
    let x := memRead s .remote m.addr m.len
    originate x.1 (if x.2.1 = .ok then respond x.1 m x.2.2 else errorRsp x.1 m (endEcode x.2.1))

/-- WR: a write of HBM or a Landing, acknowledged once accepted. -/
def serveWr (s : State) (m : Msg) (_n : Nat) : State :=
  if s.compReset then originate s (errorRsp s m 7)
  else
    let x := memWrite s .remote m.addr (m.data.take m.len)
    originate x.1 (if x.2 = .ok then respond x.1 m [] else errorRsp x.1 m (endEcode x.2))

/-- ADDW: elements for the adders; one for a poisoned line is dropped with its record, and the descriptor is acknowledged. -/
def serveAddw (s : State) (m : Msg) (_n : Nat) : State :=
  if s.compReset then originate s (errorRsp s m 7)
  else
    let w := elemSize m.aty
    if 4 ≤ m.aty || 3 ≤ m.aop || m.addr % w ≠ 0 || m.len % w ≠ 0 || !allHbm s m.addr m.len then originate s (errorRsp s m 3)
    else originate (addElements s m.aty m.aop m.addr (m.len / w) m.data) (respond s m [])

/-- ATOM: one element, whose old value returns. -/
def serveAtom (s : State) (m : Msg) (_n : Nat) : State :=
  if s.compReset then originate s (errorRsp s m 7)
  else
    let w := elemSize m.aty
    if 4 ≤ m.aty || 3 ≤ m.aop || m.addr % w ≠ 0 || m.len ≠ w then originate s (errorRsp s m 3)
    else
      let x := adderOp s 0x01 m.addr m.aty m.aop (leNat (m.data.take w))
      originate x.1 (if x.2.1 = .ok then respond x.1 m (leBytes w x.2.2) else errorRsp x.1 m (endEcode x.2.1))

/-! ## Responses -/

/-- A stale response is discarded and counted (R359). -/
def stale (s : State) (n : Nat) : State := s.count (ldReg (dieOf n) 0x24) 15 0 1

/-- A response meets the outstanding request with its requester and TAG. -/
def matches' (m : Msg) (q : RemoteReq) : Bool := q.tag == m.tag && q.rq == m.rq && q.status == 0 && q.msg.isNone

/-- Changes the outstanding requests that a test selects. -/
def modReqs (s : State) (p : RemoteReq → Bool) (f : RemoteReq → RemoteReq) : State :=
  { s with fabric := { s.fabric with reqs := s.fabric.reqs.map fun q => if p q then f q else q } }

/-- RDRSP, WRACK and ATOMRSP: the request is answered, or ended with error (R343). -/
def takeRsp (s : State) (m : Msg) (n : Nat) : State :=
  if s.fabric.reqs.any (matches' m) then
    tagsFree (modReqs s (matches' m) fun q => if m.err then { q with status := 2, ecode := m.ecode }
      else { q with status := 1, data := m.data.take q.len }) m.rq
  else stale s n

/-- A request without a response for FAB_TMO.US µs ends with error (R359). -/
def reqExpired (s : State) (q : RemoteReq) : Bool := q.status == 0 && q.msg.isNone && decide (q.us + max 1 (s.fld fabTmo 19 0) ≤ s.us)

/-! ## Neighbour fetch -/

/-- The IV of a sealed response. -/
def nfIv (session seq : Nat) : Nat := session * 2 ^ 88 + seq * 2 ^ 48

/-- Session `k` is established. -/
def sessValid (s : State) (k : Nat) : Bool := decide (k < 16) && s.fld (sess k) 31 31 == 1

/-- NFETCH_REQUEST_SERVE: the session is checked, the memory read, and the response sealed at the egress. Its tag follows the ciphertext. -/
def serveNfetch (s : State) (m : Msg) (_n : Nat) : State :=
  let seq := SMap.get zeroNat s.flash.sessSeq m.sess
  if s.compReset then originate s (errorRsp s m 7)
  else if !sessValid s m.sess || s.fld (sess m.sess) 11 0 ≠ m.src || 2 ^ 40 ≤ seq then originate s (errorRsp s m 6)
  else
    let x := memRead s .remote m.addr m.len
    if x.2.1 ≠ .ok then originate x.1 (errorRsp x.1 m (endEcode x.2.1))
    else
      let y := gcmSeal (SMap.get noBytes x.1.flash.sessKeys m.sess) (nfIv m.sess seq) [] x.2.2
      let s1 := { x.1 with flash := { x.1.flash with sessSeq := SMap.set zeroNat x.1.flash.sessSeq m.sess (seq + 1) } }
      originate s1 { respond s1 m (y.1 ++ y.2) with len := m.len, sess := m.sess, seq := seq }

/-- NFETCH_RESPONSE: a matched response is opened on entry and its plaintext written in ascending order; an unmatched one is discarded. -/
def takeNfetch (s : State) (m : Msg) (n : Nat) : State :=
  match s.fabric.reqs.find? (matches' m) with
  | none => stale s n
  | some q =>
    match s.flash.cmds.find? fun c => c.index == q.id && c.op == 5 with
    | none => stale s n
    | some c =>
      let s1 :=
        if m.err then modReqs s (matches' m) fun r => { r with status := 2, ecode := m.ecode }
        else if !sessValid s (c.f 4 7 0) then modReqs s (matches' m) fun r => { r with status := 2, ecode := 6 }
        else match (if m.sess = c.f 4 7 0 then
            gcmOpen (SMap.get noBytes s.flash.sessKeys m.sess) (nfIv m.sess m.seq) [] (m.data.take 4096) ((m.data.drop 4096).take 16)
            else none) with
          | none => modReqs s (matches' m) fun r => { r with status := 2, ecode := 0x41 }
          | some pt => modReqs s (matches' m) fun r => { r with status := 1, data := pt }
      tagsFree (nfRelease c (nfReqs s1 c) s1) nfRq

end Sys2Proof.Machine
end

