-- ==== Sys2Proof/Machine/Coll.lean ====
section
/-! DEFINITION. The collective engines (R365 to R391): steps, their messages, credits and staging, the fold in rank order, failure and timeout, and
the group entries. -/

namespace Sys2Proof.Machine

/-! ## Registers -/

/-- A register of group entry `g`. -/
def colReg (g o : Nat) : Nat := ldReg (g / 128) (0x21000 + 0x20 * (g % 128) + o)
def colCtl : Nat := 0x2020000
def colStat (d : Nat) : Nat := ldReg d 0x20004
def colStale (d : Nat) : Nat := ldReg d 0x20008
def colDone (d : Nat) : Nat := ldReg d 0x2000C
def colFail (d : Nat) : Nat := ldReg d 0x20010

/-- Fields of a group entry. -/
def grpValid (s : State) (g : Nat) : Bool := s.fld64 (colReg g 0) 63 63 == 1
def grpRing (s : State) (g : Nat) : Bool := s.fld64 (colReg g 0) 62 62 == 1
def grpEpoch (s : State) (g : Nat) : Nat := s.fld64 (colReg g 0) 47 32
def grpTmo (s : State) (g : Nat) : Nat := min 10000 (max 1 (s.fld64 (colReg g 0) 29 16))
def grpRank (s : State) (g : Nat) : Nat := s.fld64 (colReg g 0) 11 0
def grpSize (s : State) (g : Nat) : Nat := s.fld64 (colReg g 8) 59 48 + 1
def grpList (s : State) (g : Nat) : Nat := s.fld64 (colReg g 8) 47 6 * 64
def grpStep (s : State) (g : Nat) : Nat := s.fld (colReg g 0x14) 15 0

/-- The link die of a step. -/
def CStep.die (x : CStep) : Nat := x.gid / 128
/-- The members of its group. -/
def CStep.size (x : CStep) : Nat := x.members.length

/-- The steps in progress of a group; there is at most one. -/
def stepOf (s : State) (g : Nat) : Option CStep := s.coll.steps.find? fun x => x.gid == g
def setStep (s : State) (x : CStep) : State :=
  { s with coll := { s.coll with steps := s.coll.steps.map fun y => if y.gid = x.gid then x else y } }

/-- The group of a collective instruction. -/
def collGid : Instr → Nat
  | .xch _ _ w2 | .xredAllReduce _ _ w2 | .xredReduceScatter _ _ w2 | .xgather _ _ w2 => bits w2.toNat 47 40
  | _ => 0

/-- The descriptor with an identifier in an engine's spill queue. -/
def spillEntry (s : State) (e id : Nat) : Option SkEntry := (s.eng e).spillQ.find? fun x => x.id == id

/-- A collective engine at work for a descriptor of engine `e`, in a context: where its failure traps, that trap alone is recorded (R329, R377). -/
def collReq (s : State) (e id c : Nat) : Requester := .coll ((spillEntry s e id).isSome && decide (s.ctxState c ≠ 6))
def CStep.req (x : CStep) (s : State) : Requester := collReq s x.eng x.id x.ctx

/-- The link die at which a descriptor waits. -/
def waitDie (s : State) (w : Nat × Nat) : Nat := match spillEntry s w.1 w.2 with
  | some x => collGid x.instr / 128
  | none => 0

/-- COL_STAT.STEPS: steps in progress or waiting at an engine. -/
def showSteps (s : State) : State :=
  [0, 1].foldl (fun t d => t.setFld (colStat d) 19 16
    ((s.coll.steps.filter fun x => x.die == d).length + (s.coll.waiting.filter fun w => waitDie s w == d).length)) s

/-! ## Ranges (R128, R371) -/

/-- Bytes that a step writes at this member. -/
def CStep.need (x : CStep) : Nat := if x.instr = 1 then x.len else x.size * x.len

/-- Segment `j` of a range of `len` bytes divided among `n` members, as first byte and bytes. -/
def segment (len n j : Nat) : Nat × Nat :=
  let k := len / 64
  (64 * (j * k / n), 64 * ((j + 1) * k / n) - 64 * (j * k / n))

/-- The pieces of at most 4,096 bytes of a range, as offset and bytes. -/
def pieces (off len : Nat) : List (Nat × Nat) :=
  (List.range ((len + 4095) / 4096)).map fun i => (off + 4096 * i, min 4096 (len - 4096 * i))

/-- Messages of one KIND for the pieces of a range whose bytes stand at an address. -/
def sendsOf (peer kind who off addr len : Nat) : List CSend :=
  (pieces 0 len).map fun p => { peer := peer, kind := kind, dest := who, off := off + p.1, len := p.2, addr := some (addr + p.1) }

/-- The ranks but this member's. -/
def CStep.others (x : CStep) : List Nat := (List.range x.size).filter (· != x.rank)
def CStep.next (x : CStep) : Nat := (x.rank + 1) % x.size
def CStep.prev (x : CStep) : Nat := (x.rank + x.size - 1) % x.size

/-- The ranks from which it receives data. -/
def CStep.senders (x : CStep) : List Nat := if x.size = 1 then [] else if x.ring then [x.prev] else x.others
/-- The ranks to which it sends data, whose READY it awaits. -/
def CStep.receivers (x : CStep) : List Nat := if x.size = 1 then [] else if x.ring then [x.next] else x.others

/-- Bytes that come from rank `j` in the step: final values and blocks for this member's destination, and bytes to stage. -/
def CStep.incoming (x : CStep) (j : Nat) : Nat × Nat :=
  let n := x.size
  let r := x.rank
  if !x.ring then
    if x.instr ≠ 1 then (x.len, 0)
    else if x.xm = 1 then (0, x.len)
    else ((segment x.len n j).2, (segment x.len n r).2)
  else if x.instr = 0 then ((n - 1) * x.len, x.len * (n * (n - 1) / 2) - (n - 1) * x.len)
  else if x.instr = 2 then ((n - 1) * x.len, 0)
  else if x.xm = 1 then
    (if r = n - 1 then 0 else x.len, (if r = 0 then 0 else n * x.len) + (n - 2 - r) * x.len)
  else (if r = n - 1 then 0 else x.len, if r = 0 then 0 else x.len)

/-- Messages that a range of `len` bytes takes; each one uses a chunk of staging and a credit. -/
def chunks (len : Nat) : Nat := (len + 4095) / 4096

/-- Messages of the segments of a range that is divided among the members. -/
def CStep.segChunks (x : CStep) : Nat := ((List.range x.size).map fun j => chunks (segment x.len x.size j).2).foldl (· + ·) 0

/-- Messages that come from rank `j` in the step, as `incoming` counts bytes. -/
def CStep.messages (x : CStep) (j : Nat) : Nat × Nat :=
  let n := x.size
  let r := x.rank
  let p := chunks x.len
  if !x.ring then
    if x.instr ≠ 1 then (p, 0)
    else if x.xm = 1 then (0, p)
    else (chunks (segment x.len n j).2, chunks (segment x.len n r).2)
  else if x.instr = 0 then ((n - 1) * p, p * (n * (n - 1) / 2) - (n - 1) * p)
  else if x.instr = 2 then ((n - 1) * p, 0)
  else if x.xm = 1 then
    (if r = n - 1 then 0 else p, (if r = 0 then 0 else n * p) + (n - 2 - r) * p)
  else (if r = n - 1 then 0 else x.segChunks, if r = 0 then 0 else x.segChunks)

/-- What this member has to send of its own (Table 15-1). -/
def CStep.ownSends (x : CStep) : List CSend :=
  let n := x.size
  let r := x.rank
  if n = 1 then []
  else if !x.ring then
    (x.others.map fun j =>
      if x.instr = 0 then sendsOf j 2 j (r * x.len) (x.src + j * x.len) x.len
      else if x.instr = 2 then sendsOf j 2 j (r * x.len) x.src x.len
      else if x.xm = 1 then sendsOf j 3 j 0 (x.src + j * x.len) x.len
      else sendsOf j 3 j (segment x.len n j).1 (x.src + (segment x.len n j).1) (segment x.len n j).2).flatten
  else if x.instr = 0 then (x.others.map fun j => sendsOf x.next 2 j (r * x.len) (x.src + j * x.len) x.len).flatten
  else if x.instr = 2 then sendsOf x.next 2 x.next (r * x.len) x.src x.len
  else if r ≠ 0 then []
  else if x.xm = 1 then ((List.range n).map fun j => sendsOf 1 3 j 0 (x.src + j * x.len) x.len).flatten
  else ((List.range n).map fun j =>
    sendsOf 1 3 (n - 1) (segment x.len n j).1 (x.src + (segment x.len n j).1) (segment x.len n j).2).flatten

/-! ## Sending -/

/-- Sends one collective message and starts its timer (R372, R373). -/
def collSend (s : State) (x : CStep) (peer kind who off cred : Nat) (data : List Byte) : State :=
  let rq := 0x60 + x.die
  let m : Msg := { op := 8, src := ownId s, dst := x.members.getD peer 0, rq := rq, dl := x.dl, len := data.length, vc := 1,
                   ttl := startTtl s, gid := x.gid, kind := kind, epoch := x.epoch, step := x.step, instr := x.instr, xm := x.xm,
                   rop := x.rop, et := x.et, frm := x.rank, cred := cred, dest := who, off := off, data := data }
  startRequest s m { tag := 0, rq := rq, id := x.id, op := 8, addr := 0, pos := 0, len := 0, us := s.us }

/-- The AUX of a collective trap record (Table 15-5). -/
def collAux (reason gid epoch step missr : Nat) : Nat := reason * 2 ^ 61 + gid * 2 ^ 48 + epoch * 2 ^ 32 + step * 2 ^ 16 + missr

/-- Bytes that a failed step leaves undefined take free values (R377). DESIGN CHOICE (log entry 143): they count as stores to the lines that walks pin. -/
def undefine (s : State) (a n : Nat) : State :=
  let k := s.free
  noteStore ((List.range n).foldl (fun t i => match place t (a + i) with
    | .hbm p => putPlace t (.hbm p) (BitVec.ofNat 8 (Config.freeNat (k + i)))
    | .landing p => putPlace t (.landing p) (BitVec.ofNat 8 (Config.freeNat (k + i)))
    | _ => t) { s with free := k + n }) a n

/-- What a failure records in the group entry and the counts of its engine (R377 step 2). -/
def failMarks (s : State) (g reason missr : Nat) : State :=
  let o := colReg g 0x10
  let s1 := (s.setFld o 31 31 0).setFld o 30 27 (8 + reason)
  let s2 := if reason = 1 then s1.setFld o 23 12 missr else s1
  if reason = 1 then s2.count (colFail (g / 128)) 31 16 1 else s2.count (colFail (g / 128)) 15 0 1

/-- The trap of a failed step: the collective timeout trap in its engine; none beyond the teardown's own where the context is in one; an ORPHAN
record where the context is gone (R377, R380). -/
def collTrap (s : State) (e id c g aux step : Nat) : State :=
  match spillEntry s e id with
  | none => s.appendRecord 0x08 0x11 0 none none (g * 2 ^ 48 + step * 2 ^ 16) aux
  | some x =>
    let s1 := dropEntry s e false id
    if s.ctxState c = 6 then settleQueue s1 e false
    else drain (settleQueue (s1.raiseTrap e 7 x.pc aux) e false) e

/-- A step in progress fails at this member (R377). Reasons: 1 TIMEOUT, 2 ABORTED, 3 ERROR. -/
def failStep (s : State) (x : CStep) (reason missr : Nat) : State :=
  let s1 := { s with coll := { s.coll with steps := s.coll.steps.filter fun y => y.gid != x.gid }
                     fabric := { s.fabric with reqs := s.fabric.reqs.filter fun q => !(q.op == 8 && q.id == x.id && q.msg.isSome) } }
  let s2 := x.others.foldl (fun t j => collSend t x j 5 0 0 0 []) s1
  let s3 := undefine (failMarks s2 x.gid reason missr) x.dst x.need
  showSteps (collTrap s3 x.eng x.id x.ctx x.gid (collAux reason x.gid x.epoch x.step (if reason = 1 then missr else 0xFFF)) x.step)

/-- A message whose data go straight to the destination of its peer. -/
def CSend.straight (d : CSend) : Bool := d.kind == 2 && d.dest == d.peer

/-- Messages that rank `p` gets from this member in the step, as `messages` counts them there. -/
def CStep.sent (x : CStep) (p : Nat) : Nat × Nat := { x with rank := p }.messages x.rank

/-- The credits allow a message (R373): those of a peer go first to the data that go straight to its destination, whose whole block it grants, and the rest are its
staging. In a ring that stages less than all of what comes, a member's own data leave a chunk of the staging free, so that what it forwards can always move. -/
def CStep.allows (x : CStep) (d : CSend) : Bool :=
  let c := SMap.get zeroNat x.credits d.peer
  let n := x.sent d.peer
  let room := c - n.1 - SMap.get zeroNat x.sentStaged d.peer
  !x.awaitReady.contains d.peer &&
    (if d.straight then decide (SMap.get zeroNat x.sentStraight d.peer < min c n.1)
     else decide (0 < room) && (!x.ring || d.back.isSome || decide (1 < room) || decide (n.2 ≤ c - n.1)))

/-- The message has used its credit. -/
def CStep.spend (x : CStep) (d : CSend) : CStep :=
  if d.straight then { x with sentStraight := SMap.set zeroNat x.sentStraight d.peer (SMap.get zeroNat x.sentStraight d.peer + 1) }
  else { x with sentStaged := SMap.set zeroNat x.sentStaged d.peer (SMap.get zeroNat x.sentStaged d.peer + 1) }

/-- Sends what the credits allow: in order to each peer whose READY has come, reading sources as they are sent. A source that cannot be read fails the step. -/
def collPump (x : CStep) : List CSend → List CSend → State → State × CStep × Bool
  | [], kept, s => (s, { x with todo := kept.reverse }, true)
  | d :: t, kept, s =>
    if !x.allows d then collPump x t (d :: kept) s
    else
      let r := match d.addr with
        | some a => memRead s (x.req s) a d.len
        | none => (s, .ok, d.data)
      if r.2.1 ≠ .ok then (r.1, x, false)
      else
        let s1 := collSend r.1 x d.peer d.kind d.dest d.off 0 r.2.2
        let s2 := match d.back with
          | some j => collSend s1 x j 4 0 0 1 []
          | none => s1
        collPump (x.spend d) t kept s2

/-- Sends what a step may, and keeps it; or fails it with ERROR. -/
def collGo (s : State) (x : CStep) : State :=
  let y := collPump x x.todo [] s
  if y.2.2 then setStep y.1 y.2.1 else failStep y.1 x 3 0

/-! ## Receiving data -/

/-- Folds two lists of element bytes (R369). -/
def foldBytes (et rop : Nat) : Nat → List Byte → List Byte → List Byte
  | 0, _, _ => []
  | n + 1, a, b =>
    let w := elemSize et
    leBytes w (adder et rop (leNat (a.take w)) (leNat (b.take w))).1 ++ foldBytes et rop n (a.drop w) (b.drop w)

def fold2 (x : CStep) (a b : List Byte) : List Byte := foldBytes x.et x.rop (a.length / elemSize x.et) a b

/-- Final bytes for this member's destination. -/
def landFinal (s : State) (x : CStep) (off : Nat) (bs : List Byte) : State × CStep × Bool :=
  if x.need < off + bs.length then (s, x, false)
  else
    let w := memWrite s (x.req s) (x.dst + off) bs
    (w.1, { x with got := x.got + bs.length }, decide (w.2 = .ok))

/-- A message more to send, from staged bytes. -/
def CStep.queue (x : CStep) (peer kind who off : Nat) (bs : List Byte) (back : Option Nat) : CStep :=
  { x with todo := x.todo ++ [{ peer := peer, kind := kind, dest := who, off := off, len := bs.length, data := bs, back := back }] }

/-- The address of this member's element that is folded into a partial for rank `who` at an offset. -/
def CStep.elemAddr (x : CStep) (who off : Nat) : Nat := if x.xm = 1 then x.src + who * x.len + off else x.src + off

/-- Gives a credit back for staging that is free again. -/
def giveCredit (s : State) (x : CStep) (j : Nat) : State := collSend s x j 4 0 0 1 []

/-- DATA: to the destination, and on around the ring where others still need it; or staged for forwarding. -/
def takeData (s : State) (x : CStep) (m : Msg) : State × CStep × Bool :=
  if m.dest = x.rank then
    let y := landFinal s x m.off m.data
    let more := x.ring && (if x.instr = 2 then x.next != m.off / max 1 x.len else x.instr == 1 && x.xm == 0 && x.rank != x.size - 2)
    if y.2.2 && more then (y.1, y.2.1.queue x.next 2 x.next m.off m.data none, true) else y
  else (s, x.queue x.next 2 m.dest m.off m.data (some m.frm), x.ring)

/-- The partials of every other rank for one piece, with this member's own, in rank order. -/
def foldPiece (s : State) (x : CStep) (off n : Nat) : State × Option (List Byte) :=
  let own := memRead s (x.req s) (x.elemAddr x.rank off) n
  if own.2.1 ≠ .ok then (own.1, none)
  else
    let block (r : Nat) : List Byte :=
      if r = x.rank then own.2.2
      else match x.staged.find? fun p => p.1 == r && p.2.1 == off with
        | some p => p.2.2
        | none => []
    (own.1, some ((List.range (x.size - 1)).foldl (fun acc r => fold2 x acc (block (r + 1))) (block 0)))

/-- A PARTIAL of direct exchange: staged, and folded once every rank's has come. -/
def takeDirect (s : State) (x : CStep) (m : Msg) : State × CStep × Bool :=
  let x1 := { x with staged := x.staged ++ [(m.frm, m.off, m.data)] }
  let n := m.data.length
  if !x.others.all fun r => x1.staged.any fun p => p.1 == r && p.2.1 == m.off && p.2.2.length == n then (s, x1, true)
  else
    let f := foldPiece s x1 m.off n
    match f.2 with
    | none => (f.1, x1, false)
    | some v =>
      let y := landFinal f.1 { x1 with staged := x1.staged.filter fun p => p.2.1 != m.off } m.off v
      let s1 := x.others.foldl (fun t j => giveCredit t x j) y.1
      let x2 := if x.xm = 1 then y.2.1 else x.others.foldl (fun z j => z.queue j 2 j m.off v none) y.2.1
      (s1, x2, y.2.2)

/-- A PARTIAL of the ring: this rank adds its own element; the last rank holds the final values and sends them on. -/
def takeRing (s : State) (x : CStep) (m : Msg) : State × CStep × Bool :=
  let own := memRead s (x.req s) (x.elemAddr m.dest m.off) m.data.length
  if own.2.1 ≠ .ok then (own.1, x, false)
  else
    let v := fold2 x m.data own.2.2
    if x.rank ≠ x.size - 1 then (own.1, x.queue x.next 3 m.dest m.off v (some m.frm), true)
    else if x.xm = 1 then
      if m.dest = x.rank then
        let y := landFinal own.1 x m.off v
        (giveCredit y.1 x m.frm, y.2.1, y.2.2)
      else (own.1, x.queue x.next 2 m.dest m.off v (some m.frm), true)
    else
      let y := landFinal own.1 x m.off v
      (y.1, y.2.1.queue x.next 2 x.next m.off v (some m.frm), y.2.2)

/-- Bytes from a rank have come. -/
def CStep.heard (x : CStep) (j n : Nat) : CStep := { x with awaitData := SMap.set zeroNat x.awaitData j (SMap.get zeroNat x.awaitData j - n) }

/-- A READY that differs from the own instruction (R373). -/
def readyDiffers (x : CStep) (m : Msg) : Bool :=
  m.instr != x.instr || m.xm != x.xm || m.et != x.et || m.rop != x.rop || m.off != x.len

/-- A message of the step in progress. -/
def stepMsg (s : State) (x : CStep) (m : Msg) : State :=
  if m.kind = 1 && readyDiffers x m then failStep s x 3 0
  else
    let y : State × CStep × Bool :=
      if m.kind = 1 || m.kind = 4 then
        let x1 := { x with credits := SMap.set zeroNat x.credits m.frm (SMap.get zeroNat x.credits m.frm + m.cred) }
        (s, if m.kind = 1 then { x1 with awaitReady := x1.awaitReady.filter (· != m.frm) } else x1, true)
      else if m.kind = 2 then takeData s (x.heard m.frm m.data.length) m
      else if x.instr ≠ 1 then (s, x, false)
      else if x.ring then takeRing s (x.heard m.frm m.data.length) m
      else takeDirect s (x.heard m.frm m.data.length) m
    if y.2.2 then collGo y.1 y.2.1 else failStep y.1 x 3 0

/-! ## Messages at a group entry (R375) -/

/-- The ACK of an accepted or discarded request: FROM, EPOCH and STEP are this member's own, and INSTR, XM, ROP and ET are as in the instruction of its step
in progress (Table 15-2). DESIGN CHOICE (log entry 150): as in the request where it has none. -/
def collAck (s : State) (m : Msg) : State :=
  let a : Msg := { respond s m [] with kind := 8, gid := m.gid, epoch := grpEpoch s m.gid, frm := grpRank s m.gid }
  originate s (match stepOf s m.gid with
    | some x => { a with step := x.step, instr := x.instr, xm := x.xm, rop := x.rop, et := x.et }
    | none => { a with step := grpStep s m.gid, instr := m.instr, xm := m.xm, rop := m.rop, et := m.et })

/-- A message of another epoch is discarded, counted and acknowledged; a newer one is recorded at most once a millisecond. -/
def staleEpoch (s : State) (m : Msg) : State :=
  let d := m.gid / 128
  let s1 := collAck (s.count (colStale d) 31 16 1) m
  let ahead := (m.epoch + 65536 - grpEpoch s m.gid) % 65536
  let busy := match SMap.get (fun _ => none) s.fabric.discardUs (2 + d) with
    | some u => decide (s.us < u + 1000)
    | none => false
  if ahead = 0 || 32768 ≤ ahead || busy then s1
  else { s1.appendRecord 0x08 0x10 0 none none (m.gid * 2 ^ 48 + m.epoch * 2 ^ 16 + grpEpoch s m.gid) m.src with
    fabric := { s1.fabric with discardUs := SMap.set (fun _ => none) s1.fabric.discardUs (2 + d) (some s.us) } }

/-- A collective request of a known KIND. -/
def collMsg (s : State) (m : Msg) (_n : Nat) : State :=
  if m.epoch ≠ grpEpoch s m.gid then staleEpoch s m
  else
    let n := grpStep s m.gid
    if m.kind = 5 then
      let s1 := (collAck s m).setFld (colReg m.gid 0x10) 30 30 1
      match stepOf s m.gid with
      | some x => failStep s1 x 2 0
      | none => s1
    else match stepOf s m.gid with
      | some x =>
        if m.step = x.step then stepMsg (collAck s m) x m
        else if m.step = n then collAck { s with coll := { s.coll with held := s.coll.held ++ [m] } } m
        else collAck (s.count (colStale (m.gid / 128)) 15 0 1) m
      | none =>
        if m.step = n then collAck { s with coll := { s.coll with held := s.coll.held ++ [m] } } m
        else collAck (s.count (colStale (m.gid / 128)) 15 0 1) m

/-- A message of a KIND that is not in Table 15-3 (R372). -/
def collBad (s : State) (m : Msg) (_n : Nat) : State := s.count (colStale (m.gid / 128)) 15 0 1

/-- An ACK, or the error response to a collective request: the timer ends; an error fails the step with ERROR. -/
def takeAck (s : State) (m : Msg) (n : Nat) : State :=
  match s.fabric.reqs.find? (matches' m) with
  | none => stale s n
  | some q =>
    let s1 := tagsFree { s with fabric := { s.fabric with reqs := s.fabric.reqs.filter fun r => !matches' m r } } m.rq
    if !m.err then s1
    else match s1.coll.steps.find? fun x => x.id == q.id && 0x60 + x.die == q.rq with
      | some x => failStep s1 x 3 0
      | none => s1

/-- REMOTE_REQUEST_TIMEOUT of the request with a TAG (R359): a collective one fails its step, every other ends with error. None ends after containment (R333). -/
def requestTimeout (s : State) (tag : Nat) : State :=
  if s.fatal then s
  else match s.fabric.reqs.find? fun q => q.tag == tag && reqExpired s q with
  | none => s
  | some q =>
    if q.op = 8 then
      let s1 := tagsFree { s with fabric := { s.fabric with reqs := s.fabric.reqs.filter (· != q) } } q.rq
      match s1.coll.steps.find? fun x => x.id == q.id && 0x60 + x.die == q.rq with
      | some x => failStep s1 x 3 0
      | none => s1
    else tagsFree (modReqs s (· == q) fun r => { r with status := 2 }) q.rq

/-! ## Starting a step (R129, R366 to R368, R373) -/

/-- INSTR, XM, ET and ROP of a collective instruction. -/
def collKind : Instr → Nat × Nat × Nat × Nat
  | .xch .. => (0, 0, 0, 0)
  | .xredAllReduce _ f _ | .xredReduceScatter _ f _ => (1, fld f 15 14, fld f 21 18, fld f 17 16)
  | .xgather .. => (2, 0, 0, 0)
  | _ => (0, 0, 0, 0)

/-- The operand fields of a collective instruction. -/
def collFields : Instr → Option (Fields × Word64)
  | .xch _ f w2 | .xredAllReduce _ f w2 | .xredReduceScatter _ f w2 | .xgather _ f w2 => some (f, w2)
  | _ => none

/-- A step that fails at its start, before anything is sent (R367, R377). -/
def failStart (s : State) (e : Nat) (x : SkEntry) (reason : Nat) : State :=
  let g := collGid x.instr
  let s1 := failMarks s g reason 0
  collTrap s1 e x.id (s.eng e).ctx g (collAux reason g (grpEpoch s g) (grpStep s g) 0xFFF) (grpStep s g)

/-- The conditions of R367 that the entry shows. -/
def grpUsable (s : State) (c g : Nat) : Bool :=
  grpValid s g && s.fld64 (colReg g 0) 61 60 == s.fld colCtl 1 0 && s.fld64 (colReg g 0) 59 54 == c && s.fld (colReg g 0x10) 30 30 == 0

/-- Chunks of staging that a step grants to rank `j`, out of `room` chunks that are shared among its senders. -/
def CStep.stageGrant (x : CStep) (room j : Nat) : Nat := min (x.messages j).2 (max 1 (room / max 1 x.senders.length))

/-- Chunks of staging that the steps of a link die have granted: each at most 256 of the 2,048 that make 8 MiB, so that eight steps fit (R373). -/
def stagingUsed (s : State) (d : Nat) : Nat :=
  ((s.coll.steps.filter fun y => y.die == d).map fun y => (y.senders.map (y.stageGrant 256)).foldl (· + ·) 0).foldl (· + ·) 0

/-- Chunks of staging that a step beginning now may grant. -/
def stagingRoom (s : State) (d : Nat) : Nat := min 256 (2048 - stagingUsed s d)

/-- The credits that a sender gets at the start, one per message: all data that go straight to the destination, and its share of the staging. -/
def CStep.grant (x : CStep) (room j : Nat) : Nat := (x.messages j).1 + x.stageGrant room j

/-- A number of credits in pieces that CRED holds: the first goes with READY, the rest in CREDIT messages behind it. -/
def creditPieces (n : Nat) : List Nat := min 65535 n :: (List.range ((n - 1) / 65535)).map fun i => min 65535 (n - 65535 * (i + 1))

/-- READY goes to a sender, with its credits. -/
def sendReady (s : State) (x : CStep) (room j : Nat) : State :=
  let c := creditPieces (x.grant room j)
  (c.drop 1).foldl (fun t k => collSend t x j 4 0 0 k []) (collSend s x j 1 0 x.len (c.headD 0) [])

/-- What this member moves within itself at the start: its own block, or all of it in a group of one. -/
def ownBlock (s : State) (x : CStep) : State × CStep × Bool :=
  let copy (a off : Nat) : State × CStep × Bool :=
    let r := memRead s (x.req s) a x.len
    if r.2.1 = .ok then landFinal r.1 x off r.2.2 else (r.1, x, false)
  if x.instr = 0 then copy (x.src + x.rank * x.len) (x.rank * x.len)
  else if x.instr = 2 then copy x.src (x.rank * x.len)
  else if x.size = 1 then copy x.src 0
  else (s, x, true)

/-- Sources and destinations lie in the HBM or Landing regions, and L is a multiple of 64 and of the element (R128). -/
def stepGood (s : State) (x : CStep) : Bool :=
  let n := if x.instr = 0 || (x.instr = 1 && x.xm = 1) then x.size * x.len else x.len
  x.len % 64 == 0 && (places s x.src n).all (reaches (x.req s)) && (places s x.dst x.need).all (reaches (x.req s))

/-- The step begins: COL_Gg_STEP counts it, READY goes to every sender, and messages held for it are taken. -/
def stepBegin (s : State) (x : CStep) : State :=
  let s1 := (s.setFld (colReg x.gid 0x14) 15 0 ((x.step + 1) % 65536)).setFld (colReg x.gid 0x10) 31 31 1
  let s2 := modEntry s1 x.eng false x.id fun y => { y with stage := .started }
  let x1 := { x with
    awaitReady := x.receivers
    awaitData := x.senders.foldl (fun m j => SMap.set zeroNat m j ((x.incoming j).1 + (x.incoming j).2)) []
    todo := x.ownSends }
  let room := stagingRoom s2 x.die
  let s3 := { s2 with coll := { s2.coll with steps := s2.coll.steps ++ [x1] } }
  if !stepGood s3 x then failStep s3 x1 3 0
  else
    let o := ownBlock s3 x1
    if !o.2.2 then failStep o.1 x1 3 0
    else
      let s4 := x.senders.foldl (fun t j => sendReady t x room j) (setStep o.1 o.2.1)
      let mine := s4.coll.held.filter fun m => m.gid == x.gid && m.epoch == x.epoch && m.step == x.step
      let s5 := { s4 with coll := { s4.coll with held := s4.coll.held.filter fun m => !(m.gid == x.gid && m.epoch == x.epoch && m.step == x.step) } }
      mine.foldl (fun t m => match stepOf t x.gid with
        | some y => stepMsg t y m
        | none => t) s5

/-- A collective descriptor starts its step: it waits while eight steps run on its engine, its group has one, or an earlier one of its group waits. -/
def collStart (s : State) (e : Nat) (x : SkEntry) : State :=
  match collFields x.instr with
  | none => s
  | some (f, w2) =>
    let g := collGid x.instr
    let d := g / 128
    let c := (s.eng e).ctx
    let ahead := (s.coll.waiting.takeWhile (· != (e, x.id))).any fun w => match spillEntry s w.1 w.2 with
      | some y => collGid y.instr == g
      | none => false
    if 8 ≤ (s.coll.steps.filter fun y => y.die == d).length || (stepOf s g).isSome || ahead then
      if s.coll.waiting.contains (e, x.id) then s
      else showSteps { s with coll := { s.coll with waiting := s.coll.waiting ++ [(e, x.id)] } }
    else
      let s0 := { s with coll := { s.coll with waiting := s.coll.waiting.filter (· != (e, x.id)) } }
      if !grpUsable s0 c g then showSteps (failStart s0 e x 4)
      else
        let l := memRead s0 (.coll true) (grpList s0 g) (4 * grpSize s0 g)
        if l.2.1 ≠ .ok then showSteps (failStart l.1 e x 3)
        else
          let ms := (List.range (grpSize s0 g)).map fun i => leNat ((l.2.2.drop (4 * i)).take 4)
          let k := collKind x.instr
          if ms.getD (grpRank s0 g) 0 ≠ ownId s0 || grpSize s0 g ≤ grpRank s0 g then showSteps (failStart l.1 e x 4)
          else
            let a (ar so : Nat) := (x.regs.getA ar + x.regs.getS so) % 2 ^ 48
            showSteps (stepBegin l.1
              { eng := e, id := x.id, ctx := c, gid := g, step := grpStep s0 g, epoch := grpEpoch s0 g, ring := grpRing s0 g,
                instr := k.1, xm := k.2.1, et := k.2.2.1, rop := k.2.2.2, len := x.regs.getS (fld f 35 31),
                src := a (fld f 51 49) (fld f 48 44), dst := a (fld f 43 41) (fld f 40 36), dl := fld2 w2 63 48, rank := grpRank s0 g,
                members := ms.map (bits · 11 0), us := s.us })

/-- COLLECTIVE_STEP_START on an engine: the collective descriptor that heads its spill queue. -/
def collStartNext (s : State) (e : Nat) : State :=
  if s.fatal then s
  else match nextWaiting (s.eng e) false with
    | some x => if (collFields x.instr).isSome && atHead (s.eng e) false x then collStart s e x else s
    | none => s

/-! ## Ends -/

/-- Messages of a step that have not been acknowledged. -/
def unacked (s : State) (x : CStep) : Bool := s.fabric.reqs.any fun q => q.op == 8 && q.id == x.id && q.rq == 0x60 + x.die

/-- The step has wholly completed at this member (R374): its destination is final, nothing that it has to forward is still to come or to go, and every message it
has sent has been acknowledged. -/
def stepDone (s : State) (x : CStep) : Bool :=
  x.got == x.need && x.awaitData.all (fun p => p.2 == 0) && x.todo.isEmpty && !unacked s x

/-- COLLECTIVE_STEP_COMPLETE of the `k`-th step of a link die. -/
def collComplete (s : State) (d k : Nat) : State :=
  match (s.coll.steps.filter fun x => x.die == d)[k]? with
  | none => s
  | some x =>
    if s.fatal || !stepDone s x then s
    else
      let s1 := { s with coll := { s.coll with steps := s.coll.steps.filter fun y => y.gid != x.gid } }
      let s2 := ((s1.setFld (colReg x.gid 0x10) 31 31 0).count (colDone d) 31 0 1).tally x.eng 0xB 1
      showSteps (drain (completeEntry s2 x.eng false x.id) x.eng)

/-- The lowest rank from which a READY or data is still awaited (R376). -/
def missing (x : CStep) : Nat :=
  ((List.range x.size).find? fun r => x.awaitReady.contains r || SMap.get zeroNat x.awaitData r != 0).getD 0xFFF

/-- COLLECTIVE_STEP_TIMEOUT of the `k`-th step of a link die: TMO milliseconds have passed since its start (R376). -/
def collTimeout (s : State) (d k : Nat) : State :=
  match (s.coll.steps.filter fun x => x.die == d)[k]? with
  | none => s
  | some x => if s.fatal || stepDone s x || s.us < x.us + 1000 * grpTmo s x.gid then s else failStep s x 1 (missing x)

/-- The teardown of a context ends its steps with ABORTED (R380). -/
def collTeardown (s : State) (c : Nat) : State :=
  let s0 := { s with coll := { s.coll with waiting := s.coll.waiting.filter fun w => (s.eng w.1).ctx != c } }
  showSteps ((s.coll.steps.filter fun x => x.ctx == c).foldl (fun t x => failStep t x 2 0) s0)

/-! ## Group entries (R381, R382, R388) -/

/-- A refused write. -/
def colRej (s : State) : State := s.setFld colCtl 31 31 1

/-- The fields of COL_Gg_CFG that hold a value. -/
def cfgMask (v : Nat) : Nat := bits v 63 54 * 2 ^ 54 + bits v 47 32 * 2 ^ 32 + bits v 29 16 * 2 ^ 16 + bits v 11 0

/-- Word 0 of a group's entry takes a value; `same`: its epoch stays. A new epoch ends the group's step and resets its counts. -/
def colCfgPut (s : State) (g w : Nat) (same : Bool) : State :=
  let gm1 := s.fld64 (colReg g 8) 59 48
  if bit w 63 && ((!bit w 62 && decide (16 < gm1)) || decide (gm1 < bits w 11 0)) then colRej s
  else if (stepOf s g).isSome && bit w 63 && same then colRej s
  else
    let s1 := match stepOf s g with
      | some x => failStep s x 2 0
      | none => s
    let s2 := s1.setReg64 (colReg g 0) w
    if same then s2
    else
      let s3 := { s2 with coll := { s2.coll with held := s2.coll.held.filter fun m => m.gid != g } }
      ((s3.setFld (colReg g 0x10) 30 27 0).setFld (colReg g 0x10) 23 12 0).setFld (colReg g 0x14) 15 0 0

/-- COL_GROUP_CFG_WRITE. -/
def colCfgWrite (s : State) (g : Nat) (a : Acc) (v : Nat) : State :=
  let w := cfgMask (accMerge (s.reg64 (colReg g 0)) a v)
  colCfgPut s g w (decide (bits w 47 32 = grpEpoch s g))

/-- COL_GROUP_MEM_WRITE. -/
def colMemWrite (s : State) (g : Nat) (a : Acc) (v : Nat) : State :=
  if grpValid s g then colRej s
  else
    let w := accMerge (s.reg64 (colReg g 8)) a v
    s.setReg64 (colReg g 8) (bits w 59 48 * 2 ^ 48 + bits w 47 6 * 64)

/-- COL_ACTIVE_WRITE: a write of COL_CTL. -/
def colActiveWrite (s : State) (v : Nat) : State :=
  if !s.coll.steps.isEmpty || !s.coll.waiting.isEmpty then colRej s
  else (if bit v 31 then s.setFld colCtl 31 31 0 else s).setFld colCtl 1 0 v

end Sys2Proof.Machine
end

