-- ==== Sys2Proof/Machine/Regs.lean ====
section
/-! DEFINITION. BAR0 registers without behaviour of their own (R11 to R15, R464): reads and writes of one word under its field map; and the registers
of a link die's window, with source-routed messages (R355 to R357). -/

namespace Sys2Proof.Machine

/-! ## Plain registers -/

/-- The field map of the word at an offset; nothing where the offset holds no register. -/
def wordDef (off : Nat) : Option WordDef := match slotAt (canonOff off) with
  | .hole => none
  | .single d | .low d | .high d => some d

/-- The bits of a word that hold no value a host reads: WO fields whose value the model keeps for a later write of the other word (R11, R14). -/
def hiddenBits (off : Nat) : Nat :=
  if off = 0x402080 then 0xFFFFFFFF else if off = 0x402084 then 0xEFFFFFFF
  else if off = 0x400028 then 0xFFFFFFFF else if off = 0x40002C then 0xE00F0000
  else if 0x10000 ≤ off && off < 0x20000 then 0xFFFFFFFF else 0

/-- The late counter that stands at an offset: MEM_LATEs, or LND_LATEd (Tables 10-6 and 10-7). -/
def lateIndex (o : Nat) : Option Nat :=
  if 0x3001000 ≤ o && o < 0x3001C00 && o % 0x100 = 4 then some ((o - 0x3001000) / 0x100)
  else if o = 0x3800014 then some 12
  else if o = 0x3810014 then some 13
  else none

/-- A read of one word: its value, with RC fields cleared by the read. -/
def plainRead (s : State) (off : Nat) : State × Nat :=
  match wordDef off, lateIndex (canonOff off) with
  | none, _ => (s, 0)
  | some _, some i => ({ s with lates := s.lates.set i 0 }, s.lates.getD i 0)
  | some d, none =>
    let o := canonOff off
    let v := s.reg o
    (if d.rc = 0 then s else s.setReg o (v - (v &&& d.rc)), v - (v &&& hiddenBits o))

/-- The value of a word after a write: RW fields take it, W1C fields clear where it is 1, every other field stays. -/
def writeWord (d : WordDef) (old v : Nat) : Nat :=
  let w := old - (old &&& (d.w1c &&& v))
  w - (w &&& d.rw) + (v &&& d.rw)

/-- A write of one word. -/
def plainWrite (s : State) (off v : Nat) : State :=
  match wordDef off with
  | none => s
  | some d => let o := canonOff off; s.setReg o (writeWord d (s.reg o) (v % 2 ^ 32))

/-- A write of a register by its low or only offset. -/
def plainWriteAcc (s : State) (off : Nat) (a : Acc) (v : Nat) : State :=
  match a with
  | .low => plainWrite s off v
  | .high => plainWrite s (off + 4) v
  | .both => plainWrite (plainWrite s off v) (off + 4) (v / 2 ^ 32)

/-- A ring's control register: LOG2N keeps its value in a write while EN is 1 (R245). -/
def ringCtlWrite (s : State) (off v : Nat) : State :=
  let log2n := if s.fld off 31 31 = 1 then s.fld off 4 0 else bits v 4 0
  plainWrite s off (putBits v 4 0 log2n)

/-! ## Source-routed messages -/

/-- A source-routed message leaves on the slip that its PATH names next, with its TTL lowered; it is discarded when that slip is not UP (R355). -/
def leavePath (s : State) (m : Msg) : State :=
  let n := bits m.path 3 0
  let p := (bits m.path 63 60 + 15) % 16 * 2 ^ 60 + bits m.path 59 4
  if slipUp s n then sendOn s n { m with path := p, vc := 0, ttl := m.ttl - 1 } else s

/-- The arrival slip shifts into RPATH, and RPATH's hop count rises by 1. -/
def arrive (m : Msg) (n : Nat) : Msg :=
  { m with rpath := (bits m.rpath 63 60 + 1) % 16 * 2 ^ 60 + (bits m.rpath 59 0 * 16 + n % 16) % 2 ^ 60 }

/-- A response to a source-routed request: its PATH is the request's RPATH. -/
def pathReply (s : State) (m : Msg) (op : Nat) (data : List Byte) : Msg :=
  { op := op, src := ownId s, ttl := startTtl s, path := m.rpath, ouid := m.ouid, tag := m.tag, off := m.off, data := resize 32 data }

/-- A source-routed message with TTL 0 that would leave on slip `n` is discarded (R352). DESIGN CHOICE (log entry 146): a CFGRD or CFGWR is answered along its RPATH with
ERR, and a PROBE, which has no error reply, is not answered. -/
def pathExpired (s : State) (m : Msg) (n : Nat) : State :=
  let s1 := noteDiscard s m (dieOf n) 2
  if m.op = 0xB || m.op = 0xC then leavePath s1 (pathReply s1 m 0xD (leBytes 8 (2 ^ 63))) else s1

/-- A source-routed message goes on along its PATH. -/
def sendPath (s : State) (m : Msg) : State :=
  if slipUp s (bits m.path 3 0) && m.ttl = 0 then pathExpired s m (bits m.path 3 0) else leavePath s m

/-- The REPLY bytes of a PREPLY (Table 14-10). -/
def probeReply (s : State) (n : Nat) : List Byte :=
  leBytes 8 (s.reg64 fabUid) ++ leBytes 2 (ownId s) ++ leBytes 1 n ++ leBytes 1 (s.fld fabCtl 30 30) ++
    leBytes 8 (((List.range 16).map fun i => slipState s i * 16 ^ i).foldl (· + ·) 0)

/-- A PROBE: the first sighting of its pair is forwarded on every other UP slip, answered, and recorded (R356). -/
def takeProbe (s : State) (m0 : Msg) (n : Nat) : State :=
  let m := arrive m0 n
  if s.fabric.probes.contains (m.ouid, m.tag) then s
  else
    let keep := (m.ouid, m.tag) :: s.fabric.probes
    let s1 := { s with fabric := { s.fabric with probes := keep.take 16 } }
    let on := (List.range 16).filter fun i => i != n && slipUp s i
    let s2 := if 15 ≤ bits m.rpath 63 60 || on.isEmpty then s1
      else if m.ttl = 0 then pathExpired s1 m n
      else on.foldl (fun t i => sendOn t i { m with vc := 0, ttl := m.ttl - 1 }) s1
    sendPath s2 (pathReply s2 m 0xA (probeReply s2 n))

/-- A reply goes on along its path; at its end it is written to the reply buffer of the link die it came to while COUNT is below LIMIT. -/
def takeReply (s : State) (m0 : Msg) (n : Nat) : State :=
  let m := arrive m0 n
  if bits m.path 63 60 ≠ 0 then sendPath s m
  else
    let d := dieOf n
    let k := s.fld (srStat d) 15 0
    if s.fld (srStat d) 31 16 ≤ k then s
    else
      let w := memWrite s .sched (s.fld64 (srBuf d) 47 6 * 64 + 64 * k) (resize 64 m.bytes)
      w.1.setFld (srStat d) 15 0 (k + 1)

/-- FAB_SR_MSG with GO: the message in device memory leaves with RPATH zero; a message that cannot be read is not sent. -/
def sendSourceRouted (s : State) (d : Nat) : State :=
  let x := memRead s .sched (s.fld64 (ldReg d 0x28) 47 6 * 64) 64
  if x.2.1 ≠ .ok then x.1
  else
    let m := Msg.ofBytes x.2.2 0 0 0
    if m.sourceRouted then sendPath x.1 { m with rpath := 0, ttl := startTtl x.1 } else x.1

/-- A write of FAB_SR_MSG; GO stands in its high word. -/
def srMsgWrite (s : State) (d : Nat) (a : Acc) (v : Nat) : State :=
  let w := accMerge (s.reg64 (ldReg d 0x28)) a v
  let s1 := s.setReg64 (ldReg d 0x28) (bits w 47 6 * 64)
  if a ≠ .low && bit w 63 then sendSourceRouted s1 d else s1

/-- A write of FAB_CTL: LOCK stays 1 until reset. -/
def fabCtlWrite (s : State) (v : Nat) : State := plainWrite s fabCtl (if s.fld fabCtl 31 31 = 1 then putBits v 31 31 1 else v)

/-- A write of a register in a link die's window, by the offset of its low or only word. -/
def linkWrite (s : State) (off : Nat) (a : Acc) (v : Nat) : State :=
  let d := (off - 0x2000000) / 0x800000
  let x := (off - 0x2000000) % 0x800000
  if x = 0x4 then fabCtlWrite s v
  else if x = 0x28 then srMsgWrite s d a v
  else if x = 0x30 then (plainWriteAcc s off a v).setFld (srStat d) 15 0 0
  else if 0x1000 ≤ x && x < 0x1800 && x % 0x100 = 0 then slipCtlWrite s (8 * d + (x - 0x1000) / 0x100) v
  else if x = 0x20000 then colActiveWrite s v
  else if 0x21000 ≤ x && x < 0x22000 && x % 0x20 = 0 then colCfgWrite s (128 * d + (x - 0x21000) / 0x20) a v
  else if 0x21000 ≤ x && x < 0x22000 && x % 0x20 = 8 then colMemWrite s (128 * d + (x - 0x21000) / 0x20) a v
  else plainWriteAcc s off a v

/-- A write of the 32-bit word at an offset of a link die's window. -/
def linkWrite32 (s : State) (off v : Nat) : State :=
  match slotAt (canonOff off) with
  | .hole => s
  | .single _ | .low _ => linkWrite s off .low v
  | .high _ => linkWrite s (off - 4) .high v

/-- The BAR0 offset that OFF names, if it stands in the FAB_ or COL_ block. -/
def cfgOffset (off : Nat) : Option Nat :=
  let x := bits off 22 0
  if 0x22000 ≤ x || x % 4 ≠ 0 then none else some (ldReg (bits off 23 23) x)

/-- A CFG message for this device, or one on its way (R355). -/
def cfgMsg (s : State) (m0 : Msg) (n : Nat) (go : State → Msg → State) : State :=
  let m := arrive m0 n
  if bits m.path 63 60 ≠ 0 then sendPath s m else go s m

/-- CFGRD. -/
def takeCfgRd (s : State) (m : Msg) (n : Nat) : State :=
  cfgMsg s m n fun t x =>
    let r := match cfgOffset x.off with
      | none => (t, 0)
      | some o => plainRead t o
    sendPath r.1 (pathReply r.1 x 0xD (leBytes 8 r.2))

/-- CFGWR: refused with ERR and a record while LOCK is 1. -/
def takeCfgWr (s : State) (m : Msg) (n : Nat) : State :=
  cfgMsg s m n fun t x =>
    if t.fld fabCtl 31 31 = 1 then
      let t1 := t.appendRecord 0x08 0x05 0 none none x.off x.ouid
      sendPath t1 (pathReply t1 x 0xD (leBytes 8 (2 ^ 63)))
    else
      let v := leNat (x.data.take 4)
      let t1 := match cfgOffset x.off with
        | none => t
        | some o => linkWrite32 t o v
      sendPath t1 (pathReply t1 x 0xD (leBytes 8 v))

end Sys2Proof.Machine
end

