-- ==== Sys2Proof/Machine/Codec.lean ====
section
/-! DEFINITION. Video coding (R299 to R311): the job ring, stream slots and their buffers, frames with damage and concealment, and scheduling. What the
standards decode is an uninterpreted function of the stream (R300, R308). -/

namespace Sys2Proof.Machine

/-! ## Registers -/

def codRing : Nat := 0x800000
def codCtl : Nat := 0x800008
def codTail : Nat := 0x80000C
def codHead : Nat := 0x800010
def codDmg : Nat := 0x800014
def codSlot (n : Nat) : Nat := 0x800100 + 4 * n

def cslot (s : State) (n : Nat) : CSlot := SMap.get CSlot.reset s.codec.slots n

/-- Buffers of a slot: how many, and how many are free of both holds and of frames in progress. -/
def CSlot.buffers (x : CSlot) : Nat := bits (x.record.getD 0 0) 52 48 + 1
def CSlot.freeList (x : CSlot) : List Nat :=
  (List.range x.buffers).filter fun i => !bit x.refs i && !bit x.outs i && !bit x.busy i

/-- Shows a slot in its register. -/
def showSlot (s : State) (n : Nat) : State :=
  let x := cslot s n
  if !x.open_ then s.setReg (codSlot n) 0
  else
    let w := x.record.getD 0 0
    s.setReg (codSlot n) (2 ^ 31 + bits w 59 59 * 2 ^ 30 + bits w 61 60 * 2 ^ 28 + x.ctx * 2 ^ 22 + x.freeList.length * 2 ^ 8 + x.infl)

def setCslot (s : State) (n : Nat) (x : CSlot) : State :=
  showSlot { s with codec := { s.codec with slots := SMap.set CSlot.reset s.codec.slots n x } } n

/-! ## Jobs (R302, R303) -/

def CJob.f (j : CJob) (i hi lo : Nat) : Nat := bits (j.words.getD i 0) hi lo
def CJob.op (j : CJob) : Nat := j.f 0 63 60
/-- The slot of a job; motion search ranks as slot 64 (R309). -/
def CJob.slot (j : CJob) : Nat := if j.op = 6 then 64 else j.f 0 59 54
def CJob.ctx (j : CJob) : Nat := j.f 0 53 48
/-- A job that has neither started nor ended. -/
def CJob.queued (j : CJob) : Bool := j.unit.isNone && j.ended.isNone

def codSize (s : State) : Nat := ringSize (s.fld codCtl 4 0)
def codAddr (s : State) (i : Nat) : Nat := s.fld64 codRing 47 6 * 64 + 64 * i

/-- Changes the job with a ring index. -/
def modJob (s : State) (i : Nat) (f : CJob → CJob) : State :=
  { s with codec := { s.codec with jobs := s.codec.jobs.map fun j => if j.index = i then f j else j } }

/-- A job ends with result words; RES1[63:32], the cycles that it used, is open (Table 12-5). -/
def endWith (s : State) (i stat res0 bytes : Nat) (record : Bool) : State :=
  let t := s.draw
  modJob t.1 i fun j => { j with unit := none, ended := some ⟨stat, res0, t.2 % 2 ^ 32 * 2 ^ 32 + bytes % 2 ^ 32, record⟩ }

/-- A job ends with no result. -/
def endJob (s : State) (i stat : Nat) (record : Bool) : State := endWith s i stat 0 0 record

/-- CODEC_JOB_READ: the hub reads the next descriptor and stamps it; at most 64 jobs are in progress. A read that ends with error ends the job with
ERROR. -/
def jobRead (s : State) : State :=
  if !s.ready || s.fatal || s.fld codCtl 31 31 = 0 || 64 ≤ s.codec.jobs.length then s
  else
    match (ringPending (s.fld codHead 15 0) (s.fld codTail 15 0) (codSize s)).find? fun i =>
        !s.codec.done.contains i && !s.codec.jobs.any fun j => j.index == i with
    | none => s
    | some i =>
      let x := memRead s .codec (codAddr s i) 64
      match x.2.1 with
      | .wait => s
      | .ok =>
        let w := words8 x.2.2
        let j : CJob := { index := i, words := w, stamp := (s.us + bits (w.getD 0 0) 30 15) % 2 ^ 32 }
        { x.1 with codec := { x.1.codec with jobs := x.1.codec.jobs ++ [j] } }
      | _ =>
        let j : CJob := { index := i, words := [], stamp := 0 }
        endJob { x.1 with codec := { x.1.codec with jobs := x.1.codec.jobs ++ [j] } } i 5 true

/-- CODEC_JOB_COMPLETE of the `k`-th job: STAT and results are written, HEAD advances in order, the source is raised, and a job that ends with DONE
or DAMAGED signals as a flash command does. One whose STAT or results cannot be written ends with ERROR (R271, R303). -/
def jobComplete (s : State) (k : Nat) : State :=
  match s.codec.jobs[k]? with
  | none => s
  | some j => match j.ended with
    | none => s
    | some e =>
      let a := codAddr s j.index
      let r := memWrite s .codec (a + 40) (leBytes 8 e.res0 ++ leBytes 8 e.res1)
      let w := memWrite r.1 .codec a (leBytes 1 e.stat)
      let bad := decide (r.2 ≠ .ok) || decide (w.2 ≠ .ok)
      let out := if bad && (e.stat = 1 || e.stat = 2) then 5 else e.stat
      let s2 := if e.record || bad then w.1.appendRecord 0x07 out 1 (some j.ctx) none j.index 0 else w.1
      let s3 := if out = 2 then s2.count codDmg 15 0 1 else s2
      let r := ringAdvance (codSize s) (codSize s) (s3.fld codHead 15 0) (s3.codec.done ++ [j.index])
      let s4 := { s3 with codec := { s3.codec with done := r.2, jobs := s3.codec.jobs.filter fun x => x.index != j.index } }.setFld
        codHead 15 0 r.1
      let s5 := if (out = 1 || out = 2) && j.f 0 31 31 = 1 && !j.quiet then
          hubSignal s4 j.ctx (j.f 0 47 41) (j.f 0 40 36) (j.f 0 35 32) j.index else s4
      s5.raiseIrq 3

/-- The job that heads the order of a slot before another job of it, where one is queued, holds that job back. A CLOSE ends what is queued (R311), so it does not
wait for a frame that heads the order, nor for what is queued behind that frame. -/
def holdsBack (x j : CJob) : Bool := !(j.op == 5 && (x.op == 2 || x.op == 3))

/-- The first queued job with an OP that nothing ahead of it in its slot's order holds back (R302); none starts after containment (R333). -/
def headJob (s : State) (p : Nat → Bool) : Option CJob :=
  if s.fatal then none
  else s.codec.jobs.find? fun j => j.queued && p j.op &&
    ((s.codec.jobs.takeWhile fun x => x.index != j.index).find? fun x => x.queued && x.slot == j.slot).all fun x => !holdsBack x j

/-- Acts on it. -/
def onJob (s : State) (op : Nat) (go : State → CJob → State) : State :=
  match headJob s (· == op) with
  | none => s
  | some j => go s j

/-! ## Stream slots (R304 to R306, R311) -/

/-- The planes of a buffer: offset, pitch, and for its width and height the bytes of a row and the rows. -/
def planes (r : List Nat) (w h : Nat) : List (Nat × Nat × Nat × Nat) :=
  let w0 := r.getD 0 0
  let bps := if bits w0 56 55 = 0 then 1 else 2
  let sx := if bits w0 58 57 = 3 then 1 else 2
  let sy := if bits w0 58 57 = 1 then 2 else 1
  let cw := (w + sx - 1) / sx * bps
  let ch := (h + sy - 1) / sy
  let py := bits (r.getD 3 0) 31 0
  let pc := bits (r.getD 3 0) 63 32
  (0, py, w * bps, h) :: (if bits w0 58 57 = 0 then []
    else [(bits (r.getD 4 0) 31 0, pc, cw, ch), (bits (r.getD 4 0) 63 32, pc, cw, ch)])

/-- The RANGE cases of R304. -/
def openGood (r : List Nat) : Bool :=
  let w0 := r.getD 0 0
  let std := bits w0 63 60
  let enc := bit w0 59
  let chroma := bits w0 58 57
  let depth := bits w0 56 55
  let size := bits (r.getD 2 0) 39 0
  let pool := bits (r.getD 1 0) 47 0
  let st := bits (r.getD 5 0) 47 0
  let blo := bits (r.getD 6 0) 47 0
  let bhi := bits (r.getD 7 0) 47 0
  let n := bits w0 52 48 + 1
  let profile :=
    if enc then (std == 1 && decide (chroma ≤ 2) && decide (depth ≤ 1)) || (std == 2 && chroma != 2 && depth == 1)
    else std == 1 || std == 2 || (std == 3 && decide (chroma ≤ 1) && decide (depth ≤ 1))
  profile && decide (depth ≤ 2) && (!enc || decide (bits w0 54 53 ≤ 1)) && decide (bits w0 47 34 < 8192) && decide (bits w0 33 20 < 4320) &&
    size % 64 == 0 && bits (r.getD 3 0) 31 0 % 64 == 0 && bits (r.getD 3 0) 63 32 % 64 == 0 &&
    decide (blo ≤ pool) && decide (pool + n * size ≤ bhi) && decide (blo ≤ st) && decide (st + 4194304 ≤ bhi) &&
    decide (blo < hbmSize) && decide (bhi ≤ hbmSize) &&
    (planes r (bits w0 47 34 + 1) (bits w0 33 20 + 1)).all fun p => decide (p.1 + p.2.1 * (p.2.2.2 - 1) + p.2.2.1 ≤ size)

/-- CODEC_OPEN. -/
def codecOpen (s : State) (j : CJob) : State :=
  if (cslot s j.slot).open_ then endJob s j.index 4 false
  else
    let x := memRead s .codec (j.f 1 47 0) 64
    match x.2.1 with
    | .wait => s
    | .ok =>
      let r := words8 x.2.2
      if openGood r then
        endJob (setCslot x.1 j.slot { open_ := true, record := r, ctx := j.ctx }) j.index 1 false
      else endJob x.1 j.index 3 false
    | _ => endJob x.1 j.index 5 true

/-- CODEC_RELEASE. -/
def codecRelease (s : State) (j : CJob) : State :=
  let x := cslot s j.slot
  if !x.open_ then endJob s j.index 4 false
  else endJob (setCslot s j.slot { x with outs := x.outs - (x.outs &&& j.f 2 31 0) }) j.index 1 false

/-- Ends the queued jobs of a slot with ABORT, leaving out the one with an index. -/
def abortQueued (s : State) (slot : Nat) (but : Option Nat) : State :=
  ((s.codec.jobs.filter fun j => j.queued && j.slot == slot && some j.index != but).map (·.index)).foldl (fun t i => endJob t i 6 false) s

/-- The signals of a slot's frames are dropped. -/
def quietFrames (s : State) (slot : Nat) : State :=
  { s with codec := { s.codec with jobs := s.codec.jobs.map fun j => if j.slot = slot then { j with quiet := true } else j } }

/-- CODEC_CLOSE: queued jobs end, frames in progress finish, and the slot is then free. -/
def codecClose (s : State) (j : CJob) : State :=
  let x := cslot s j.slot
  if !x.open_ then endJob s j.index 4 false
  else
    let s1 := abortQueued s j.slot (some j.index)
    if x.infl = 0 then endJob (setCslot s1 j.slot {}) j.index 1 false else s1

/-- The teardown of a context closes each slot that it owns, and the frames that it lets finish signal nothing (R311). -/
def codecTeardown (s : State) (c : Nat) : State :=
  (List.range 64).foldl (fun t n =>
    let x := cslot t n
    if x.open_ && x.ctx == c then
      let t1 := quietFrames (abortQueued t n none) n
      setCslot t1 n (if x.infl = 0 then {} else { x with closing := true })
    else t) s

/-! ## Units (R301, R309) -/

/-- The OP that a unit runs: units 0 to 3 decode, 4 and 5 encode, 6 and 7 search. -/
def unitOp (u : Nat) : Nat := if u < 4 then 2 else if u < 6 then 3 else 6

/-- The slot is open for the direction of a job. -/
def slotFits (x : CSlot) (op : Nat) : Bool := x.open_ && !x.closing && bit (x.record.getD 0 0) 59 == (op == 3)

/-- The output range of an ENCODE does not lie within the slot's (R306). -/
def outputBad (x : CSlot) (j : CJob) : Bool :=
  j.op == 3 && (decide (j.f 3 47 0 < bits (x.record.getD 6 0) 47 0) || decide (bits (x.record.getD 7 0) 47 0 < j.f 3 47 0 + j.f 2 31 0))

/-- The status that ends a job before it starts: STATE where its slot does not fit it, RANGE where its output lies outside the slot's range. -/
def refusal (x : CSlot) (j : CJob) : Option Nat := if !slotFits x j.op then some 4 else if outputBad x j then some 3 else none

/-- A job is ready: it ends before it starts, or its slot has fewer than U frames in progress and a free buffer. -/
def jobReady (s : State) (j : CJob) : Bool :=
  if j.op = 6 then true
  else
    let x := cslot s j.slot
    (refusal x j).isSome || (decide (x.infl < bits (x.record.getD 0 0) 54 53 + 1) && !x.freeList.isEmpty)

/-- µs that a stamp lies before now, in 32-bit arithmetic (R309). -/
def overdue (s : State) (stamp : Nat) : Int := imod (Int.ofNat s.us - Int.ofNat stamp + 2 ^ 31) (2 ^ 32) - 2 ^ 31

/-- A stamp saturates when it is more than 2^30 µs overdue. -/
def tooLate (s : State) (j : CJob) : Bool := decide ((2 : Int) ^ 30 < overdue s j.stamp)

/-- Job `a` goes before job `b`: the earlier effective stamp; a saturated one before one that is not; saturated ones in slot order that starts after the
one granted last, others the lower slot (R255 with the changes of R309). -/
def jobBefore (s : State) (a b : CJob) : Bool :=
  let key (j : CJob) : Int := min (overdue s j.stamp) (2 ^ 30)
  let rot (n : Nat) := (n + 65 - (s.codec.last + 1) % 65) % 65
  let rank (j : CJob) : Nat := if tooLate s j then rot j.slot else 65 + j.slot
  decide (key b < key a) || (key a == key b && decide (rank a < rank b))

/-- The job that a unit takes. -/
def pickJob (s : State) (op : Nat) : Option CJob :=
  let ok (j : CJob) : Bool := j.queued && j.op == op && jobReady s j &&
    !(s.codec.jobs.takeWhile fun x => x.index != j.index).any fun x => x.queued && x.slot == j.slot && j.op != 6
  (s.codec.jobs.filter ok).foldl (fun (best : Option CJob) j => match best with
    | none => some j
    | some b => if jobBefore s j b then some j else some b) none

/-- CODEC_UNIT_SCHEDULE: a free unit takes the ready job with the earliest stamp, and a free buffer with it. -/
def unitSchedule (s : State) (u : Nat) : State :=
  if s.fatal || s.codec.jobs.any (fun j => j.unit == some u) then s
  else match pickJob s (unitOp u) with
    | none => s
    | some j =>
      let x := cslot s j.slot
      match if j.op = 6 then none else refusal x j with
      | some st => endJob s j.index st false
      | none =>
        let s1 := if tooLate s j then { s with codec := { s.codec with last := j.slot } } else s
        if j.op = 6 then modJob s1 j.index fun y => { y with unit := some u }
        else
          let b := x.freeList.headD 0
          setCslot (modJob s1 j.index fun y => { y with unit := some u, buf := b }) j.slot { x with busy := x.busy + 2 ^ b, infl := x.infl + 1 }

/-- The job that a unit runs. -/
def onUnit (s : State) (u : Nat) (go : State → CJob → State) : State :=
  if s.fatal then s
  else match s.codec.jobs.find? fun j => j.unit == some u with
    | none => s
    | some j => go s j

/-! ## Frames (R305, R307) -/

/-- Bytes of a sample. -/
def sampleBytes (r : List Nat) : Nat := if bits (r.getD 0 0) 56 55 = 0 then 1 else 2

/-- Where component `c` of a buffer begins. -/
def planeAt (r : List Nat) (buf : Nat) (p : Nat × Nat × Nat × Nat) : Nat := bits (r.getD 1 0) 47 0 + buf * bits (r.getD 2 0) 39 0 + p.1

/-- A row that a write reaches lies outside [BLO, BHI) (R306). -/
def rowOutside (r : List Nat) (a n : Nat) : Bool := decide (a < bits (r.getD 6 0) 47 0) || decide (bits (r.getD 7 0) 47 0 < a + n)

/-- Writes the rows of one plane, whose bytes some reads may give; a row outside the slot's range is dropped. -/
def writePlane (r : List Nat) (base pitch : Nat) (row : Nat → State → State × MemEnd × List Byte) : List Nat → State → State × MemEnd
  | [], s => (s, .ok)
  | y :: t, s =>
    let z := row y s
    if z.2.1 ≠ .ok then (z.1, z.2.1)
    else if rowOutside r (base + pitch * y) z.2.2.length then writePlane r base pitch row t z.1
    else
      let w := memWrite z.1 .codec (base + pitch * y) z.2.2
      if w.2 = .ok then writePlane r base pitch row t w.1 else w

/-- Reads the rows of a plane. -/
def readPlane (base pitch n : Nat) : List Nat → State → State × MemEnd × List Byte
  | [], s => (s, .ok, [])
  | y :: t, s =>
    let x := memRead s .codec (base + pitch * y) n
    if x.2.1 ≠ .ok then x
    else
      let z := readPlane base pitch n t x.1
      (z.1, z.2.1, x.2.2 ++ z.2.2)

/-- Writes the components of a frame to a buffer. -/
def writeFrame (r : List Nat) (buf : Nat) (row : Nat → Nat → State → State × MemEnd × List Byte) : List ((Nat × Nat × Nat × Nat) × Nat) → State → State × MemEnd
  | [], s => (s, .ok)
  | (p, c) :: t, s =>
    let w := writePlane r (planeAt r buf p) p.2.1 (row c) (List.range p.2.2.2) s
    if w.2 = .ok then writeFrame r buf row t w.1 else w

/-- Reads ranges of bytes, for their errors alone. -/
def readAll : List (Nat × Nat) → State → State × MemEnd
  | [], s => (s, .ok)
  | (a, n) :: t, s =>
    let x := memRead s .codec a n
    if x.2.1 = .ok then readAll t x.1 else (x.1, x.2.1)

/-- The frame of the access unit taken last is in a buffer. -/
def CSlot.place (x : CSlot) (buf : Nat) : CSlot := { x with frames := (x.hist.length, buf) :: x.frames.filter fun f => f.2 != buf }

/-- The buffers of the frames that a property of their numbers holds of, as a mask. -/
def CSlot.mask (x : CSlot) (p : Nat → Bool) : Nat := (x.frames.filter fun f => p f.1).foldl (fun m f => m ||| 2 ^ f.2) 0

/-- The rows of the frames in the buffers of a mask that a frame reads for reference. -/
def refRows (x : CSlot) (mask : Nat) : List (Nat × Nat) :=
  let r := x.record
  (x.frames.filter fun f => bit mask f.2).flatMap fun f =>
    (planes r (bits (r.getD 0 0) 47 34 + 1) (bits (r.getD 0 0) 33 20 + 1)).zipIdx.flatMap fun pc =>
      ((List.range pc.1.2.2.2).filter fun y => Config.refRow r x.hist f.1 pc.2 y).map fun y => (planeAt r f.2 pc.1 + pc.1.2.1 * y, pc.1.2.2.1)

/-- The questions put to the decoding process: 0 how it stops (0 not, 1 SYNTAX, 2 UNSUP); 1 width, 2 height, 10 chroma format plus 1 and 11 depth code
plus 1 of the picture, each 0 where it has stopped before it read them; 3 ORDER; 4 SHOWN; 5 the kind of decoded picture hash that is present (0 none)
and 7 its value; 9 an existing frame is shown (0, or the number of its access unit). -/
def ask (x : CSlot) (k : Nat) : Nat := Config.decode x.record x.hist k

/-- The buffers of the frames that the latest frame references. -/
def CSlot.used (x : CSlot) : Nat := x.mask (Config.refers x.record x.hist) &&& x.refs

/-- The access unit joins the inputs of the slot, with how it ended: 0 at its end, 1 at its bound in time, 3 at a dropped write, 5 with an error; an encoded frame
with its QP and KEY times 2, or with 7 where it was not coded. The point at which it was cut follows from these inputs alone (R308). -/
def CSlot.take (x : CSlot) (cut : Nat) (bs : List Byte) : CSlot := { x with hist := (leBytes 8 cut ++ bs) :: x.hist }

/-- A frame of a slot is no longer in progress. -/
def CSlot.leave (x : CSlot) (buf : Nat) : CSlot := { x with busy := x.busy - (x.busy &&& 2 ^ buf), infl := x.infl - 1 }

/-- A frame of a slot has finished: a slot that closes is free once none is in progress. -/
def frameOver (s : State) (n : Nat) (x : CSlot) : State := setCslot s n (if x.closing && x.infl = 0 then {} else x)

/-- The state area of a slot, in bytes and from its address on (R304). -/
def areaBytes : Nat := 4194304
def CSlot.area (x : CSlot) : Nat := bits (x.record.getD 5 0) 47 0

/-- A unit saves the state of a slot after a frame of it, and loads it before the next one (R309). -/
def saveArea (s : State) (x : CSlot) : State × MemEnd :=
  memWrite s .codec x.area ((List.range areaBytes).map fun i => Config.stateArea x.record x.hist i)
def loadArea (s : State) (x : CSlot) : State × MemEnd := if x.saved then readAll [(x.area, areaBytes)] s else (s, .ok)

/-- The picture exceeds or differs from the stream record (R299). -/
def beyondRecord (x : CSlot) : Bool :=
  let w0 := x.record.getD 0 0
  decide (bits w0 47 34 + 1 < ask x 1) || decide (bits w0 33 20 + 1 < ask x 2) || (ask x 10 != 0 && ask x 10 != bits w0 58 57 + 1) ||
    (ask x 11 != 0 && ask x 11 != bits w0 56 55 + 1)

/-- Width and height of the frame that is written: the picture's, or the record's where they are not known or beyond it. -/
def frameSize (x : CSlot) : Nat × Nat :=
  let w0 := x.record.getD 0 0
  (if beyondRecord x || ask x 1 = 0 then bits w0 47 34 + 1 else ask x 1, if beyondRecord x || ask x 2 = 0 then bits w0 33 20 + 1 else ask x 2)

/-- How decoding stops (R307): 0 not, 1 SYNTAX, 2 UNSUP. -/
def stopOf (x : CSlot) : Nat := if beyondRecord x then 2 else ask x 0 % 3

/-- The buffer of an existing frame that an AV1 temporal unit shows: that which holds the frame (R302). -/
def shownBuffer (x : CSlot) : Option Nat :=
  if bits (x.record.getD 0 0) 63 60 = 2 then (x.frames.find? fun f => f.1 == ask x 9 && bit x.refs f.2).map (·.2) else none

/-- The buffers held for reference afterwards: of those held before and of the frame's own (R305). -/
def refsAfter (x : CSlot) (own : Nat) : Nat := x.mask (Config.keeps x.record x.hist) &&& (x.refs ||| own)

/-- What concealment writes into samples of a row (R307): the co-located ones of the frame output last, which are read from the first to the last of
them, or mid-range. -/
def concealRow (x : CSlot) (p : Nat × Nat × Nat × Nat) (y : Nat) (cols : List Nat) (s : State) : State × MemEnd × (Nat → Nat) :=
  let mid : Nat := 2 ^ (8 + 2 * bits (x.record.getD 0 0) 56 55 - 1)
  match x.last, cols with
  | none, _ => (s, .ok, fun _ => mid)
  | _, [] => (s, .ok, fun _ => mid)
  | some b, first :: more =>
    let k := sampleBytes x.record
    let z := memRead s .codec (planeAt x.record b p + p.2.1 * y + k * first) (k * (more.getLastD first + 1 - first))
    (z.1, z.2.1, fun col => leNat ((z.2.2.drop (k * (col - first))).take k))

/-- A row of a decoded frame: its samples, concealed where the block was not reconstructed. -/
def decodedRow (x : CSlot) (ps : List (Nat × Nat × Nat × Nat)) (conceals : Nat → Nat → Nat → Bool) (c y : Nat) (s : State) :
    State × MemEnd × List Byte :=
  let p := ps.getD c (0, 0, 0, 0)
  let k := sampleBytes x.record
  let n := p.2.2.1 / k
  let z := concealRow x p y ((List.range n).filter (conceals c y)) s
  (z.1, z.2.1, (List.range n).flatMap fun col => leBytes k (if conceals c y col then z.2.2 col else Config.decodeSample x.record x.hist c y col))

/-- The samples of a decoded frame, by components and rows. -/
def frameSamples (x : CSlot) (ps : List (Nat × Nat × Nat × Nat)) : List (List (List Nat)) :=
  ps.zipIdx.map fun pc => (List.range pc.1.2.2.2).map fun y =>
    (List.range (pc.1.2.2.1 / sampleBytes x.record)).map fun col => Config.decodeSample x.record x.hist pc.2 y col

/-- The decoded picture hash of the stream, where one is present, is not that of the samples (R300). -/
def hashBad (x : CSlot) (ps : List (Nat × Nat × Nat × Nat)) : Bool :=
  ask x 5 != 0 && Config.pictureHash (ask x 5) (frameSamples x ps) != ask x 7

/-- RES0 of a DECODE (Table 12-5). -/
def decodeRes (x : CSlot) (ps : List (Nat × Nat × Nat × Nat)) (buf stop : Nat) (bounds timeout refdmg : Bool) (dmg : Nat) : Nat :=
  ask x 3 % 2 ^ 32 * 2 ^ 32 + buf * 2 ^ 24 + ask x 4 % 2 * 2 ^ 23 + (if dmg = 0 && hashBad x ps then 2 ^ 22 else 0) +
    (if refdmg then 2 ^ 21 else 0) + (if stop = 2 then 2 ^ 20 else 0) + (if bounds then 2 ^ 19 else 0) + (if timeout then 2 ^ 18 else 0) +
    (if stop = 1 then 2 ^ 17 else 0) + dmg

/-- A sample of the frame is concealed: its coding block had not been reconstructed where decoding stopped, or the stream is not supported (R307). -/
def conceals (x : CSlot) (stop : Nat) (bad : Bool) (c y col : Nat) : Bool :=
  stop == 2 || (bad && !Config.reconstructed x.record x.hist (Config.codingBlock x.record x.hist c y col))

/-- DMGCTU: the coding blocks concealed, held at 0xFFFF (Table 12-5); every one has luma samples. -/
def damagedBlocks (x : CSlot) (ps : List (Nat × Nat × Nat × Nat)) (stop : Nat) (bad : Bool) : Nat :=
  let p := ps.headD (0, 0, 0, 0)
  let blocks := (List.range p.2.2.2).flatMap fun y =>
    ((List.range (p.2.2.1 / sampleBytes x.record)).filter (conceals x stop bad 0 y)).map (Config.codingBlock x.record x.hist 0 y)
  min 0xFFFF blocks.eraseDups.length

/-- A frame is written to its buffer, with concealment where decoding stopped, and the job ends (R305, R307). `x` has taken the access unit. DEDUCED (log
entry 65): a hidden frame is the one output last, too. -/
def decodeInto (timeout bounds : Bool) (s : State) (j : CJob) (x : CSlot) : State :=
  let stop := if timeout || bounds then 0 else stopOf x
  let bad := timeout || bounds || stop != 0
  let ps := planes x.record (frameSize x).1 (frameSize x).2
  let used := if stop = 2 then 0 else x.used
  let l := loadArea s x
  let q := if l.2 ≠ .ok then l else readAll (refRows x used) l.1
  let f := if q.2 ≠ .ok then q else writeFrame x.record j.buf (decodedRow x ps (conceals x stop bad)) ps.zipIdx q.1
  let a := if f.2 ≠ .ok then f else saveArea f.1 x
  if a.2 ≠ .ok then frameOver (endJob a.1 j.index 5 true) j.slot x
  else
    let refdmg := x.damaged &&& used != 0
    let s1 := endWith a.1 j.index (if bad then 2 else 1)
      (decodeRes x ps j.buf stop bounds timeout refdmg (if bad then damagedBlocks x ps stop bad else 0)) 0 false
    let own := 2 ^ j.buf
    frameOver (if timeout then s1.count codDmg 31 16 1 else s1) j.slot
      { x.place j.buf with
          outs := x.outs ||| own, refs := refsAfter (x.place j.buf) own, last := some j.buf, saved := true,
          damaged := if bad || refdmg then x.damaged ||| own else x.damaged - (x.damaged &&& own) }

/-- The DECODE of a unit ends: its access unit shows an existing frame, or is decoded into its buffer. A frame that has run for its bound waits for no host
data: what has not come is not decoded (R307). -/
def decodeFrame (timeout : Bool) (s : State) (j : CJob) : State :=
  let x0 := (cslot s j.slot).leave j.buf
  let au := memRead s .codec (j.f 1 47 0) (j.f 2 31 0)
  if au.2.1 = .wait ∧ timeout = false then s
  else
    if au.2.1 ≠ .ok ∧ au.2.1 ≠ .wait then frameOver (endJob au.1 j.index 5 true) j.slot (x0.take 5 [])
    else
      let x := x0.take (if timeout then 1 else 0) au.2.2
      match if timeout then none else shownBuffer x with
      | some b =>
        frameOver (endWith au.1 j.index 1 (ask x 3 % 2 ^ 32 * 2 ^ 32 + b * 2 ^ 24 + 2 ^ 23) 0 false) j.slot
          { x with outs := x.outs ||| 2 ^ b, refs := refsAfter x 0, last := some b }
      | none =>
        let bounds := (planes x.record (frameSize x).1 (frameSize x).2).any fun p =>
          (List.range p.2.2.2).any fun y => rowOutside x.record (planeAt x.record j.buf p + p.2.1 * y) p.2.2.1
        decodeInto timeout bounds au.1 j (if bounds then x0.take 3 au.2.2 else x)

/-- An earlier frame of the slot is still in progress: a later one, which may need its rows and whose outcome follows from its (R301, R308), ends after
it. -/
def frameBehind (s : State) (j : CJob) : Bool :=
  (s.codec.jobs.takeWhile fun x => x.index != j.index).any fun x => x.unit.isSome && x.slot == j.slot

/-- FBOUND of a slot in VCLK cycles: 0 stands for four nominal times, rounded up (Table 12-7). -/
def frameBound (x : CSlot) : Nat :=
  let w0 := x.record.getD 0 0
  let weight := [10, 15, 20, 30].getD (bits w0 58 57) 0
  let nominal := ((bits w0 47 34 + 1) * (bits w0 33 20 + 1) * weight + 23) / 24
  if bits w0 19 0 = 0 then (4 * nominal + 4095) / 4096 * 4096 else 4096 * bits w0 19 0

/-- CODEC_DECODE on a decode unit: the frame ends, with TIMEOUT where it has run beyond its bound. -/
def codecDecode (s : State) (u : Nat) : State :=
  onUnit s u fun t j => if j.op = 2 && !frameBehind t j then decodeFrame (decide (frameBound (cslot t j.slot) < j.ran)) t j else t

/-- Reads the planes of a source frame. -/
def readFrame (base : Nat) : List (Nat × Nat × Nat × Nat) → State → State × MemEnd × List Byte
  | [], s => (s, .ok, [])
  | p :: t, s =>
    let x := readPlane (base + p.1) p.2.1 p.2.2.1 (List.range p.2.2.2) s
    if x.2.1 ≠ .ok then x
    else
      let z := readFrame base t x.1
      (z.1, z.2.1, x.2.2 ++ z.2.2)

/-- A row of the reconstructed reference that encoding keeps. -/
def encodedRow (x : CSlot) (ps : List (Nat × Nat × Nat × Nat)) (c y : Nat) (s : State) : State × MemEnd × List Byte :=
  let k := sampleBytes x.record
  (s, .ok, (List.range ((ps.getD c (0, 0, 0, 0)).2.2.1 / k)).flatMap fun col => leBytes k (Config.encodeSample x.record x.hist c y col))

/-- The references that an encode stream keeps after a frame: at most the frame and the one before it, which a key frame ends (Table 12-2, R305). -/
def encodeRefs (x : CSlot) (buf : Nat) (key : Bool) : Nat :=
  let before := match x.last with
    | some b => if bit x.refs b && !key then 2 ^ b else 0
    | none => 0
  match Config.encodeKept x.record x.hist % 3 with
  | 0 => 0
  | 1 => 2 ^ buf
  | _ => 2 ^ buf ||| before

/-- The ENCODE of a unit ends (R302, R306, R308). The slot's inputs mark a frame that was not coded. -/
def encodeFrame (s : State) (j : CJob) : State :=
  let x1 := (cslot s j.slot).leave j.buf
  let r := x1.record
  let ps := planes r (bits (r.getD 0 0) 47 34 + 1) (bits (r.getD 0 0) 33 20 + 1)
  let src := readFrame (j.f 1 47 0) ps s
  if src.2.1 = .wait then s
  else
    let lost := x1.take 7 []
    if src.2.1 ≠ .ok then frameOver (endJob src.1 j.index 5 true) j.slot lost
    else
      let x := x1.take (2 * j.f 4 8 0) src.2.2
      let n := Config.encode r x.hist none
      let l := loadArea src.1 x
      let q := if l.2 ≠ .ok then l else readAll (refRows x (if j.f 4 8 8 = 1 then 0 else x.refs)) l.1
      if q.2 ≠ .ok then frameOver (endJob q.1 j.index 5 true) j.slot lost
      else if j.f 2 31 0 < n then frameOver (endJob q.1 j.index 7 false) j.slot lost
      else
        let w := memWrite q.1 .codec (j.f 3 47 0) ((List.range n).map fun i => BitVec.ofNat 8 (Config.encode r x.hist (some i)))
        let f := writeFrame r j.buf (encodedRow x ps) ps.zipIdx w.1
        let a := if w.2 ≠ .ok || f.2 ≠ .ok then (f.1, MemEnd.hole) else saveArea f.1 x
        if a.2 ≠ .ok then frameOver (endJob a.1 j.index 5 true) j.slot lost
        else
          frameOver (endWith a.1 j.index 1 0 n false) j.slot
            { x.place j.buf with saved := true, refs := encodeRefs x j.buf (j.f 4 8 8 = 1), last := some j.buf }

/-- CODEC_ENCODE on an encode unit. -/
def codecEncode (s : State) (u : Nat) : State := onUnit s u fun t j => if j.op = 3 && !frameBehind t j then encodeFrame t j else t

/-- FRAME_TIMEOUT on a decode unit: a frame that has run for its bound is concealed (R307). For an encode the specification states no bound. -/
def frameTimeout (s : State) (u : Nat) : State :=
  onUnit s u fun t j =>
    if j.op = 2 && decide (frameBound (cslot t j.slot) ≤ j.ran) && !frameBehind t j then decodeFrame true t j else t

end Sys2Proof.Machine
end

