-- ==== Sys2Proof/Machine/Hub.lean ====
section
/-! DEFINITION. What the hub does to whole units: slots and spares (R419 to R423), teardown and the end of a context (R327), and device-fatal
containment (R333). -/

namespace Sys2Proof.Machine

/-! ## Slots (Table 17-10) -/

/-- HUB_SLOTk.STATE: 0 UNTESTED, 1 BOUND, 2 SPARE, 3 FAILED, 4 RETIRED, 5 TESTING, 6 OFFLINE. -/
def slotState (s : State) (k : Nat) : Nat := s.fld (Off.slotReg k) 31 29
/-- The logical number bound to a slot; 0x7F none. -/
def slotLogical (s : State) (k : Nat) : Nat := s.fld (Off.slotReg k) 22 16
/-- Writes HUB_SLOTk. -/
def setSlot (s : State) (k st : Nat) (rebind : Bool) (logical cause : Nat) : State :=
  s.setReg (Off.slotReg k) (st * 2 ^ 29 + (if rebind then 2 ^ 23 else 0) + logical * 2 ^ 16 + cause * 2 ^ 8)

/-- The compute die of a slot: CD0 holds slots 0 to 51 (Table 1-2). -/
def slotDie (k : Nat) : Nat := k / 52
/-- The slots of a die. -/
def dieSlots (d : Nat) : List Nat := (List.range 52).map (52 * d + ·)
/-- The spares of a die, ascending. -/
def spares (s : State) (d : Nat) : List Nat := (dieSlots d).filter fun k => slotState s k == 2

/-- ENG_COUNT.SPARE0 and SPARE1 follow the slots. -/
def countSpares (s : State) : State := (s.setFld Off.engCount 26 24 (spares s 0).length).setFld Off.engCount 30 28 (spares s 1).length

/-- A slot is retired: it joins the retired list of the next configuration record (R421, R431). -/
def retireSlot (s : State) (k cause : Nat) : State :=
  let s1 := countSpares (setSlot s k 4 false 0x7F cause)
  let r := s1.dcr.next
  { s1 with dcr := { s1.dcr with next := { r with retired := r.retired ||| 2 ^ k }, due := true } }

/-- A slot fails a known-answer run after the start (R421, R422): it is retired, with a KAFAIL record. -/
def retireFailed (s : State) (k cause : Nat) : State := (retireSlot s k cause).appendRecord 0x0B 0x02 0 none none k 0

/-- The regulator and the engine group of a slot (R18, Table 1-2). -/
def groupOf (k : Nat) : Nat := k / 4
def regulatorOf (g : Nat) : Nat := [0, 0, 0, 0, 1, 1, 1, 2, 2, 2, 3, 3, 3, 4, 4, 4, 4, 5, 5, 5, 6, 6, 6, 7, 7, 7].getD g 0

/-- Steps 4 and 6 of R421: an unbound engine that awaits a spare takes the lowest one of its die for a test, or goes OFFLINE. -/
def rebindNext (s : State) (n : Nat) : State :=
  let g := s.eng n
  if !g.rebind || g.bound || g.spare ≠ 0 then s
  else match spares s (slotDie g.slot) with
    | [] =>
      (s.modEng n fun h => { h with rebind := false, online := false }).appendRecord 0x0B 0x05 2 none (some n) (n * 2 ^ 16) 0
    | k :: _ => countSpares (setSlot (s.modEng n fun h => { h with spare := k + 1 }) k 5 true 0x7F 0)

/-- R421 from step 3 for an engine. -/
def startRebind (s : State) (n : Nat) : State := rebindNext (s.modEng n fun g => { g with rebind := true, online := false, spare := 0 }) n

/-- The ENGFAIL record of a late failure. -/
def engFail (s : State) (n k cause : Nat) : State :=
  s.appendRecord 0x0B 0x03 2 (if (s.eng n).bound then some (s.eng n).ctx else none) (some n) (n * 2 ^ 16 + cause * 2 ^ 8 + k) 0

/-- A bound slot fails late (R421). -/
def lateFail (s : State) (n cause : Nat) : State :=
  let g := s.eng n
  let s1 := engFail (retireSlot s g.slot cause) n g.slot cause
  startRebind (if g.bound then s1.beginTeardown g.ctx 0x0B03 else s1) n

/-- The frequency of an engine group at a level (Table 16-2). -/
def eclk (l : Nat) : Nat := 600 + 100 * l

/-- A passing spare is bound under the logical number: the engine has the reset state of its window. -/
def bindSpare (s : State) (n k : Nat) : State :=
  let s1 := s.setEng n { slot := k, online := true }
  (countSpares (setSlot s1 k 1 false n 0)).appendRecord 0x0B 0x04 0 none (some n) (n * 2 ^ 16 + k) 0

/-- SPARE_TEST_DONE (R421 steps 4 and 5). A spare whose regulator browned out meanwhile waits for its RESTART (R434). -/
def spareTested (s : State) (n : Nat) (pass : Bool) : State :=
  let g := s.eng n
  if !g.rebind || g.spare = 0 then s
  else
    let k := g.spare - 1
    if slotState s k ≠ 5 then s
    else if pass then bindSpare s n k
    else rebindNext ((retireFailed s k 4).modEng n fun h => { h with spare := 0 }) n

/-- LATE_ENGINE_FAILURE: the memory of the engine's slot has raised a second uncorrectable ECC trap (Table 17-5). -/
def lateEngine (s : State) (n : Nat) : State :=
  let g := s.eng n
  if !g.online || s.fatal || SMap.get zeroNat s.boot.ueTraps g.slot < 2 then s else lateFail s n 1

/-- A write of HUB_RETIRE (R423). -/
def retireWrite (s : State) (v : Nat) : State :=
  if !s.writable Off.hubRetire then s
  else
    let n := bits v 6 0
    let s1 := s.setReg Off.hubRetire (putBits n 30 30 (if bit v 30 then 0 else s.fld Off.hubRetire 30 30))
    if !bit v 31 then s1
    else if s1.fld Off.engCount 22 16 ≤ n || !(s1.eng n).online then s1.setFld Off.hubRetire 30 30 1
    else lateFail s1 n 3

/-! ## Completion of an item -/

/-- What an item leaves on its way ends with it, so that nothing passes to the next (R318): the semaphore additions of deferred edits. -/
def quietEdits (s : State) (c : Nat) : State :=
  { s with kv := { s.kv with edits := s.kv.edits.map fun d => if d.ctx = c then { d with quiet := true } else d } }

/-- WORK_ITEM_COMPLETE (R294, R318, R319, R325). -/
def workComplete (s : State) (c : Nat) : State :=
  if s.fatal || (s.ctxState c ≠ 2 && s.ctxState c ≠ 3) || !allDone s c then s
  else
    let s0 := flushMarks s c
    match (s0.ctx c).item with
    | none => s0
    | some it =>
      let dt := s0.us - it.startUs
      let t := min dt (2 ^ 32 - 1)
      let late := bits (it.words.getD 3 0) 63 32 != 0 && decide (bits (it.words.getD 3 0) 63 32 < dt)
      let fb := s0.fld (Off.ctxReg c 0x28) 31 31 == 1
      let miss := s0.fld (Off.ctxReg c 0x28) 30 30 == 1
      let s1 := s0.setReg (Off.ctxReg c 0x24) t
      let s2 := (memWrite s1 .sched (workAddr s1 it.index + 56) (leBytes 8 (t * 2 ^ 32 + s1.reg (Off.ctxReg c 0x20)))).1
      let s3 := workStatus s2 it.index (it.words.getD 0 0) (if late then 2 else 1) fb miss
      let s4 := if late then s3.appendRecord 0x02 0x07 0 (some c) none it.index 0 else s3
      let s5 := ((unbindSet (quietEdits s4 c) c).setCtxState c 1).modCtx c fun x => { x with item := none, preempt := false }
      endKeys (workEnd s5 it.index) c

/-! ## Teardown (R327) -/

/-- Collective requests of a teardown's steps that have not been acknowledged or timed out. -/
def collPending (s : State) (c : Nat) : Bool :=
  s.coll.steps.any (fun x => x.ctx == c) || s.fabric.reqs.any fun q => q.op == 8 && (s.ctx c).colIds.contains q.id

/-- Step 3 has ended: no Skidder transfer of the set runs (R327, R380). -/
def transfersEnded (s : State) (c : Nat) : Bool :=
  (s.ctx c).members.all (fun e => (s.eng e).skidderIdle) && !collPending s c

/-- The context's items that are pending end with ABORT (Table 13-4); one that cannot be read stays. -/
def abortItems (s : State) (c : Nat) : State :=
  (workPending s).foldl (fun t i =>
    let x := memRead t .sched (workAddr t i) 64
    if x.2.1 = .ok && bits (leNat (x.2.2.take 8)) 63 58 = c then workRefuse x.1 i (leNat (x.2.2.take 8)) 5 else x.1) s

/-- Marks of a context that are on their way end with its item (R318). -/
def dropMarks (s : State) (c : Nat) : State :=
  { s with sched := { s.sched with marks := s.sched.marks.filter fun m => m.1 != c } }

/-- The bound item ends with FAULT. -/
def faultItem (s : State) (c : Nat) : State :=
  match (s.ctx c).item with
  | none => s
  | some it =>
    let w := it.words.getD 0 0
    workEnd (workStatus ((dropMarks s c).modCtx c fun x => { x with item := none }) it.index w 3 (s.fld (Off.ctxReg c 0x28) 31 31 == 1)
      (s.fld (Off.ctxReg c 0x28) 30 30 == 1)) it.index

/-- Flash commands, codec jobs and deferred edits of a context that ends add nothing any more (R290, R303). -/
def quietWork (s : State) (c : Nat) : State :=
  quietEdits { s with flash := { s.flash with cmds := s.flash.cmds.map fun d => if d.ctx = c then { d with quiet := true } else d },
                      codec := { s.codec with jobs := s.codec.jobs.map fun j => if j.ctx = c then { j with quiet := true } else j } } c

/-- The context's monitors, adapter slots and codec slots are released, and its signals are dropped. -/
def releaseAll (s : State) (c : Nat) : State := codecTeardown (eraseOwned (releaseMonitors (quietWork s c) c) c) c

/-- Steps 4 to 6 of R327. -/
def finishTeardown (s : State) (c : Nat) : State :=
  let ms := (s.ctx c).members
  let s1 := unbindSet (releaseAll s c) c
  let s2 := abortItems (faultItem s1 c) c
  let s3 := s2.appendRecord 0x02 0x01 1 (some c) none (s2.ctx c).cause 0
  let s4 := (s3.setCtxState c 7).modCtx c fun x => { x with cause := 0, colIds := [] }
  ms.foldl rebindNext s4

/-- TEARDOWN: the context's collective steps end, and once every transfer has ended the teardown is finished. -/
def teardown (s : State) (c : Nat) : State :=
  if s.ctxState c ≠ 6 || s.fatal then s
  else
    let ids := (s.coll.steps.filter fun x => x.ctx == c).map (·.id)
    let s1 := (collTeardown s c).modCtx c fun x => { x with colIds := x.colIds ++ ids }
    if transfersEnded s1 c then finishTeardown s1 c else s1

/-- CTX_END: from IDLE or TORN the context's resources are released and it is FREE (Table 13-2). -/
def ctxEnd (s : State) (c : Nat) : State :=
  if s.ctxState c = 1 || s.ctxState c = 7 then (abortItems (releaseAll s c) c).setCtxState c 0 else ctxRej s c

/-! ## Device-fatal containment (R332, R333) -/

/-- Reports an AER error by its number (Table 18-2): 0 Poisoned TLP Received, 1 Completion Timeout, 2 Unsupported Request, 3 Completer Abort,
4 Uncorrectable Internal Error, 5 Corrected Internal Error; with the severity that stands for it. -/
def reportAer (s : State) (i : Nat) : State :=
  { s with host := { s.host with aer := s.host.aer ++ [(i, s.host.config.severity.getD i .nonFatal)] } }

/-- Every slip goes down with cause FATAL. -/
def allSlipsDown (s : State) (cause : Nat) : State := (List.range 16).foldl (fun t n => linkDown t n cause) s

/-- FATAL_CONTAINMENT. A start in progress stops (R434); the collective engines stop, and what the fabric holds for this device is gone (R380). -/
def contain (s : State) (cause : Nat) : State :=
  if s.fatal then s.count Off.errFatal 15 8 1
  else
    let s1 := ((s.setReg Off.errFatal (2 ^ 31 + cause % 256)).setFld Off.hubStatus 30 30 1).setFld Off.errStatus 30 30 1
    let s2 := (List.range 96).foldl (fun t n => if (t.eng n).bound then t.modEng n unbindEngine else t) s1
    let s3 := (allSlipsDown s2 6).raiseIrq 5
    let s4 := reportAer s3 4
    let b := s4.boot
    let f := s4.fabric
    { s4 with boot := { b with running := false, trouble := true }, fabric := { f with routing := [], inbox := [], reqs := [] }, coll := {} }

/-- Requests to other devices that a transfer of the set awaits. -/
def remotePending (s : State) (c : Nat) : Bool :=
  s.fabric.reqs.any fun q => (s.ctx c).colIds.contains q.id || (s.ctx c).members.any fun e =>
    ((s.eng e).fillQ ++ (s.eng e).spillQ).any fun x => x.id == q.id

/-- TEARDOWN_STALL: step 3 has lasted 10 ms, time that remote requests take apart (Table 13-8). -/
def teardownStall (s : State) (c : Nat) : State :=
  if s.ctxState c ≠ 6 || transfersEnded s c || remotePending s c || s.us < (s.ctx c).tearUs + 10000 then s else contain s 4

end Sys2Proof.Machine
end

