-- ==== Sys2Proof/Machine/Levels.lean ====
section
/-! DEFINITION. The consumers of power with their levels, costs and charges (R393 to R395, R398). -/

namespace Sys2Proof.Machine

/-! ## Consumers, levels and costs (R394, R395) -/

namespace Off
def pwrBudget : Nat := 0x100000
def pwrCtl : Nat := 0x100004
def pwrState : Nat := 0x100008
def pwrStatus : Nat := 0x10000C
def pwrWake : Nat := 0x100010
def pwrSpend : Nat := 0x100014
def pwrInput : Nat := 0x100018
def pwrTherm : Nat := 0x10001C
def pwrReq (c : Nat) : Nat := 0x100100 + 8 * c
def pwrGrant (c : Nat) : Nat := 0x100104 + 8 * c
def pwrOpp (l : Nat) : Nat := 0x100400 + 4 * l
def pwrIvr (v : Nat) : Nat := 0x100500 + 4 * v
end Off

/-- The top level of a consumer: engine groups 0 to 25, stacks 26 to 37, codec 38, flash 39 (Table 16-2). -/
def topLevel (c : Nat) : Nat := if c < 26 then 10 else if c < 38 then 16 else if c = 38 then 3 else 16

/-- The cost of a consumer at a level under operating-point costs and an activity. -/
def costOf (opp : List Nat) (act c l : Nat) : Nat :=
  if c < 26 then (opp.getD l 0 * (act + 1) + 255) / 256
  else if c < 38 then 8000 + 2625 * l
  else if c = 38 then 6000 + 6000 * (l + 1)
  else 5000 + 2500 * l

/-- PWR_OPPl as the registers hold it. -/
def oppRegs (s : State) : List Nat := (List.range 11).map fun l => s.fld (Off.pwrOpp l) 15 0

/-- PRI, FLOOR, REQ and ACT of a request word as they act (R396). -/
structure Plan where
  pri : Nat
  floor : Nat
  req : Nat
  act : Nat
  deriving DecidableEq, Repr

/-- The plan of a PWR_REQc word. -/
def planOf (c w : Nat) : Plan :=
  let fl := min (bits w 28 24) (topLevel c)
  ⟨bits w 31 30, fl, max fl (min (bits w 20 16) (topLevel c)), bits w 15 8⟩

/-- The plan of consumer `c`. -/
def plan (s : State) (c : Nat) : Plan := planOf c (s.reg (Off.pwrReq c))

/-- The sum over the consumers. -/
def sumOf (f : Nat → Nat) : Nat := ((List.range 40).map f).foldl (· + ·) 0

/-- The pool of a budget in W (R393). -/
def poolOf (w : Nat) : Nat := w * 1000 * 15 / 16 - 275000

/-! ## Levels and charges (R398) -/

def levelOf (s : State) (c : Nat) : Nat := SMap.get zeroNat s.power.level c
def targetOf (s : State) (c : Nat) : Nat := SMap.get zeroNat s.power.target c
/-- 1 + the level that a change in progress goes to; 0: none. -/
def movingOf (s : State) (c : Nat) : Nat := SMap.get zeroNat s.power.moving c
/-- The activity sampled of a consumer. -/
def actOf (s : State) (c : Nat) : Nat := SMap.get zeroNat s.power.act c

/-- What a consumer may draw: its old cost until a lowering completes, and otherwise the cost of the higher of its level and the one that a raise goes to. -/
def loadOf (s : State) (c : Nat) : Nat :=
  let h := SMap.get zeroNat s.power.held c
  if h ≠ 0 then h else costOf s.power.opp (actOf s c) c (max (levelOf s c) (movingOf s c - 1))

/-- An engine of the group is bound to a context. -/
def boundGroup (s : State) (g : Nat) : Bool := (List.range 96).any fun n => (s.eng n).bound && groupOf (s.eng n).slot == g

/-- What a consumer is charged, as PWR_GRANTc.COST reads: nothing before the first interval; a group with no engine bound, its FLOOR level (R395). -/
def chargedOf (s : State) (c : Nat) : Nat :=
  if s.power.opp.isEmpty then 0
  else if c < 26 && !boundGroup s c then costOf s.power.opp (actOf s c) c (SMap.get zeroNat s.power.floor c)
  else loadOf s c

end Sys2Proof.Machine
end

