-- ==== Sys2Proof/Machine/Bar2.lean ====
section
/-! DEFINITION. The host's window BAR2 (R33 to R35) and the state of the device that decides who is served (R404, R414, R426, R464). -/

namespace Sys2Proof.Machine

/-- PWR_STATE.STATE as it reads: a device that has started is in P1 whenever no engine is bound to a context (R404). -/
def powerShown (s : State) : Nat :=
  let st := powerState s
  if 2 ≤ st then st else if (s.ready || s.compReset) && (List.range 96).all (fun n => !(s.eng n).bound) then 1 else 0

/-- The device address of BAR2 offset `x` (R33). -/
def bar2Addr (s : State) (x : Nat) : Nat := s.fld Off.bar2Base 9 0 * 2 ^ 30 + x % 2 ^ 36

/-- A hole is counted (R31). -/
def bar2Hole (s : State) : State := s.count Off.bar2Hole 15 0 1

/-- Free bytes. -/
def freeBytes : Nat → State → State × List Byte
  | 0, s => (s, [])
  | n + 1, s =>
    let x := s.draw
    let y := freeBytes n x.1
    (y.1, BitVec.ofNat 8 x.2 :: y.2)

/-- A read that reaches device memory: zeros at a hole, poisoned data of no stated value at an uncorrectable line (R31, R271). -/
def bar2Do (s : State) (r : Bar2Req) : State :=
  match r with
  | .read a n =>
    let x := memRead s .bar2 a n
    match x.2.1 with
    | .ok => answerBytes x.1 x.2.2 false
    | .ecc =>
      let y := freeBytes n x.1
      answerBytes y.1 y.2 true
    | _ => answerBytes (bar2Hole x.1) (List.replicate n 0#8) false
  | .write a bytes =>
    let x := memWrite s .bar2 a bytes
    if x.2 = .hole then bar2Hole x.1 else x.1

/-- Requests that waited are served in order once the memory is ready. -/
def serveHeld (s : State) : State :=
  s.host.held.foldl bar2Do { s with host := { s.host with held := [] } }

/-- A BAR2 request: not served where the function is silent; ones or dropped in P2; only reads after containment; waiting while the memory is not ready. -/
def bar2Request (s : State) (r : Bar2Req) : State :=
  if hostSilent s then s
  else if powerState s = 2 then
    match r with
    | .read _ n => answerBytes s (List.replicate n 0xFF#8) false
    | .write _ _ => s
  else if s.fatal then
    match r with
    | .read _ _ => bar2Do s r
    | .write _ _ => s
  else if !s.boot.memReady then { s with host := { s.host with held := s.host.held ++ [r] } }
  else bar2Do s r

/-- A write with poisoned data is dropped and reported (R441). -/
def poisonedWrite (s : State) : State := if hostSilent s then s else reportAer s 0

/-- HUB_BAR2_BASE_WRITE (R35). -/
def bar2BaseWrite (s : State) (v : Nat) : State :=
  if !s.writable Off.bar2Base then s
  else if 800 < bits v 9 0 then s.setFld Off.bar2Base 31 31 1
  else (if bit v 31 then s.setFld Off.bar2Base 31 31 0 else s).setFld Off.bar2Base 9 0 v

end Sys2Proof.Machine
end

