-- ==== Sys2Proof/Machine/Record.lean ====
section
/-! DEFINITION. The bytes of a copy of the configuration record (R427, R428): its layout, when it is intact, and what it holds. The layout inside the sections
is the model's (log entry 125). -/

namespace Sys2Proof.Machine

/-- MAGIC: the ASCII bytes "MV25DCR" and 0x00. -/
def dcrMagic : List Byte := [0x4D#8, 0x56#8, 0x32#8, 0x35#8, 0x44#8, 0x43#8, 0x52#8, 0#8]

/-- HBM training: whether there are settings, then 16 KiB per stack. -/
def hbmSection (r : Record) : List Byte := if r.hbm then 1#8 :: (List.range 196608).map Config.hbmSettings else [0#8]

/-- HBM repair maps and candidates, a word as MEM_REPAIRs shows it per stack. -/
def repairSection (r : Record) : List Byte := ((List.range 12).map fun st => leBytes 4 (SMap.get zeroNat r.memRepair st)).flatten

/-- LND_REPAIR of each die. -/
def landingSection (r : Record) : List Byte := ((List.range 2).map fun d => leBytes 2 (SMap.get zeroNat r.lndRepair d)).flatten

/-- The 4 KiB of a slip: its number, the partner's UID and slip, and the settings. -/
def slipSettings (p : Nat × Nat) : List Byte :=
  leBytes 1 p.1 ++ leBytes 8 ((p.2 - 1) / 16) ++ leBytes 1 ((p.2 - 1) % 16) ++ (List.range 4086).map (Config.slipSettings p.1)

/-- Slip training: how many slips have settings, then 4 KiB for each. -/
def slipSection (r : Record) : List Byte := leBytes 1 r.slips.length ++ (r.slips.map slipSettings).flatten

/-- An entry of the expected topology (R433). -/
def topoBytes (t : TopoEntry) : List Byte := leBytes 8 t.uid ++ leBytes 1 t.slip ++ leBytes 1 (if t.req then 1 else 0) ++ leBytes 6 0

/-- The expected topology, 256 bytes. -/
def topoSection (r : Record) : List Byte := ((List.range 16).map fun i => topoBytes (r.topo.getD i {})).flatten

/-- A copy of the record (Table 17-6). -/
def recordBytes (r : Record) : List Byte :=
  let secs := hbmSection r ++ repairSection r ++ landingSection r ++ slipSection r ++ topoSection r
  let b := dcrMagic ++ leBytes 8 r.gen ++ leBytes 4 (secs.length + 68) ++ leBytes 4 1 ++ leBytes 4 r.lmsRsv ++ leBytes 4 0 ++ leBytes 14 r.retired ++
    leBytes 18 0 ++ secs
  b ++ leBytes 4 (crc32c b)

/-- `n` bytes from `o` as a number. -/
def fieldAt (b : List Byte) (o n : Nat) : Nat := leNat ((b.drop o).take n)

/-- LEN of a copy. -/
def recordLen32 (b : List Byte) : Nat := fieldAt b 16 4

/-- A copy is intact (R428). -/
def intactBytes (b : List Byte) : Bool :=
  let n := recordLen32 b
  b.take 8 == dcrMagic && decide (64 ≤ n) && decide (n ≤ 1048576) && decide (n ≤ b.length) && fieldAt b (n - 4) 4 == crc32c (b.take (n - 4))

/-- An entry of a topology table (R433). -/
def topoEntry (bs : List Byte) : TopoEntry := ⟨leNat (bs.take 8), leNat ((bs.drop 8).take 1), bit (leNat ((bs.drop 9).take 1)) 0⟩

/-- The sixteen entries of a topology table; a table of zeros is none. -/
def topoTable (bs : List Byte) : List TopoEntry :=
  let l := (List.range 16).map fun i => topoEntry ((bs.drop (16 * i)).take 16)
  if l.all fun t => t == {} then [] else l

/-- What the bytes of an intact copy hold. -/
def parseRecord (b : List Byte) : Record :=
  let hbm := fieldAt b 64 1 == 1
  let o1 := if hbm then 65 + 196608 else 65
  let o3 := o1 + 52
  let n := fieldAt b o3 1
  let slip (i : Nat) : Nat := o3 + 1 + 4096 * i
  { gen := fieldAt b 8 8, lmsRsv := fieldAt b 24 4, retired := fieldAt b 32 14, hbm := hbm
    memRepair := (List.range 12).foldl (fun m st => SMap.set zeroNat m st (fieldAt b (o1 + 4 * st) 4)) []
    lndRepair := (List.range 2).foldl (fun m d => SMap.set zeroNat m d (fieldAt b (o1 + 48 + 2 * d) 2)) []
    slips := (List.range n).foldl (fun m i =>
      SMap.set zeroNat m (fieldAt b (slip i) 1) (16 * fieldAt b (slip i + 1) 8 + fieldAt b (slip i + 9) 1 + 1)) []
    topo := topoTable ((b.drop (slip n)).take 256) }

/-- The bytes of a copy as the flash holds them; none stands for the copy that the device leaves manufacture with. -/
def copyBytes (c : Option (List Byte)) : List Byte := c.getD (recordBytes {})

/-- The intact copies: their bytes 0 to LEN − 1 and what they hold. -/
def intactCopies (cs : List (Option (List Byte))) : List (List Byte × Record) :=
  cs.filterMap fun c =>
    let b := copyBytes c
    if intactBytes b then some (b.take (recordLen32 b), parseRecord b) else none

end Sys2Proof.Machine
end

