-- ==== Sys2Proof/Machine/Boot.lean ====
section
/-! DEFINITION. Bring-up and reset (R413 to R426), the configuration record (R427 to R433) and the fabric join. -/

namespace Sys2Proof.Machine

/-! ## The configuration record -/

/-- How a record was selected (HUB_DCR.SEL): 0 none, 1 pair, 2 highest, 3 inconsistent. -/
structure Selection where
  sel : Option Record
  src : Nat
  lmsNext : Nat
  intact : Nat
  topGen : Nat
  deriving DecidableEq, Repr

/-- The largest of a list of numbers; 0 of none. -/
def largest (l : List Nat) : Nat := l.foldl max 0

/-- The first copy whose bytes another one agrees with (R428). -/
def agreeing : List (List Byte × Record) → Option Record
  | [] => none
  | c :: t => if t.any fun d => d.1 == c.1 then some c.2 else agreeing t

/-- The selection of R429. -/
def selectRecord (cs : List (Option (List Byte))) : Selection :=
  let good := intactCopies cs
  let mask := ((cs.zipIdx.map fun p => if intactBytes (copyBytes p.1) then 2 ^ p.2 else 0).foldl (· + ·) 0)
  let next := if good.isEmpty then 1048576 else largest (good.map (·.2.lmsRsv))
  let g := largest (good.map (·.2.gen))
  match agreeing good with
  | some r => ⟨some r, 1, next, mask, g⟩
  | none =>
    if good.isEmpty then ⟨none, 0, next, mask, g⟩
    else match good.filter fun r => r.2.gen == g with
      | [r] => ⟨some r.2, 2, next, mask, g⟩
      | _ => ⟨none, 3, next, mask, g⟩

/-- LMS_NEXT and LMS_RSV of the committed record (SEC_LMS). -/
def lmsNext (s : State) : Nat := s.reg 0x400018
def lmsRsv (s : State) : Nat := s.reg 0x40001C
/-- The LMS key is exhausted (R458). -/
def lmsExhausted (s : State) : Bool := !decide (lmsNext s < 1048576)

/-- The one LMS_EXHAUSTED record per start. -/
def lmsRecord (s : State) (next : Nat) : State :=
  if s.boot.lmsSaid then s
  else
    let b := s.boot
    { s with boot := { b with lmsSaid := true } }.appendRecord 0x09 0x01 0 none none next 0

/-- EXH and the one record per start (R458). -/
def noteExhausted (s : State) : State := if !lmsExhausted s then s else lmsRecord (s.setFld 0x400020 31 31 1) (lmsNext s)

/-- A DCR record: SEL, WRFAIL and the intact copies. -/
def dcrRecord (s : State) : State :=
  s.appendRecord 0x0B 0x06 0 none none
    (s.fld Off.hubDcr 28 27 + 4 * s.fld Off.hubDcr 29 29 + 16 * s.fld Off.hubDcr 26 24) 0

/-- Olmup reads and selects the record at step 4 of a start. A reservation that a losing copy holds stands in the next write too, so that LMS_NEXT never goes
back (R429). -/
def loadRecord (s : State) : State :=
  let x := selectRecord s.dcr.copies
  let r := x.sel.getD { gen := 0 }
  let s1 := s.setReg Off.hubDcr ((if x.src = 3 then 2 ^ 30 else 0) + x.src * 2 ^ 27 + x.intact * 2 ^ 24)
  let s2 := s1.setReg64 Off.hubDcrgen r.gen
  let rsv := if x.sel.isSome then r.lmsRsv else x.lmsNext
  let s3 := (s2.setReg 0x400018 x.lmsNext).setReg 0x40001C rsv
  let d := s3.dcr
  let s4 := { s3 with dcr := { d with
    next := { r with lmsRsv := max rsv x.lmsNext }, topGen := x.topGen, due := decide (x.src ≠ 1), writing := none, slips := r.slips, newSlips := [] } }
  noteExhausted (if x.src = 3 then dcrRecord s4 else s4)

/-- What a write would hold: the content learned so far, with the settings and repair candidates gathered (R431). -/
def recordNow (s : State) : Record :=
  let d := s.dcr
  let slips := d.newSlips.foldl (fun m p => SMap.set zeroNat m p.1 p.2) d.next.slips
  let mem := (List.range 12).foldl (fun m st =>
    SMap.set zeroNat m st (s.reg (Off.memReg st 0x1C))) []
  { d.next with slips := slips, memRepair := mem }

/-- A write is due after READY (R431). -/
def writeDue (s : State) : Bool :=
  s.ready && (s.dcr.due || !s.dcr.newSlips.isEmpty || (List.range 12).any fun st =>
    SMap.get zeroNat s.dcr.next.memRepair st != s.reg (Off.memReg st 0x1C))

/-- Begins a write: one more than the largest generation of a copy that was intact at the last selection or write (R430). None begins once power-fail is signalled (R446). -/
def beginWrite (s : State) : State :=
  if s.dcr.writing.isSome || s.powerFail || !s.ready || s.fatal then s
  else
    let d := s.dcr
    let r := { recordNow s with gen := 1 + d.topGen }
    { s with dcr := { d with writing := some r, at_ := 0, failed := false, next := r, due := false, slips := r.slips, newSlips := [] } }.setFld
      Off.hubDcr 31 31 1

/-- A record has been written: committed when all three copies verified. -/
def endWrite (s : State) (r : Record) : State :=
  let d := s.dcr
  let s1 := { s with dcr := { d with writing := none, due := d.due || d.failed } }.setFld Off.hubDcr 31 31 0
  if d.failed then s1
  else ((((s1.setFld Off.hubDcr 30 30 0).setReg64 Off.hubDcrgen r.gen).setReg 0x40001C r.lmsRsv)).raiseIrq 9


/-- LMS_RESERVATION_COMMIT (R432): when the next index has come within 256 of the reservation, a record with 1,024 more is written. -/
def lmsCommit (s : State) : State :=
  if !s.ready || lmsNext s + 256 < lmsRsv s || 1048576 ≤ lmsRsv s || s.dcr.writing.isSome then s
  else
    let d := s.dcr
    beginWrite { s with dcr := { d with next := { d.next with lmsRsv := min 1048576 (max (lmsRsv s) (lmsNext s) + 1024) }, due := true } }

/-- A command of HUB_DCRCMD changes what the next write holds, and a write begins. -/
def dcrChange (s : State) (f : Record → Record) : State :=
  let d := s.dcr
  beginWrite { s with dcr := { d with next := f d.next, due := true } }

/-- Set topology from an address: a table that cannot be read changes nothing. -/
def dcrSetTopology (s : State) (a : Nat) : State :=
  let x := memRead s .sched a 256
  if x.2.1 ≠ .ok then x.1 else dcrChange x.1 fun r => { r with topo := topoTable x.2.2 }

/-- A command of HUB_DCRCMD with the address that stood in it. -/
def dcrRun (s : State) (c : Nat × Nat) : State :=
  match c.1 with
  | 1 => dcrChange s id
  | 2 => dcrSetTopology s c.2
  | 3 => dcrChange s fun r => { r with retired := 0 }
  | 4 => dcrChange s fun r => { r with topo := [] }
  | _ => s

/-- A command waits for the end of a write (R434), and one that reads its table for the memory (R21). -/
def dcrWaits (s : State) (c : Nat × Nat) : Bool := s.dcr.writing.isSome || (c.1 == 2 && (memDown s || !s.boot.memReady))

/-- Commands run in order until one has to wait; the others wait behind it (R434). -/
def dcrRunAll : List (Nat × Nat) → State → State
  | [], s => s
  | c :: t, s =>
    if dcrWaits s c then { s with dcr := { s.dcr with cmds := c :: t } } else dcrRunAll t (dcrRun s c)

/-- The commands that waited for the end of a write or for the memory. -/
def dcrResume (s : State) : State := dcrRunAll s.dcr.cmds { s with dcr := { s.dcr with cmds := [] } }

/-- DCR_WRITE: begins a write that is due, or writes the next copy and reads it back; `bad`: read-back failed twice. Commands that came meanwhile run
after the write (R434). -/
def dcrWrite (s : State) (bad : Bool) : State :=
  match s.dcr.writing with
  | none => if writeDue s then beginWrite s else s
  | some r =>
    if s.fatal then s
    else
      let d := s.dcr
      let cs := d.copies.set d.at_ (some (if bad then [] else recordBytes r))
      let s1 := { s with dcr := { d with
        copies := cs, topGen := if bad then d.topGen else max d.topGen r.gen, at_ := d.at_ + 1, failed := d.failed || bad } }
      let s2 := if bad then (dcrRecord (s1.setFld Off.hubDcr 29 29 1)).raiseIrq 9 else s1
      if 2 ≤ d.at_ then dcrResume (endWrite s2 r) else s2

/-- A write of HUB_DCRCMD; CMD stands in its high word. -/
def dcrCmdWrite (s : State) (a : Acc) (v : Nat) : State :=
  if !s.writable Off.hubDcrcmd then s
  else
    let w := accMerge (s.reg64 Off.hubDcrcmd) a v
    let s1 := s.setReg64 Off.hubDcrcmd (bits w 47 6 * 64)
    if a = .low then s1
    else
      let c := (bits w 63 61, bits w 47 6 * 64)
      if !s1.dcr.cmds.isEmpty || dcrWaits s1 c then { s1 with dcr := { s1.dcr with cmds := s1.dcr.cmds ++ [c] } } else dcrRun s1 c

/-! ## Join (R433) -/

/-- Slips of the expected topology that disagree with the discovered one, as a mask. -/
def disagree (s : State) : Nat :=
  ((s.dcr.next.topo.zipIdx.map fun p =>
    if p.1.req && !(slipUp s p.2 && s.reg64 (slipReg p.2 0x10) == p.1.uid && s.fld (slipReg p.2 8) 27 24 == p.1.slip) then 2 ^ p.2
    else 0).foldl (· + ·) 0)

/-- Olmup evaluates agreement until JOIN is set. -/
def evaluateJoin (s : State) : State :=
  if s.fld fabCtl 30 30 = 1 || !(s.dcr.next.topo.any (·.req)) then s
  else if disagree s = 0 then s.setFld fabCtl 30 30 1
  else if s.boot.topoSaid then s
  else
    let b := s.boot
    { s with boot := { b with topoSaid := true } }.appendRecord 0x0B 0x08 0 none none (disagree s) 0

/-- Evaluation when a slip with REQ has become UP, after step 10 of a start: a compute-only reset does not hold it back (R433). -/
def joinOnUp (s : State) (n : Nat) : State :=
  if (s.ready || s.compReset) && slipUp s n && (s.dcr.next.topo.getD n {}).req then evaluateJoin s else s

/-! ## Starts -/

/-- Every register at its reset value and every unit afresh. What stays: media, configuration record, fuses and boot area, the host's memory, what has
left the device, the commands that wait, and PWR_WAKE with the pins. What FLS_ registers take from the media stands in them at once: nothing reads them
before READY (R414). -/
def coldState (s : State) : State :=
  let f := s.flash
  let h := s.host
  let b := s.boot
  let p := s.power
  let n : State := {}
  let n1 : State := { n with
    flash := { blocks := f.blocks, phys := f.phys, reads := f.reads, media := f.media, wear := f.wear, retired := f.retired },
    mem := { host := s.mem.host },
    host := { h with held := [] },
    fabric := { flits := s.fabric.flits, wakes := s.fabric.wakes },
    dcr := { copies := s.dcr.copies },
    boot := { powered := b.powered, mid := b.mid, area := b.area, areaBad := b.areaBad, fuses := b.fuses },
    power := { perst := p.perst, pmeAck := p.pmeAck, l2 := p.l2, wakePin := p.wakePin },
    side := { answers := s.side.answers },
    free := s.free, nextId := s.nextId, pending := s.pending }
  mountFtl (n1.setReg 0x100010 (s.reg 0x100010))

/-- A start begins at a step. -/
def beginStart (s : State) (kind step : Nat) : State :=
  let b := s.boot
  { s with boot := { b with running := true, kind := kind, step := step, repeated := false, startUs := s.us, prevReady := false } }.setFld
    Off.hubStatus 23 20 step

/-- A cold start. Times and sequence numbers count anew. -/
def coldStart (s : State) : State := beginStart (coldState s) 0 1

/-- HUB_SLOTk under k and ENG_COUNT under 104, as the hub retains them. -/
def keepBinding (s : State) : SMap Nat :=
  SMap.set zeroNat ((List.range 104).foldl (fun m k => SMap.set zeroNat m k (s.reg (Off.slotReg k))) []) 104 (s.reg Off.engCount)

/-- The fast path is allowed (R424). -/
def fastAllowed (s : State) : Bool :=
  s.fld Off.hubRstctl 30 30 == 1 && s.boot.prevReady && s.boot.retained && !s.boot.trouble

/-- What a selection left, and the repair maps of the stacks and Landings, kept on the fast path, which reads no copy of the record and loads no map (Table 17-3):
LMS_NEXT never goes back (R429). -/
def keepRecord (s c : State) : State :=
  let c1 := (List.range 12).foldl (fun t st => t.setReg (Off.memReg st 0x1C) (s.reg (Off.memReg st 0x1C))) c
  let c2 := (List.range 2).foldl (fun t d => t.setReg (Off.lndReg d 4) (s.reg (Off.lndReg d 4))) c1
  (((c2.setReg Off.hubDcr (putBits (s.reg Off.hubDcr) 29 29 0 % 2 ^ 31)).setReg64 Off.hubDcrgen (s.reg64 Off.hubDcrgen)).setReg 0x400018 (lmsNext s)).setReg
    0x40001C (lmsRsv s)

/-- A warm start: the RWS fields, PWR_WAKE, the retained memory, the microseconds and the sequence number stay (R413, R424). -/
def warmStart (s : State) : State :=
  let c := coldState s
  let b := s.boot
  let d := s.dcr
  let c1 := { c with
    us := s.us, errSeq := s.errSeq, dcr := { d with writing := none, cmds := [], due := d.due || d.writing.isSome }, side := { c.side with i3c := s.side.i3c, eid := s.side.eid },
    boot := { b with image := none, memReady := false, topoSaid := false, lmsSaid := false, push := [], pushLen := 0, pass := 0, brown := [], binding := keepBinding s } }
  let c2 := c1.setReg Off.hubRstctl (s.reg Off.hubRstctl)
  if fastAllowed s then beginStart (keepRecord s c2) 1 1 else beginStart c2 2 3

/-- A compute-only reset begins (step C1 of Table 17-4). From then on the device's units wait for the memory (R426). -/
def computeStart (s : State) : State :=
  let s0 := beginStart (s.setFld Off.hubStatus 31 31 0) 3 1
  let b := s0.boot
  let s1 := { s0 with boot := { b with memReady := false, brown := [], topoSaid := false } }
  let held := (List.range 64).filter fun c => !(s.ctx c).members.isEmpty
  { held.foldl (fun t c => t.beginTeardown c 0) s1 with compReset := true }

/-- A refused HUB_RESET command. -/
def resetRej (s : State) (err : Nat) : State := (s.setFld Off.hubReset 28 28 1).setFld Off.hubReset 27 24 err

/-- A write of HUB_RESET, which containment lets through (R333). COMPUTE is refused after a fatal error and while a start is in progress, and at no other time
(R426). -/
def hubResetWrite (s : State) (v : Nat) : State :=
  if powerState s = 3 || !s.boot.powered then s
  else
    let s1 := if bit v 28 then s.setFld Off.hubReset 28 28 0 else s
    let cmd := bits v 31 29
    if cmd = 0 || 3 < cmd then s1
    else if s1.fatal && cmd = 2 then resetRej s1 2
    else if s1.boot.running then resetRej s1 1
    else if cmd = 1 then warmStart s1
    else if cmd = 2 then computeStart s1
    else coldStart s1

/-! ## Steps -/

/-- A start ends with failure (R416). -/
def endStart (s : State) (code : Nat) : State :=
  let b := s.boot
  let s1 := { s with boot := { b with running := false } }
  let s2 := (s1.setFld Off.hubStatus 19 16 b.step).setFld Off.hubStatus 15 8 code
  let s3 := if b.kind = 3 || 3 < b.step then s2.appendRecord 0x0B 0x07 2 none none (b.step + code % 256 * 256) 0 else s2
  let s4 := if b.kind ≠ 3 && 1 ≤ b.step && b.step ≤ 4 then s3.setFld Off.recov 2 0 1 else s3
  s4.raiseIrq 6

/-- A step fails or misses its bound: it is repeated once (R416). -/
def stepFail (s : State) (code : Nat) : State :=
  let b := s.boot
  if b.repeated then endStart s code else { s with boot := { b with repeated := true } }

/-- The image that the boot area holds, and MINSVN of the fuses (R449, R450). -/
def areaImage (s : State) : FwImage := s.boot.area.getD ⟨Config.factorySvn, Config.factoryVer, Config.factoryDigest⟩
def fuseSvn (s : State) : Nat := s.boot.fuses.getD Config.factoryMinSvn

/-- The image of the boot area is rolled back: its SVN lies below MINSVN (R450). As manufactured, the two agree. -/
def areaOld (s : State) : Bool :=
  (s.boot.area.isSome || s.boot.fuses.isSome) && decide ((areaImage s).svn < fuseSvn s)

/-- Shows the device's UID: SEC_UID, FAB_UID and the Device Serial Number (R438, R456). -/
def showUid (s : State) (uid : Nat) : State :=
  let h := s.host
  let c := h.config
  ({ s with host := { h with config := { c with serial := uid } } }.setReg64 0x400010 uid).setReg64 fabUid uid

/-- The image of the boot area runs: SEC_FW, SEC_FWDIG and the identity (R456, Table 18-12). -/
def loadImage (s : State) : State :=
  let b := s.boot
  let i := areaImage s
  let min := fuseSvn s
  let s1 := { s with boot := { b with image := some i } }
  let s2 := s1.setReg 0x400000 (i.svn % 256 * 2 ^ 24 + min % 256 * 2 ^ 16 + i.ver % 2 ^ 16)
  let s3 := (List.range 12).foldl (fun t k => t.setReg (0x400040 + 4 * k) (leNat ((i.digest.drop (4 * k)).take 4))) s2
  showUid s3 deviceUid

/-- MEM_REPAIRs after step 6: a cold start remaps the candidates of the record, a warm start leaves them candidates (R274). -/
def repairWord (kind w : Nat) : Nat := if kind = 0 then min 65535 (w % 65536 + w / 65536) else w

/-- LND_PARTd with the partitions off that repair holds off (R268). -/
def repairedParts (part repair : Nat) : Nat := (List.range 16).foldl (fun w p => if bit repair p then putBits w (2 * p + 1) (2 * p) 3 else w) part

/-- The repair maps of step 6 of Table 17-2; the fast path keeps those that there are (Table 17-3). Partitions that repair holds off are off. -/
def loadRepair (s : State) : State :=
  let r := s.dcr.next
  let fast := s.boot.kind == 1
  let s1 := if fast then s
    else (List.range 12).foldl (fun t st => t.setReg (Off.memReg st 0x1C) (repairWord s.boot.kind (SMap.get zeroNat r.memRepair st))) s
  (List.range 2).foldl (fun t d =>
    let w := if fast then t.reg (Off.lndReg d 4) else SMap.get zeroNat r.lndRepair d
    (t.setReg (Off.lndReg d 4) w).setReg (Off.lndReg d 0) (repairedParts (t.reg (Off.lndReg d 0)) w)) s1

/-- Step 6: repair maps loaded, memory zero-filled with its poison cleared, Landing banks initialised, MREADY. `full`: stacks whose saved settings failed, so
that they were trained in full (R415, R431). -/
def memoryReady (s : State) (full : Nat) : State :=
  let r := s.dcr.next
  let s2 := loadRepair s
  let m := s2.mem
  let b := s2.boot
  let d := s2.dcr
  let s3 := { s2 with
    mem := { m with hbm := [], hbmErr := [], landing := [], landErr := [], cached := [] },
    boot := { b with memReady := true },
    dcr := { d with next := { r with hbm := true }, due := d.due || !r.hbm || full % 4096 != 0 } }
  dcrResume (serveHeld s3)

/-- Slots that have no retired entry in the record. -/
def notRetired (s : State) : List Nat := (List.range 104).filter fun k => !bit s.dcr.next.retired k

/-- A slot fails its known-answer run (R417). -/
def failSlot (s : State) (k : Nat) : State := (setSlot s k 3 false 0x7F 0).appendRecord 0x0B 0x02 0 none none k 0

/-- The slots of a regulator. -/
def regulatorSlots (v : Nat) : List Nat := (List.range 104).filter fun k => regulatorOf (groupOf k) == v

/-- The bound engines whose slots a regulator supplies. -/
def regulatorEngines (s : State) (v : Nat) : List Nat :=
  (List.range 96).filter fun n => (s.eng n).online && regulatorOf (groupOf (s.eng n).slot) == v

/-- The rail of a regulator is off: its engines are offline, and its slots in service OFFLINE (R422). -/
def railOff (s : State) (v : Nat) : State :=
  (regulatorSlots v).foldl (fun t k =>
    let st := slotState t k
    if st = 1 || st = 2 || st = 5 then setSlot t k 6 (st == 5) (slotLogical t k) 0 else t)
    ((regulatorEngines s v).foldl (fun t n => t.modEng n fun g => { g with online := false }) s)

/-- Rails that browned out during the start, outside its known-answer run, and have not been restarted: what the numbering has bound to their slots is OFFLINE
(R422, log 147). -/
def darkRails (s : State) : State := countSpares (s.power.dead.foldl railOff s)

/-- Step 8: the slots pass or fail the known-answer run (R417); a retired slot is not run, nor is one whose rail is off. -/
def knownAnswer (s : State) (pass : Nat) : State :=
  let b := s.boot
  let s1 := { s with boot := { b with pass := pass } }
  (List.range 104).foldl (fun t k =>
    if bit t.dcr.next.retired k then setSlot t k 4 false 0x7F 0
    else if t.power.dead.contains (regulatorOf (groupOf k)) then t
    else if bit pass k && SMap.get zeroNat b.brown (regulatorOf (groupOf k)) < 2 then t
    else failSlot t k) s1

/-- A regulator leaves or enters low-power mode. -/
def setLp (s : State) (v lp : Nat) : State := s.setFld (0x100500 + 4 * v) 31 31 lp

/-- The regulators leave low-power mode, but for those whose rail is off or is being restarted (R403). -/
def leaveLp (s : State) : State :=
  (List.range 8).foldl (fun t v => if t.power.dead.contains v || t.power.restarting.contains v then t else setLp t v 0) s

/-- The slots of die `d` that passed, with the logical numbers from `base` (R419). -/
def numberDie (s : State) (base d : Nat) : State × Nat :=
  let good := (dieSlots d).filter fun k => slotState s k == 0
  let n := min 48 good.length
  let s1 := (good.take n).zipIdx.foldl (fun t p =>
    (setSlot t p.1 1 false (base + p.2) 0).setEng (base + p.2) { slot := p.1, online := true }) s
  ((good.drop n).foldl (fun t k => setSlot t k 2 false 0x7F 0) s1, n)

/-- Step 9: logical numbering. -/
def numbering (s : State) : State :=
  let x := numberDie s 0 0
  let y := numberDie x.1 x.2 1
  leaveLp (darkRails (y.1.setReg Off.engCount ((x.2 + y.2) * 2 ^ 16 + y.2 * 2 ^ 8 + x.2)))

/-- The retained binding is restored: a slot that was being tested is a spare again, and its engine offline (R424). -/
def restoreBinding (s : State) : State :=
  let m := s.boot.binding
  let s1 := (List.range 104).foldl (fun t k =>
    let w := SMap.get zeroNat m k
    let st := bits w 31 29
    let n := bits w 22 16
    let t1 := t.setReg (Off.slotReg k) (if st = 5 then 2 * 2 ^ 29 + 0x7F0000 else w)
    if (st = 1 || st = 6) && n < 96 then t1.setEng n { slot := k, online := decide (st = 1) } else t1) s
  leaveLp (darkRails (s1.setReg Off.engCount (SMap.get zeroNat m 104)))

/-- Step 10 begins: every enabled slip trains (R338). -/
def trainSlips (s : State) : State :=
  (List.range 16).foldl (fun t n => if t.fld (slipReg n 0) 31 31 = 1 then slipDetect t n else t) s

/-- READY sets, with its record (Table 17-9). -/
def becomeReady (s : State) : State :=
  let b := s.boot
  let ms := (s.us - b.startUs) / 1000
  let s1 := (((s.setFld Off.hubStatus 31 31 1).setFld Off.hubStatus 23 20 11).setFld Off.hubStatus 29 29 (if b.kind = 1 then 1 else 0)).setReg
    Off.hubStartms ms
  let s2 := { s1 with
    boot := { b with running := false, prevReady := true, trouble := false, retained := b.retained || b.kind == 0 || b.kind == 2 },
    compReset := false }
  (s2.appendRecord 0x0B 0x01 0 none none (b.kind * 2 ^ 62 + ms % 2 ^ 32) 0).raiseIrq 6

/-- The next step of a start. -/
def goStep (s : State) (k : Nat) : State :=
  let b := s.boot
  { s with boot := { b with step := k, repeated := false } }.setFld Off.hubStatus 23 20 k

/-- A step of a cold or warm start sets its ready signal (Tables 17-2 and 17-3). -/
def fullStep (s : State) (pass : Nat) : State :=
  let b := s.boot
  match b.step with
  | 1 => goStep s (if b.kind = 1 then 3 else 2)
  | 4 =>
    if b.areaBad || areaOld s then stepFail s 1
    else
      let s1 := loadImage s
      goStep (if b.kind = 1 then noteExhausted s1 else loadRecord s1) 5
  | 6 => goStep (memoryReady s pass) 7
  | 7 => goStep s (if b.kind = 1 then 9 else 8)
  | 8 => goStep (knownAnswer s pass) 9
  | 9 =>
    let s1 := if b.kind = 1 then restoreBinding s else numbering s
    if s1.fld Off.engCount 22 16 = 0 then endStart s1 1 else trainSlips (goStep s1 10)
  | 10 => becomeReady (evaluateJoin s)
  | k => goStep s (k + 1)

/-- The compute dies are reset: their engines lose their state and keep their slots. -/
def resetEngines (s : State) : State :=
  (List.range 96).foldl (fun t n => t.modEng n fun g =>
    { slot := g.slot, online := g.online, rebind := g.rebind, spare := g.spare }) s

/-- The Landing banks are initialised; cached copies are dropped (R404, R425). -/
def clearLanding (s : State) : State :=
  let m := s.mem
  { s with mem := { m with landing := [], landErr := [], cached := [] } }

/-- Every group is at level 0. -/
def lowestLevels (s : State) : State :=
  let p := s.power
  let keep (m : SMap Nat) : SMap Nat := m.filter fun x => decide (26 ≤ x.1)
  { s with power := { p with level := keep p.level, target := keep p.target, moving := keep p.moving, held := keep p.held, clock := [] } }

/-- The slot failed the run of C5: by its signature, or as its regulator browned out a second time (R418). -/
def ranBad (s : State) (pass k : Nat) : Bool := !bit pass k || decide (2 ≤ SMap.get zeroNat s.boot.brown (regulatorOf (groupOf k)))

/-- Slots that failed the run of C5 are late failures with cause 0x2 (Table 17-4, R421 from step 3): spares are retired first, so that none of them is
tried, and bound slots follow in ascending logical number (R434). -/
def computeFailures (s : State) (pass : Nat) : State :=
  if s.fld Off.hubRstctl 29 29 = 0 then s
  else
    let s1 := (List.range 104).foldl (fun t k => if slotState t k = 2 && ranBad s pass k then retireFailed t k 2 else t) s
    (List.range 96).foldl (fun t n =>
      let k := (t.eng n).slot
      if (t.eng n).online && slotState t k = 1 && ranBad s pass k then startRebind (retireFailed t k 2) n else t) s1

/-- A step of a compute-only reset ends (Table 17-4). C1 waits for the teardowns; from the start of C3 on every regulator is in low-power mode, which holds its
groups at level 0 (R403). -/
def computeStep (s : State) (pass : Nat) : State :=
  let b := s.boot
  match b.step with
  | 1 => if (List.range 64).any fun c => s.ctxState c == 6 then s else goStep s 2
  | 2 => goStep ((List.range 8).foldl (fun t v => setLp t v 1) (lowestLevels (resetEngines s))) 3
  | 3 => goStep s 4
  | 4 =>
    let s1 := clearLanding s
    dcrResume (serveHeld (goStep { s1 with boot := { b with memReady := true } } 5))
  | 5 => goStep { s with boot := { b with pass := pass } } 6
  | 6 => becomeReady (computeFailures (leaveLp s) b.pass)
  | _ => s

/-- START_STEP_DONE: the step in progress sets its ready signal; `pass` names the slots that passed a known-answer run and, at step 6, the stacks whose saved
settings failed. -/
def startDone (s : State) (step pass : Nat) : State :=
  if !s.boot.running || s.boot.step ≠ step || s.fatal then s
  else if s.boot.kind = 3 then computeStep s pass
  else fullStep s pass

/-- START_STEP_TIMEOUT: the step in progress fails with a code. Step 10 ends at its bound (R415). A digest mismatch (2) in step 4 of the fast path leaves the fast path (R424). -/
def startTimeout (s : State) (code : Nat) : State :=
  let b := s.boot
  if !b.running || s.fatal then s
  else if b.kind ≠ 3 && b.step = 10 then becomeReady (evaluateJoin s)
  else if b.kind = 1 && b.step = 4 && code = 2 then goStep { s with boot := { b with kind := 2, retained := false } } 3
  else stepFail s code

/-! ## Power and PERST# -/

/-- POWER_GOOD: step 0 of a cold start ends; the straps are read (R415, R447). -/
def powerGood (s : State) (mid : Nat) : State :=
  if s.boot.powered then s
  else
    let b := s.boot
    coldStart { s with boot := { b with powered := true, mid := mid } }

/-- WRITEs and TRIMs in progress when power is lost have done a free number of their units, but for one that an earlier one held back (R281, R289). -/
def cutFlash (s : State) : State :=
  s.flash.cmds.foldl (fun t c => flashPart (flashBehind s c || !(c.op == 2 || c.op == 3)) t c) s

/-- INPUT_POWER_LOSS (R281, R412, Table 17-7): a copy of the record or a boot area that was being written is cut off, or not, by a free value. -/
def powerLoss (s : State) : State :=
  let x := (cutFlash s).draw
  let y := x.1.draw
  let t := y.1
  let d := t.dcr
  let cut := d.writing.isSome && x.2 % 2 == 1
  let b := t.boot
  let t1 := { t with
    dcr := { d with copies := if cut then d.copies.set d.at_ (some []) else d.copies },
    boot := { b with powered := false, areaBad := b.areaBad || (t.fld 0x40000C 23 22 == 1 && y.2 % 2 == 1) } }
  let c := coldState t1
  let p := c.power
  let h := c.host
  { c with power := { p with wakePin := false }, host := h.functionReset (if p.perst then h.dState else .d0) }.setReg 0x100010 0

end Sys2Proof.Machine
end

