-- ==== Sys2Proof/Machine/Power.lean ====
section
/-! DEFINITION. The power arbiter and the power controller (R392 to R412): levels and costs, intervals, changes of level, protection, regulators, and
the power states. -/

namespace Sys2Proof.Machine

/-! ## Requests, the budget and operating points (R395, R396) -/

/-- The floors' costs, with one request word replaced. -/
def floorsCost (s : State) (c0 w : Nat) : Nat :=
  sumOf fun c =>
    let p := if c = c0 then planOf c w else plan s c
    costOf (oppRegs s) p.act c p.floor

/-- A refused write of a PWR_ register. -/
def pwrRej (s : State) : State := s.setFld Off.pwrBudget 31 31 1

/-- PWR_REQ_WRITE (R396). -/
def reqWrite (s : State) (c v : Nat) : State :=
  if !s.writable (Off.pwrReq c) then s
  else if poolOf (s.fld Off.pwrBudget 10 0) < floorsCost s c v then pwrRej s
  else plainWrite s (Off.pwrReq c) v

/-- PWR_BUDGET_WRITE (R396). A refused write sets REJ, and its REJ bit is not applied as a clear. -/
def budgetWrite (s : State) (v : Nat) : State :=
  if !s.writable Off.pwrBudget then s
  else
    let w := bits v 10 0
    if w < 600 || 1500 < w || poolOf w < floorsCost s 40 0 then pwrRej s else plainWrite s Off.pwrBudget v

/-- PWR_OPP_WRITE (R395): costs shall not decrease with the level. -/
def oppWrite (s : State) (l v : Nat) : State :=
  if !s.writable (Off.pwrOpp l) then s
  else
    let x := bits v 15 0
    let below := l = 0 || decide (s.fld (Off.pwrOpp (l - 1)) 15 0 ≤ x)
    let above := 10 ≤ l || decide (x ≤ s.fld (Off.pwrOpp (l + 1)) 15 0)
    if below && above then plainWrite s (Off.pwrOpp l) v else pwrRej s

/-! ## Changes of level (R398, R399) -/

/-- The ECLK of a group goes to a level, and ENG_CLK of its engines shows it (R399). -/
def setMhz (s : State) (g l : Nat) : State :=
  let p := s.power
  (List.range 96).foldl (fun t n => if (t.eng n).online && groupOf (t.eng n).slot = g then t.modEng n fun h => { h with mhz := eclk l } else t)
    { s with power := { p with clock := SMap.set zeroNat p.clock g l } }

/-- Starts the change of a consumer toward its target: a lowering at once, with the ECLK of a group first; a raise when what all consumers may draw leaves
room for it in the pool sampled (log 127). -/
def advance (s : State) (c : Nat) : State :=
  let l := levelOf s c
  let t := targetOf s c
  if movingOf s c ≠ 0 || t = l then s
  else
    let p := s.power
    let go := { s with power := { p with moving := SMap.set zeroNat p.moving c (t + 1) } }
    if t < l then (if c < 26 then setMhz go c t else go)
    else if sumOf (fun i => max (loadOf go i) (chargedOf go i)) ≤ p.pool then go
    else s

/-- Waiting changes start in ascending index. -/
def advanceAll (s : State) : State := (List.range 40).foldl advance s

/-- LEVEL_CHANGE_COMPLETE: a raise of a group ends with its ECLK, and a lowering frees what it was charged. -/
def levelDone (s : State) (c : Nat) : State :=
  let m := movingOf s c
  if m = 0 || s.fatal then s
  else
    let p := s.power
    let held := if targetOf s c < m - 1 then p.held else SMap.set zeroNat p.held c 0
    let s1 := { s with power := { p with level := SMap.set zeroNat p.level c (m - 1), moving := SMap.set zeroNat p.moving c 0, held := held } }
    advanceAll (if c < 26 && levelOf s c < m - 1 then setMhz s1 c (m - 1) else s1)

/-- VFAIL (R400): the raise in progress of a group reverts, and none is made for 100 intervals. -/
def vfail (s : State) (g : Nat) : State :=
  let m := movingOf s g
  if 26 ≤ g || m ≤ levelOf s g + 1 || s.fatal then s
  else
    let p := s.power
    let l := levelOf s g
    let s1 := { s with power := { p with
      moving := SMap.set zeroNat p.moving g 0, target := SMap.set zeroNat p.target g l, blocked := SMap.set zeroNat p.blocked g 100 } }
    advanceAll (s1.appendRecord 0x0A 0x04 0 none none (g + 256 * (m - 1)) 0)

/-! ## The interval (R397, R401, R402) -/

/-- THR and TRIP as they act (Table 16-10). -/
def thrOf (s : State) : Nat := min 105 (s.fld Off.pwrTherm 23 16)
def tripOf (s : State) : Nat := max (s.fld Off.pwrTherm 15 8) (thrOf s + 5)

/-- The die whose ceiling a consumer is under: sensors 0 and 1 are CD0 and CD1, 2 to 13 the stacks H0 to H11; the hub, LD0, LD1 and the regulator dies V0 to V7
of sensors 14 to 24 are not throttled. -/
def dieOfConsumer (c : Nat) : Option Nat := if c < 13 then some 0 else if c < 26 then some 1 else if c < 38 then some (c - 24) else none

/-- The top level of the consumers of a die. -/
def dieTop (i : Nat) : Nat := if i < 2 then 10 else 16

/-- The thermal ceiling of one die moves with its reading; THROTTLE is appended at most once per second (R401, R410). -/
def throttle (s : State) (i tj : Nat) : State :=
  let p := s.power
  let d := SMap.get zeroNat p.drop i
  if thrOf s ≤ tj then
    let s1 := { s with power := { p with
      drop := SMap.set zeroNat p.drop i (min (dieTop i) (d + (if i < 2 then 1 else 2))), cool := SMap.set zeroNat p.cool i 0 } }
    let due := match SMap.get (fun _ => none) p.throttleUs i with
      | none => true
      | some t => decide (t + 1000000 ≤ s.us)
    if due then
      let q := s1.power
      { s1 with power := { q with throttleUs := SMap.set (fun _ => none) q.throttleUs i (some s.us) } }.appendRecord 0x0A 0x01 0 none none
        (i * 256 + tj % 256) 0
    else s1
  else if tj + 3 < thrOf s then
    let k := SMap.get zeroNat p.cool i + 1
    if 10 ≤ k then { s with power := { p with drop := SMap.set zeroNat p.drop i (d - 1), cool := SMap.set zeroNat p.cool i 0 } }
    else { s with power := { p with cool := SMap.set zeroNat p.cool i k } }
  else { s with power := { p with cool := SMap.set zeroNat p.cool i 0 } }

/-- The ceiling of a consumer: thermal, overdraw, low-power mode, and a block after VFAIL. -/
def ceiling (s : State) (c : Nat) : Nat :=
  let p := s.power
  let th := match dieOfConsumer c with
    | some i => topLevel c - SMap.get zeroNat p.drop i
    | none => topLevel c
  if 26 ≤ c then th
  else
    let a := min th (10 - p.overLow)
    let b := if s.fld (Off.pwrIvr (regulatorOf c)) 31 31 = 1 then 0 else a
    if SMap.get zeroNat p.blocked c = 0 then b else min b (levelOf s c)

/-- One round of raises at a priority, in ascending index (R397). Answers the levels, the spend, and whether one was raised. -/
def raiseRound (opp : List Nat) (plans : List Plan) (tops : List Nat) (pool p : Nat) : List Nat → List Nat → Nat → Bool → List Nat × Nat × Bool
  | [], lv, spend, r => (lv, spend, r)
  | c :: t, lv, spend, r =>
    let q := plans.getD c ⟨0, 0, 0, 0⟩
    let l := lv.getD c 0
    let d := costOf opp q.act c (l + 1) - costOf opp q.act c l
    if q.pri = p && decide (l < tops.getD c 0) && decide (spend + d ≤ pool) then
      raiseRound opp plans tops pool p t (lv.set c (l + 1)) (spend + d) true
    else raiseRound opp plans tops pool p t lv spend r

/-- Rounds until none raises; a consumer has at most 16 levels to rise. -/
def raiseAt (opp : List Nat) (plans : List Plan) (tops : List Nat) (pool p : Nat) : Nat → List Nat × Nat → List Nat × Nat
  | 0, x => x
  | n + 1, x =>
    let y := raiseRound opp plans tops pool p (List.range 40) x.1 x.2 false
    if y.2.2 then raiseAt opp plans tops pool p n (y.1, y.2.1) else (y.1, y.2.1)

/-- The target levels and the spend of R397 from the plans, the ceilings and the pool. -/
def targets (opp : List Nat) (plans : List Plan) (ceils : List Nat) (pool : Nat) : List Nat × Nat :=
  let tops := (List.range 40).map fun c => min (plans.getD c ⟨0, 0, 0, 0⟩).req (ceils.getD c 0)
  let lv := (List.range 40).map fun c => min (plans.getD c ⟨0, 0, 0, 0⟩).floor (ceils.getD c 0)
  let spend := sumOf fun c => costOf opp (plans.getD c ⟨0, 0, 0, 0⟩).act c (lv.getD c 0)
  [3, 2, 1, 0].foldl (fun x p => raiseAt opp plans tops pool p 17 x) (lv, spend)

/-- Ceilings that follow counts of intervals: overdraw holds for ten intervals and then rises level by level; blocks run down. -/
def countDown (s : State) : State :=
  let p := s.power
  { s with power := { p with
    hold := p.hold - 1, overLow := if p.hold ≤ 1 then p.overLow - 1 else p.overLow,
    blocked := (p.blocked.map fun x => (x.1, x.2 - 1)).filter fun x => x.2 != 0 } }

/-- Readings: TJ is the highest of all dies, and PWR_INPUT the measured input. -/
def takeReadings (s : State) (temps : List Nat) (input : Nat) : State :=
  let p := s.power
  let s1 := { s with power := { p with temps := temps.zipIdx.foldl (fun (m : SMap Nat) (x : Nat × Nat) => SMap.set zeroNat m x.2 x.1) p.temps } }
  (s1.setFld Off.pwrTherm 31 24 (min 255 (largest temps))).setFld Off.pwrInput 20 0 (min (2 ^ 21 - 1) input)

/-- A number of each consumer, as a map. -/
def perConsumer (f : Nat → Nat) : SMap Nat := (List.range 40).foldl (fun m c => SMap.set zeroNat m c (f c)) []

/-- New targets with the requests, operating points and budget sampled for them; a consumer that is to be lowered or is being lowered keeps its old charge
(R397, R398). -/
def retarget (s : State) (f : Nat → Nat) : State :=
  let p := s.power
  { s with power := { p with
    opp := oppRegs s, pool := poolOf (s.fld Off.pwrBudget 10 0), act := perConsumer fun c => (plan s c).act, floor := perConsumer fun c => (plan s c).floor,
    target := perConsumer f,
    held := perConsumer fun c => if f c < levelOf s c || (movingOf s c ≠ 0 && movingOf s c ≤ levelOf s c) then loadOf s c else 0 } }

/-- The arbiter sets the targets. -/
def arbitrate (s : State) : State :=
  let x := targets (oppRegs s) ((List.range 40).map (plan s)) ((List.range 40).map (ceiling s)) (poolOf (s.fld Off.pwrBudget 10 0))
  advanceAll ((retarget s fun c => x.1.getD c 0).setFld Off.pwrSpend 20 0 x.2)

/-- The arbiter runs: from step 9 of a start on, and through a compute-only reset; not in or between P2 and P3. -/
def arbiterRuns (s : State) : Bool :=
  powerState s == 0 && powerPhase s == 0 && (s.ready || s.compReset || (s.boot.running && s.boot.kind != 3 && decide (10 ≤ s.boot.step)))

/-- OVERDRAW: one sample above 1,600 W, or 20 in a row above the budget (R402). -/
def overdraw (s : State) (mw run : Nat) : State :=
  if s.fatal || powerState s ≠ 0 || (mw ≤ 1600000 && (mw ≤ 1000 * s.fld Off.pwrBudget 10 0 || run < 20)) then s
  else
    let p := s.power
    let keep (m : SMap Nat) : SMap Nat := m.filter fun x => decide (26 ≤ x.1)
    let s1 := { s with power := { p with
      hold := 10, overLow := 10, level := keep p.level, target := keep p.target, moving := keep p.moving, held := keep p.held } }
    let s2 := (List.range 26).foldl (fun t g => setMhz t g 0) s1
    ((s2.setFld Off.pwrStatus 27 27 1).appendRecord 0x0A 0x02 0 none none (mw % 2 ^ 21) 0).raiseIrq 7

/-- COOLANT: an inlet reading (R401). -/
def coolant (s : State) (c : Nat) : State :=
  if s.fatal || powerState s = 3 then s
  else
    let s1 := s.setFld Off.pwrTherm 7 0 c
    if 15 ≤ c && c ≤ 45 then s1
    else
      let s2 := s1.setFld Off.pwrStatus 24 24 1
      let due := match s2.power.coolantUs with
        | none => true
        | some t => decide (t + 60000000 ≤ s2.us)
      if !due then s2
      else
        let p := s2.power
        { s2 with power := { p with coolantUs := some s2.us } }.appendRecord 0x0A 0x07 0 none none (c % 256) 0

/-! ## Regulators (R403, R422) -/

/-- The groups of a regulator drop to level 0 and any change of level is abandoned. -/
def dropGroups (s : State) (v : Nat) : State :=
  let keep (m : SMap Nat) : SMap Nat := m.filter fun x => decide (26 ≤ x.1) || regulatorOf x.1 != v
  let p := s.power
  ((List.range 26).filter fun g => regulatorOf g == v).foldl (fun t g => setMhz t g 0)
    { s with power := { p with level := keep p.level, target := keep p.target, moving := keep p.moving, held := keep p.held } }

/-- A known-answer run of a start, or of a compute-only reset that runs one, is in progress (R418). -/
def answerRun (s : State) : Bool :=
  s.boot.running && if s.boot.kind = 3 then s.boot.step == 5 && s.fld Off.hubRstctl 29 29 == 1 else s.boot.step == 8

/-- A regulator browns out during the known-answer run of a start. -/
def brownInRun (s : State) (v : Nat) : State :=
  let b := s.boot
  { s with boot := { b with brown := SMap.set zeroNat b.brown v (SMap.get zeroNat b.brown v + 1) } }

/-- A regulator browns out: its contexts are torn down, its engines are offline and its slots OFFLINE until its RESTART (R403, R422). In a start whose engines
are not numbered yet, step 9 does the rest (`darkRails`). -/
def brownOff (s : State) (v : Nat) : State :=
  let b := s.boot
  let s2 := (regulatorEngines s v).foldl (fun t n => if (t.eng n).bound then t.beginTeardown (t.eng n).ctx 0x0A03 else t)
    { s with boot := { b with trouble := true } }
  let s5 := dropGroups (countSpares (railOff s2 v)) v
  let p := s5.power
  { s5 with power := { p with dead := p.dead ++ [v] } }

/-- BROWNOUT: a load above ILIM in low-power mode. During the known-answer run of a start the regulator is only restarted (R418). -/
def brownout (s : State) (v amps : Nat) : State :=
  if s.fatal || powerState s ≠ 0 || s.fld (Off.pwrIvr v) 31 31 = 0 || amps ≤ s.fld (Off.pwrIvr v) 7 0 || s.power.dead.contains v then s
  else
    let s1 := (s.appendRecord 0x0A 0x03 2 none none v 0).setFld (Off.pwrIvr v) 30 30 1
    if answerRun s1 then brownInRun s1 v else brownOff s1 v

/-- A write of PWR_IVRv: RESTART repeats the soft start in low-power mode, which holds its groups at level 0. -/
def ivrWrite (s : State) (v x : Nat) : State :=
  if !s.writable (Off.pwrIvr v) then s
  else
    let s1 := plainWrite s (Off.pwrIvr v) x
    if !bit x 29 || s1.power.restarting.contains v then s1
    else
      let s2 := dropGroups (setLp s1 v 1) v
      let p := s2.power
      { s2 with power := { p with restarting := p.restarting ++ [v] } }

/-- A spare whose regulator has been restarted is a spare again, or is retired with cause 0x2 (R422). In a start, a slot that its dark rail kept out of step 8
has its run now, before the numbering. -/
def spareBack (s : State) (k : Nat) (pass : Bool) : State :=
  if s.boot.running && s.boot.kind != 3 && s.boot.step == 9 && slotState s k == 0 && !pass then failSlot s k
  else if slotState s k ≠ 6 || slotLogical s k < 96 || s.fld (Off.slotReg k) 23 23 = 1 then s
  else if pass then countSpares (setSlot s k 2 false 0x7F 0)
  else retireFailed s k 2

/-- The slots of regulator `v` that concern engine `n`: its own slot returns to service under it, and a spare that was being tested for it goes on with its
test; one that fails is retired with cause 0x2, and R421 goes on from step 3 (R422, R434). -/
def engineBack (s : State) (v pass n : Nat) : State :=
  let g := s.eng n
  let off (k : Nat) : Bool := regulatorOf (groupOf k) == v && slotState s k == 6
  let k := g.spare - 1
  if off g.slot && slotLogical s g.slot = n then
    (if bit pass g.slot then setSlot (s.modEng n fun h => { h with online := true, mhz := eclk 0 }) g.slot 1 false n 0
     else startRebind (retireFailed s g.slot 2) n)
  else if g.spare ≠ 0 && off k then
    (if bit pass k then setSlot s k 5 true 0x7F 0 else rebindNext ((retireFailed s k 2).modEng n fun h => { h with spare := 0 }) n)
  else s

/-- IVR_RESTART_COMPLETE: the soft start has ended and the regulator's offline slots have run the known-answer run; those of the mask passed. Spares return
first, so that none that failed is tried, and engines follow in ascending number (R434). -/
def ivrDone (s : State) (v pass : Nat) : State :=
  if !s.power.restarting.contains v || s.fatal then s
  else
    let p := s.power
    let s1 := { s with power := { p with restarting := p.restarting.filter (· != v), dead := p.dead.filter (· != v) } }
    let s2 := (regulatorSlots v).foldl (fun t k => spareBack t k (bit pass k)) (setLp s1 v 0)
    (List.range 96).foldl (fun t n => engineBack t v pass n) s2

/-! ## Power states (R404 to R409) -/

/-- Sets PHASE. -/
def setPhase (s : State) (v : Nat) : State := s.setFld Off.pwrState 3 2 v

/-- An entry to P2 or P3 begins; UP slips start towards LP. -/
def beginEntry (s : State) (goal : Nat) : State :=
  let p := s.power
  let s1 := setPhase { s with power := { p with entry := goal, exitStep := 0, exitAsked := false } } 1
  if goal = 2 then lpEnter s1 else s1

/-- The conditions of R405 hold. -/
def idleDevice (s : State) : Bool :=
  s.fld Off.workCtl 31 31 == 0 && (List.range 64).all (fun c => !([2, 3, 5, 6].contains (s.ctxState c))) &&
    !s.kv.ferry && s.flash.cmds.isEmpty && s.codec.jobs.isEmpty && s.coll.steps.isEmpty

/-- A refused power command. -/
def stateRej (s : State) (err : Nat) : State := (s.setFld Off.pwrState 28 28 1).setFld Off.pwrState 27 24 err

/-- The device is between states: an entry, an exit, a start, or a record write, on which MOOR and LAYUP are refused (R434). -/
def changing (s : State) : Bool := powerPhase s != 0 || s.boot.running || s.dcr.writing.isSome

/-- CMD MOOR (R405); a device that is in P2 stays there. -/
def moor (s : State) : State :=
  if changing s then stateRej s 5
  else if !idleDevice s then stateRej s 1
  else if powerState s = 2 then s
  else beginEntry s 2

/-- CMD LAYUP (R406). -/
def layup (s : State) : State :=
  if changing s then stateRej s 5
  else if !idleDevice s then stateRej s 1
  else if !s.power.l2 then stateRej s 2
  else beginEntry s 3

/-- PWR_WAKE.PEND latches an event during an entry (R408). -/
def latchWake (s : State) : State := s.setFld Off.pwrWake 31 31 1

/-- An exit begins: from P3 it goes on as a cold start (R409). -/
def beginExit (s : State) : State :=
  if powerState s = 3 then coldStart s
  else
    let p := s.power
    setPhase { s with power := { p with exitStep := 1, repeated := false, tripped := false, exitAsked := false } } 2

/-- CMD EXIT: as a wake does, without a source bit (R407, R408); not while too hot (R401). -/
def exitMoored (s : State) : State :=
  if powerPhase s = 2 || s.boot.running then stateRej s 5
  else if thrOf s ≤ s.fld Off.pwrTherm 31 24 && (powerState s = 2 || powerPhase s = 1) then stateRej s 3
  else if powerPhase s = 1 then
    let p := s.power
    latchWake { s with power := { p with exitAsked := true } }
  else if powerState s = 2 then beginExit s
  else stateRej s 4

/-- A write of PWR_STATE. -/
def stateWrite (s : State) (v : Nat) : State :=
  if !s.writable Off.pwrState then s
  else
    let s1 := if bit v 28 then s.setFld Off.pwrState 28 28 0 else s
    match bits v 31 29 with
    | 1 => moor s1
    | 2 => layup s1
    | 3 => exitMoored s1
    | _ => s1

/-- The effect of having entered P2 (R405): engine state, cached lines and direct data are lost; the ready signals fall. -/
def enterMoored (s : State) : State :=
  let s1 := clearLanding (lowestLevels (resetEngines s))
  let b := s1.boot
  { s1 with boot := { b with memReady := false } }.setFld Off.pwrStatus 31 28 0

/-- WAKEEN of the slips, as a mask. -/
def wakeEnables (s : State) : Nat := ((List.range 16).map fun n => s.fld (slipReg n 0) 27 27 * 2 ^ n).foldl (· + ·) 0

/-- The effect of having entered P3: everything but the always-on logic and the sideband is off, and partners see link-down (R406). -/
def enterLaidUp (s : State) : State :=
  let w := wakeEnables s
  let c := coldState (allSlipsDown s 5)
  let p := c.power
  let d := c.side
  { c with us := s.us, power := { p with wakeEn := w }, side := { d with i3c := s.side.i3c, eid := s.side.eid } }.setFld Off.pwrState 1 0 3

/-- POWER_ENTRY_COMPLETE: an entry ends, once the teardowns of a thermal trip have; a latched wake starts the exit at once (R408), and after a thermal trip
only an EXIT does (R401). WAKE# is asserted for a wake that was latched while P3 was entered. -/
def entryDone (s : State) : State :=
  if powerPhase s ≠ 1 || s.fatal || (List.range 64).any (fun c => s.ctxState c == 6) then s
  else
    let pend := s.fld Off.pwrWake 31 31 == 1 && (!s.power.tripped || s.power.exitAsked)
    if s.power.entry = 3 then
      let s1 := (enterLaidUp s).setFld Off.pwrWake 31 31 0
      let p := s1.power
      if pend then beginExit { s1 with power := { p with wakePin := p.l2 } } else s1
    else
      let s1 := (setPhase ((enterMoored s).setFld Off.pwrState 1 0 2) 0).raiseIrq 7
      let p := s1.power
      let s2 := { s1 with power := { p with entry := 0 } }.setFld Off.pwrWake 31 31 0
      if pend then beginExit s2 else s2

/-- The source of Table 16-6 is enabled. -/
def wakeEnabled (s : State) (src n : Nat) : Bool :=
  let en := if powerState s = 3 then bit s.power.wakeEn n else s.fld (slipReg n 0) 27 27 == 1
  if src = 1 then powerState s == 2 && en else if src = 2 then en else true

/-- A wake event of a source (R407, R408): its bit sets; in P2 and P3 an exit begins, but not from the P2 of a thermal trip (R401). -/
def wakeEvent (s : State) (src n : Nat) : State :=
  if !wakeEnabled s src n || !s.boot.powered then s
  else
    let s1 := s.setFld Off.pwrWake src src 1
    let s2 := if src = 1 || src = 2 then s1.setFld Off.pwrWake 11 8 n else s1
    if s2.fatal then s2
    else if powerPhase s2 = 1 then latchWake s2
    else if powerState s2 = 3 then
      let p := s2.power
      beginExit { s2 with power := { p with wakePin := p.l2 } }
    else if powerState s2 = 2 && powerPhase s2 = 0 && !s2.power.tripped then beginExit s2
    else s2

/-- Grants at their floors until the next interval (R409); groups in low-power mode stay at level 0 (R403). -/
def floorsGranted (s : State) : State :=
  advanceAll (retarget s fun c => if c < 26 && s.fld (Off.pwrIvr (regulatorOf c)) 31 31 = 1 then 0 else (plan s c).floor)

/-- A slip leaves LP for UP; the credits that it owes go back, what waited for it is sent, and its agreement is evaluated (R360, R433). -/
def lpUp (s : State) (n : Nat) : State :=
  joinOnUp (pump (payOwed (modSlip (setSlipState s n 5) n fun g => { g with lpOut := false, lpWait := false }) n) n) n

/-- LP slips return to UP at step 4 of an exit. -/
def slipsOut (s : State) : State := (List.range 16).foldl (fun t n => if slipState t n = 7 then lpUp t n else t) s

/-- EXIT_STEP_DONE: the step's ready signal sets (Table 16-7). -/
def exitStepDone (s : State) : State :=
  let k := s.power.exitStep
  if powerPhase s ≠ 2 || k = 0 || s.fatal then s
  else
    let p := s.power
    let s1 := { s with power := { p with exitStep := k + 1, repeated := false } }.setFld Off.pwrStatus (32 - k) (32 - k) 1
    if k < 3 then s1
    else if k = 3 then
      let b := s1.boot
      { s1 with boot := { b with memReady := true } }
    else
      let q := s1.power
      let s2 := setPhase ({ s1 with power := { q with exitStep := 0 } }.setFld Off.pwrState 1 0 0) 0
      (dcrResume (serveHeld (floorsGranted (slipsOut s2)))).raiseIrq 7

/-- EXITFAIL: the step misses its bound; a second miss leaves the device sleeping (R409). -/
def exitFail (s : State) : State :=
  let k := s.power.exitStep
  if powerPhase s ≠ 2 || k = 0 || s.fatal then s
  else
    let p := s.power
    if !p.repeated then { s with power := { p with repeated := true } }
    else
      let s1 := setPhase { s with power := { p with exitStep := 0 } } 0
      ((s1.setFld Off.pwrState 27 24 (7 + k)).appendRecord 0x0A 0x06 2 none none k 0).raiseIrq 7

/-- THERMTRIP: a reading at or above TRIP (R401). An entry to P3 under way becomes one to P2. -/
def thermTrip (s : State) (sensor tj : Nat) : State :=
  if tj < tripOf s || s.fatal || powerState s = 3 then s
  else
    let s1 := (s.appendRecord 0x0A 0x05 2 none none (sensor * 256 + tj % 256) 0).setFld Off.pwrTherm 31 24 (max (s.fld Off.pwrTherm 31 24) (min 255 tj))
    let held := (List.range 64).filter fun c => !(s.ctx c).members.isEmpty
    let s2 := held.foldl (fun t c => t.beginTeardown c 0x0A05) s1
    let b := s2.boot
    let p := s2.power
    let s3 := { s2 with boot := { b with trouble := true, running := false }, power := { p with tripped := true, exitAsked := false } }
    let s4 := s3.setFld Off.pwrStatus 25 25 1
    (if powerState s = 2 && powerPhase s = 0 || powerPhase s = 1 && s.power.entry = 2 then s4 else beginEntry s4 2).raiseIrq 7

/-- The first sensor whose reading is at or above TRIP. -/
def hotSensor (s : State) (temps : List Nat) : Option Nat := (List.range temps.length).find? fun i => decide (tripOf s ≤ temps.getD i 0)

/-- POWER_INTERVAL: not before INTV µs have passed since the last one. Readings are taken while the module has power, and one at or above TRIP is a thermal
trip; the ceilings move and the arbiter acts while it runs (R397, R401). -/
def powerInterval (s : State) (temps : List Nat) (input : Nat) : State :=
  let intv := max 30 (s.fld Off.pwrCtl 9 0)
  let early := match s.power.lastUs with
    | none => false
    | some t => decide (s.us < t + intv)
  if early || s.fatal || powerState s = 3 || !s.boot.powered then s
  else
    let p := s.power
    let s1 := takeReadings { s with power := { p with lastUs := some s.us } } temps input
    let s2 := match hotSensor s1 temps with
      | some i => if s1.power.tripped then s1 else thermTrip s1 i (temps.getD i 0)
      | none => s1
    if !arbiterRuns s2 then s2
    else
      let s3 := (temps.take 14).zipIdx.foldl (fun t x => throttle t x.2 x.1) s2
      countDown (arbitrate (s3.setFld Off.pwrStatus 26 26 (if s3.power.drop.isEmpty then 0 else 1)))

/-! ## Slips and PERST# in low power -/

/-- LP_EXIT: a slip leaves LP for UP, asked by this end or by the partner; one that the partner starts may be a wake event in P2 (R360). -/
def lpExit (s : State) (n : Nat) (partner : Bool) : State :=
  if slipState s n ≠ 7 || (!partner && !(slipOf s n).lpOut) then s
  else
    let s1 := lpUp s n
    if partner && powerState s = 2 then wakeEvent s1 1 n else s1

/-- PME_TURN_OFF: PME_TO_Ack from D3hot, the first condition of L2 (R442). From another function state it arms nothing (log 128). -/
def pmeTurnOff (s : State) : State :=
  if s.power.perst || !s.boot.powered || s.host.dState ≠ .d3hot then s
  else
    let p := s.power
    { s with power := { p with pmeAck := true } }

/-- PERST_ASSERT (R434, R442, R452): the link enters L2 after PME_TO_Ack; a compute-only reset and a recovery push are abandoned. -/
def perstAssert (s : State) : State :=
  if s.power.perst then s
  else
    let p := s.power
    let s1 := { s with power := { p with perst := true, l2 := p.pmeAck }, host := s.host.functionReset (if p.pmeAck then .d3cold else .d0) }
    let s2 := if p.pmeAck then s1 else wakeEvent s1 3 0
    let b := s2.boot
    if b.running && b.kind = 3 then { s2 with boot := { b with running := false } }
    else if s2.fld Off.recov 2 0 = 2 then { s2 with boot := { b with push := [], pushLen := 0 } }.setFld Off.recov 2 0 1
    else s2

/-- PERST_DEASSERT: the link leaves L2; in P3 the edge is a wake source, elsewhere it starts the start that R413 selects. -/
def perstDeassert (s : State) : State :=
  if !s.power.perst then s
  else
    let p := s.power
    let h := s.host
    let s1 := { s with power := { p with perst := false, pmeAck := false, l2 := false, wakePin := false }, host := { h with dState := .d0 } }
    let s2 := s1.setFld Off.pwrWake 3 3 1
    if !s.boot.powered then s1
    else if powerState s = 3 then wakeEvent s1 3 0
    else if s2.fld Off.hubRstctl 31 31 = 1 then warmStart s2
    else coldStart s2

end Sys2Proof.Machine
end

