-- ==== Sys2Proof/Machine/HostIf.lean ====
section
/-! DEFINITION. The host interface and the security engine (R437 to R463): PCI Express completions, interrupts, firmware, the recovery push, SPDM and
attestation, sessions between devices, and the sideband. -/

namespace Sys2Proof.Machine

namespace Off
def fwUpd : Nat := 0x400008
def secAtt : Nat := 0x400020
def scmd : Nat := 0x400028
def relayCtl : Nat := 0x400030
def relayOut : Nat := 0x403000
def relayIn : Nat := 0x403800
def recovWin : Nat := 0x10000
end Off

/-! ## PCI Express -/

/-- Host bytes from an address up take what a completion says of them. -/
def setHost (s : State) (a : Nat) (bs : List HostByte) : State :=
  let m := s.mem
  { s with mem := { m with host := bs.zipIdx.foldl (fun (h : SMap HostByte) (p : HostByte × Nat) => SMap.set hostUnread h ((a + p.2) % 2 ^ 64) p.1) m.host } }

/-- PCIE_READ_COMPLETION (R440): data (0), UR (1), CA (2) or poison (3) for as many bytes as are given. -/
def readCompletion (s : State) (a status : Nat) (bytes : List Byte) : State :=
  if status = 0 then setHost s a (bytes.map .data)
  else
    let s1 := setHost s a (bytes.map fun _ => .failed)
    if status = 1 then reportAer s1 2 else if status = 2 then reportAer s1 3 else s1

/-- PCIE_COMPLETION_TIMEOUT (R440). -/
def readTimeout (s : State) (a n : Nat) : State := reportAer (setHost s a (List.replicate n .failed)) 1

/-- HUB_IRQSTAT_WRITE: bits written as 1 clear (R443). -/
def irqStatWrite (s : State) (v : Nat) : State := if s.writable Off.irqStat then plainWrite s Off.irqStat v else s

/-- MATE_OPEN (R446). -/
def mateOpen (s : State) : State := { s with powerFail := true }

/-! ## Firmware images (R449 to R452) -/

/-- The ASCII bytes "OLMUPFW" and 0x00. -/
def fwMagic : List Byte := [0x4F#8, 0x4C#8, 0x4D#8, 0x55#8, 0x50#8, 0x46#8, 0x57#8, 0x00#8]

/-- LEN of a header. -/
def fwLen (h : List Byte) : Nat := leNat ((h.drop 16).take 4)

/-- MINSVN as it stands. -/
def minSvn (s : State) : Nat := s.fld 0x400000 23 16

/-- Verifies an image (R450): what is known of it, or ERR of HUB_RECOV: 1 format, 2 digest, 3 ECDSA, 4 LMS, 5 SVN. -/
def verifyImage (min : Nat) (bs : List Byte) : FwImage ⊕ Nat :=
  let len := fwLen bs
  let body := (bs.drop 4096).take len
  let digest := (bs.drop 24).take 48
  let key := leNat ((bs.drop 20).take 4)
  let svn := leNat ((bs.drop 12).take 1)
  if bs.take 8 ≠ fwMagic || 8384512 < len || bs.length < 4096 + len then .inr 1
  else if (sha384 body).take 48 ≠ digest then .inr 2
  else if !ecdsaGood (Config.caivoKey key) (bs.take 72) ((bs.drop 72).take 96) then .inr 3
  else if !lmsGood (Config.caivoLms key) (bs.take 72) ((bs.drop 168).take 2828) then .inr 4
  else if svn < min then .inr 5
  else .inl ⟨svn, leNat ((bs.drop 8).take 4), digest⟩

/-- A FWREJECT record. -/
def fwReject (s : State) (err : Nat) : State := s.appendRecord 0x09 0x02 0 none none err 0

/-- CMD COMMITSVN: MINSVN rises to the SVN of the running image (R451). -/
def commitSvn (s : State) : State :=
  let m := max (minSvn s) (s.fld 0x400000 31 24)
  let b := s.boot
  { s with boot := { b with fuses := some m } }.setFld 0x400000 23 16 m

/-- A write of SEC_FWUPD; CMD stands in its high word. No update starts once power-fail is signalled (R446), and every command is refused during a record
write (R460). -/
def fwUpdWrite (s : State) (a : Acc) (v : Nat) : State :=
  if !s.writable Off.fwUpd then s
  else
    let old := s.reg64 Off.fwUpd
    let w := accMerge old a v
    let cmd := bits w 63 61
    let high := decide (a ≠ .low)
    if high && (cmd = 1 && (s.fld64 Off.fwUpd 55 54 == 1 || s.powerFail) || cmd ≠ 0 && s.dcr.writing.isSome) then s.setFld64 Off.fwUpd 60 60 1
    else
      let rej := if high && bit w 60 then 0 else bits old 60 60
      let s1 := s.setReg64 Off.fwUpd (rej * 2 ^ 60 + bits old 59 54 * 2 ^ 54 + bits w 47 6 * 64)
      if high && cmd = 1 then s1.setFld64 Off.fwUpd 55 54 1
      else if high && cmd = 2 then commitSvn s1
      else s1

/-- Ends an update: STATE, ERR and interrupt source FWUPD. -/
def fwEnd (s : State) (state err : Nat) : State := ((s.setFld64 Off.fwUpd 59 56 err).setFld64 Off.fwUpd 55 54 state).raiseIrq 10

/-- FW_UPDATE_COMPLETE: the image is verified and written; an image that cannot be read fails its format, and `bad` says that the boot area did not
take it. -/
def fwDone (s : State) (bad : Bool) : State :=
  if s.fld64 Off.fwUpd 55 54 ≠ 1 || memDown s || s.fatal || s.powerFail then s
  else
    let a := s.fld64 Off.fwUpd 47 6 * 64
    let h := memRead s .sched a 4096
    let r := if h.2.1 = .ok && fwLen h.2.2 ≤ 8384512 then memRead h.1 .sched a (4096 + fwLen h.2.2) else h
    let res := if r.2.1 = .ok then verifyImage (minSvn s) r.2.2 else .inr 1
    match res with
    | .inr e => fwReject (fwEnd r.1 3 e) e
    | .inl i =>
      if bad then fwReject (fwEnd r.1 3 6) 6
      else
        let t := r.1
        let b := t.boot
        fwEnd { t with boot := { b with area := some i, areaBad := false, retained := false } } 2 0

/-- A refused HUB_RECOV command. -/
def recovRej (s : State) : State := s.setFld Off.recov 28 28 1

/-- CMD START: the push begins with its length. -/
def recovStart (s : State) : State :=
  if s.fld Off.recov 2 0 ≠ 1 then recovRej s
  else
    let b := s.boot
    { s with boot := { b with push := [], pushLen := s.fld Off.recovArg 22 0 } }.setFld Off.recov 2 0 2

/-- CMD CHUNK: the next 64 KiB, or what is left of the image. -/
def recovChunk (s : State) : State :=
  let b := s.boot
  let have_ := b.push.length
  if s.fld Off.recov 2 0 ≠ 2 || s.fld Off.recovArg 22 0 ≠ have_ || b.pushLen ≤ have_ || have_ % 65536 ≠ 0 then recovRej s
  else
    let n := min 65536 (b.pushLen - have_)
    let bs := ((List.range ((n + 3) / 4)).map fun i => leBytes 4 (s.reg (Off.recovWin + 4 * i))).flatten.take n
    { s with boot := { b with push := b.push ++ bs } }

/-- CMD DONE: the image is verified; accepted, it is written to the boot area and the start resumes at step 4. After power-fail the write cannot start, and
the flash write fails (R446). -/
def recovDone (s : State) (bad : Bool) : State :=
  let b := s.boot
  if s.fld Off.recov 2 0 ≠ 2 || b.push.length ≠ b.pushLen then recovRej s
  else
    let res := verifyImage (fuseSvn s) b.push
    let out (err : Nat) : State :=
      let s1 := ({ s with boot := { b with push := [] } }.setFld Off.recov 27 24 err).setFld Off.recov 2 0 1
      if 3 < b.step then fwReject s1 err else s1
    match res with
    | .inr e => out e
    | .inl i =>
      if bad || s.powerFail then out 6
      else
        let s1 := { s with boot := { b with area := some i, areaBad := false, push := [], running := true, step := 4, repeated := false,
                                            kind := if b.kind = 1 then 2 else b.kind } }
        ((s1.setFld Off.recov 27 24 0).setFld Off.recov 2 0 4).setFld Off.hubStatus 23 20 4

/-- A write of HUB_RECOV; `bad` as in FW_UPDATE_COMPLETE. -/
def recovWrite (s : State) (v : Nat) (bad : Bool) : State :=
  if !s.writable Off.recov then s
  else
    let s1 := if bit v 28 then s.setFld Off.recov 28 28 0 else s
    match bits v 31 29 with
    | 1 => recovStart s1
    | 2 => recovChunk s1
    | 3 => recovDone s1 bad
    | _ => s1

/-! ## SPDM and attestation (R453 to R458) -/

/-- Olmup answers: it runs from step 4 of a start, and not in P3. -/
def olmup (s : State) : Bool := s.boot.image.isSome && powerState s != 3

/-- An answer leaves. -/
def answer (s : State) (x : Answer) : State :=
  let d := s.side
  { s with side := { d with answers := d.answers ++ [x] } }

/-- An answer over MCTP; ALERT# signals that it is pending (R447). -/
def answerMctp (s : State) (x : Answer) : State :=
  let d := s.side
  answer { s with side := { d with alert := true } } x

/-- An answer of the SPDM responder, over DOE or over MCTP as the request came (R453). No row says which: while PERST# is asserted it was MCTP, and otherwise a
free value says (log 102). -/
def answerSpdm (s : State) (x : Answer) : State :=
  let y := s.draw
  if s.power.perst || y.2 % 2 = 1 then answerMctp y.1 x else answer y.1 x

/-- The bytes of measurement block `i` (Table 18-8). -/
def measurement (s : State) (i : Nat) : List Byte :=
  Config.block i (match i with
    | 1 => [Config.romDigest]
    | 2 => (List.range 12).map fun k => s.reg (0x400040 + 4 * k)
    | 3 => [(s.boot.image.map (·.ver)).getD 0, s.fld 0x400000 31 24, s.fld 0x400000 23 16]
    | 4 => [s.reg Off.idrev, s.reg Off.engCount]
    | _ => [s.fld secModel 1 0, s.reg secModelId] ++ (List.range 12).map fun k => s.reg (secDigest k))

/-- Block 0xF0: the report of 92 bytes and its LMS signature with index `q`. -/
def report (s : State) (nonce : List Byte) (q : Nat) : List Byte :=
  let blocks := ([1, 2, 3, 4, 5].map (measurement s)).flatten
  let r := resize 32 nonce ++ leBytes 8 (s.reg64 0x400010) ++ resize 48 (sha384 blocks) ++ leBytes 4 q
  r ++ resize 2828 (Config.lmsSign q r)

/-- An attestation refused because the LMS key is exhausted (R458). -/
def attestRefused (s : State) : State :=
  answerSpdm ((noteExhausted s).count Off.secAtt 15 0 1) (.error 0xFF 1)

/-- The blocks that an index asks for: 0 none, 1 to 5, 0xFF all, 0xF0 the report where a signature is asked for; nothing for another index. -/
def askedBlocks (i : Nat) (signed : Bool) : Option (List Nat) :=
  if i = 0 then some []
  else if i = 0xFF then some ([1, 2, 3, 4, 5] ++ if signed then [0xF0] else [])
  else if 1 ≤ i && i ≤ 5 then some [i]
  else if i = 0xF0 && signed then some [0xF0]
  else none

/-- GET_MEASUREMENTS (R457). Every request for a signature is refused once the key is exhausted (R458). A signed response takes the next LMS index; Busy while the index waits for a reservation. -/
def getMeasurements (s : State) (i : Nat) (signed : Bool) (nonce : List Byte) : State :=
  if !olmup s then s
  else if signed && lmsExhausted s then attestRefused s
  else match askedBlocks i signed with
    | none => answerSpdm s (.error 0x01 0)
    | some bs =>
      let out (t : State) (q : Nat) : State :=
        answerSpdm t (.measurements (bs.map fun b => (b, if b = 0xF0 then report s nonce q else measurement s b)) signed)
      if !signed then out s 0
      else
        let q := lmsNext s
        if lmsRsv s ≤ q then answerSpdm s (.error 0x03 0)
        else out (noteExhausted (s.setReg 0x400018 (q + 1))) q

/-- CHALLENGE (R458). -/
def spdmChallenge (s : State) : State :=
  if !olmup s then s else if lmsExhausted s then attestRefused s else answerSpdm s .challenge

/-- GET_CERTIFICATE of slot 0 or 1 (R455); another slot is an invalid request. -/
def getCertificate (s : State) (slot : Nat) : State :=
  if !olmup s then s else if slot ≤ 1 then answerSpdm s (.certificate slot (Config.certChain slot)) else answerSpdm s (.error 0x01 0)

/-! ## Sessions between devices (R459) -/

/-- SEC_SCMD.ERR, a SESSFAIL record, and interrupt source RELAY: a session open ends without a session. -/
def openFails (s : State) (o : SessOpen) (err : Nat) : State :=
  ((s.setFld64 Off.scmd 59 56 err).appendRecord 0x09 0x03 0 none none (err * 2 ^ 24 + o.k * 2 ^ 16 + o.peer) 0).raiseIrq 11

/-- The open as requester ends. -/
def dropOpening (s : State) (err : Nat) : State :=
  match s.side.opening with
  | none => s
  | some o =>
    let d := s.side
    openFails ({ s with side := { d with opening := none } }.setFld Off.relayCtl 31 31 0) o err

/-- The armed session ends. -/
def dropArmed (s : State) (err : Nat) : State :=
  match s.side.armed with
  | none => s
  | some o =>
    let d := s.side
    openFails { s with side := { d with armed := none } } o err

/-- Session `k` is established with a peer under a key. -/
def sessionOpen (s : State) (o : SessOpen) (msgs : List (List Byte)) : State :=
  let f := s.flash
  ({ s with flash := { f with
      sessKeys := SMap.set noBytes f.sessKeys o.k (expand384 (Config.exportSecret o.k o.peer msgs) (asciiBytes "weights") 32), sessSeq := SMap.set zeroNat f.sessSeq o.k 0 } }.setReg
    (sess o.k) (2 ^ 31 + o.peer)).raiseIrq 11

/-- A message for the host to relay stands in SEC_RELAYOUT, whose bytes at and beyond OUTLEN read 0 (Table 19-6). -/
def putOut (s : State) (bs : List Byte) : State :=
  let m := bs.take 2048
  let s0 := (List.range 512).foldl (fun t i => t.setReg (Off.relayOut + 4 * i) 0) s
  let s1 := (List.range ((m.length + 3) / 4)).foldl (fun t i => t.setReg (Off.relayOut + 4 * i) (leNat ((m.drop (4 * i)).take 4))) s0
  ((s1.setFld Off.relayCtl 27 16 m.length).setFld Off.relayCtl 31 31 1).raiseIrq 11

/-- OP REQUEST: refused while an open is in progress. -/
def sessionRequest (s : State) (k peer : Nat) : State :=
  let d := s.side
  if d.opening.isSome || d.armed.isSome then s.setFld64 Off.scmd 60 60 1
  else putOut { s with side := { d with opening := some ⟨k, peer, s.us, []⟩ } } (Config.relayRequest k peer [])

/-- OP RESPOND arms the device. -/
def sessionRespond (s : State) (k peer : Nat) : State :=
  let d := s.side
  if d.opening.isSome || d.armed.isSome then s.setFld64 Off.scmd 60 60 1
  else { s with side := { d with armed := some ⟨k, peer, s.us, []⟩ } }

/-- OP CLOSE erases session `k` and ends an open of it (R460). -/
def sessionClose (s : State) (k : Nat) : State :=
  let s1 := closeSession s k
  let s2 := if (s1.side.opening.map (·.k)) = some k then dropOpening s1 3 else s1
  if (s2.side.armed.map (·.k)) = some k then dropArmed s2 3 else s2

/-- A write of SEC_SCMD. The fields that read as 0 are kept for a later write of the other word (R11); OP acts with the high word. -/
def scmdWrite (s : State) (a : Acc) (v : Nat) : State :=
  if !s.writable Off.scmd then s
  else
    let old := s.reg64 Off.scmd
    let w := accMerge old a v
    let rej := if decide (a ≠ .low) && bit w 60 then 0 else bits old 60 60
    let s1 := s.setReg64 Off.scmd (rej * 2 ^ 60 + bits old 59 56 * 2 ^ 56 + bits w 51 48 * 2 ^ 48 + bits w 11 0)
    if a = .low then s1
    else match bits w 63 61 with
      | 1 => sessionRequest s1 (bits w 51 48) (bits w 11 0)
      | 2 => sessionRespond s1 (bits w 51 48) (bits w 11 0)
      | 3 => sessionClose s1 (bits w 51 48)
      | _ => s1

/-- RELAY_INGO: a write of SEC_RELAYCTL; INGO delivers the bytes of SEC_RELAYIN to the open in progress. -/
def relayWrite (s : State) (v : Nat) : State :=
  if !s.writable Off.relayCtl then s
  else
    let s1 := plainWrite s Off.relayCtl v
    if !bit v 30 then s1
    else
      let s2 := s1.setFld Off.relayCtl 31 31 0
      match s2.side.opening with
      | none => s2
      | some o =>
        let n := min 2048 (bits v 11 0)
        let m := ((List.range ((n + 3) / 4)).map fun i => leBytes 4 (s2.reg (Off.relayIn + 4 * i))).flatten.take n
        let o1 := { o with msgs := o.msgs ++ [m] }
        let d := s2.side
        match Config.relayVerdict o.k o.peer o1.msgs with
        | 0 => putOut { s2 with side := { d with opening := some o1 } } (Config.relayRequest o.k o.peer o1.msgs)
        | 1 => sessionOpen { s2 with side := { d with opening := none } } o o1.msgs
        | _ => dropOpening s2 2

/-- SESSION_OPEN_TIMEOUT: a relay that has not completed within 10 s. -/
def openTimeout (s : State) : State :=
  match s.side.opening with
  | none => s
  | some o => if s.us < o.us + 10000000 then s else dropOpening s 1

/-- A write of SEC_MODEL; an unload that closes every session ends an open in progress (R460). -/
def secModelWrite (s : State) (v : Nat) : State :=
  let t := modelWrite s v
  if t.flash.unloading && !s.flash.unloading then dropArmed (dropOpening t 3) 3 else t

/-- The algorithms and the capabilities that the responder negotiates, and nothing else (R453). -/
def spdmAlgorithms : List SpdmAlgorithm := [.ecdsaP384, .sha384, .dheSecp384r1, .aes256Gcm, .spdmKeySchedule]
def spdmCapabilities : List SpdmCapability := [.cert, .chal, .measSig, .keyEx, .encrypt, .mac, .mutAuth, .hbeat, .keyUpd]

/-- Other SPDM requests (R453): GET_VERSION (0x84), GET_CAPABILITIES (0xE1) and NEGOTIATE_ALGORITHMS (0xE3) have fixed answers, and the others are answered under the standard; at
most four host sessions; the armed device session may complete or fail. An object above 64 KiB is none. -/
def spdmRequest (s : State) (code : Nat) (payload : List Byte) : State :=
  if !olmup s || 65536 < payload.length then s
  else if code = 0x84 then answerSpdm s (.version 1 3)
  else if code = 0xE1 then answerSpdm s (.capabilities spdmCapabilities)
  else if code = 0xE3 then answerSpdm s (.algorithms spdmAlgorithms)
  else
    let d := s.side
    let eff := Config.spdmEffect code payload d.msgs
    if eff = 1 && 4 ≤ d.hostSessions then answerSpdm s (.error 0x0A 0)
    else
      let msgs := d.msgs ++ [payload]
      let n := if eff = 1 then d.hostSessions + 1 else if eff = 2 then d.hostSessions - 1 else d.hostSessions
      let s1 := answerSpdm { s with side := { d with msgs := msgs, hostSessions := n } } (.spdm code (Config.spdmReply code payload d.msgs))
      if eff = 3 then
        match d.armed with
        | some o =>
          let e := s1.side
          sessionOpen { s1 with side := { e with armed := none } } o msgs
        | none => s1
      else if eff = 4 then dropArmed s1 2
      else s1

/-! ## Sideband and DOE (R447, R453) -/

/-- The address on the sideband that the module answers at: 0x40 + MID as an SMBus target, the dynamic address as an I3C target (R447). -/
def busAddress (s : State) : Nat := s.side.i3c.getD (0x40 + s.boot.mid)

/-- PLDM sensors: 0 and 1 coolant inlet and outlet, 2 to 4 input voltage, current and power, 5 to 21 the junction temperatures of the other dies, 22 to 29 the rail
currents of V0 to V7, 30 PWR_STATE.STATE, 31 HUB_STATUS.READY, 32 to 39 the junction temperatures of V0 to V7. What the device keeps no measurement of is a
free value. -/
def pldm (s : State) (i : Nat) : State :=
  if !olmup s then s
  else if i = 0 then answerMctp s (.sensor (s.fld Off.pwrTherm 7 0))
  else if i = 4 then answerMctp s (.sensor (s.fld Off.pwrInput 20 0))
  else if 5 ≤ i && i ≤ 21 then answerMctp s (.sensor (SMap.get zeroNat s.power.temps (i - 5)))
  else if i = 30 then answerMctp s (.sensor (powerShown s))
  else if i = 31 then answerMctp s (.sensor (s.fld Off.hubStatus 31 31))
  else if 32 ≤ i && i ≤ 39 then answerMctp s (.sensor (SMap.get zeroNat s.power.temps (i - 15)))
  else
    let x := s.draw
    answerMctp x.1 (.sensor x.2)

/-- MCTP_CONTROL: Set Endpoint ID (1) assigns the endpoint ID, which every answer carries. -/
def mctpControl (s : State) (cmd eid : Nat) : State :=
  if !olmup s then s
  else
    let d := s.side
    let s1 := if cmd = 1 then { s with side := { d with eid := eid } } else s
    answerMctp s1 (.control cmd s1.side.eid)

/-- I3C_ADDRESS_ASSIGNMENT: SETDASA or SETAASA with an address; none is a target reset, which ends ALERT# (log 102). -/
def i3cAssign (s : State) (a : Option Nat) : State :=
  if !s.boot.powered then s
  else
    let d := s.side
    { s with side := { d with i3c := a, alert := d.alert && a.isSome } }

/-- DOE_DISCOVERY: the protocols of the mailbox by index, with PCI-SIG's vendor ID: 0 discovery, 1 SPDM, 2 secured SPDM. The mailbox is reached by PCI Express,
so not while PERST# is asserted. -/
def doeDiscovery (s : State) (i : Nat) : State :=
  if !olmup s || s.power.perst then s
  else if 2 < i then answer s (.discovery 0xFFFF 0 0) else answer s (.discovery 1 i (if i = 2 then 0 else i + 1))

end Sys2Proof.Machine
end

