-- ==== Sys2Proof/Machine/Search.lean ====
section
/-! DEFINITION. Motion search (R312, R313). The result of its quarter-resolution stage is an uninterpreted vector of the window; the full-sample and
the fractional stages follow the cost and tie rules exactly. -/

namespace Sys2Proof.Machine

/-- A parameter block (Table 12-9) with the luma planes of its pictures. -/
structure Search where
  words : List Nat
  field : Nat
  w : Nat
  h : Nat
  /-- the block size -/
  b : Nat
  gx : Int
  gy : Int
  lambda : Nat
  cur : List Byte
  /-- the part of the reference that the windows cover: its first column and row, its width and its samples -/
  rx : Nat
  ry : Nat
  rw : Nat
  ref : List Byte
  bps : Nat
  deriving DecidableEq, Repr

/-- A coordinate at the nearest edge of a picture of `n` samples. -/
def nearest (n : Nat) (x : Int) : Nat := (min (max x 0) (Int.ofNat n - 1)).toNat

/-- Sample `i` of a list of samples. -/
def Search.sample (m : Search) (pic : List Byte) (i : Nat) : Nat := leNat ((pic.drop (i * m.bps)).take m.bps)

/-- A sample of the current and of the reference picture. -/
def Search.curAt (m : Search) (x y : Int) : Nat := m.sample m.cur (nearest m.h y * m.w + nearest m.w x)
def Search.refAt (m : Search) (x y : Int) : Nat := m.sample m.ref ((nearest m.h y - m.ry) * m.rw + (nearest m.w x - m.rx))

/-- A quarter-sample value of the reference: bilinear, rounded half up. -/
def Search.quarter (m : Search) (x y : Int) : Nat :=
  let ix := x / 4
  let iy := y / 4
  let fx := (x % 4).toNat
  let fy := (y % 4).toNat
  let r (dx dy : Int) := m.refAt (ix + dx) (iy + dy)
  ((4 - fx) * (4 - fy) * r 0 0 + fx * (4 - fy) * r 1 0 + (4 - fx) * fy * r 0 1 + fx * fy * r 1 1 + 8) / 16

/-- The sum of absolute differences of the block at (bx, by) under a quarter-sample vector. -/
def Search.sad (m : Search) (bx by_ : Nat) (v : Int × Int) : Nat :=
  ((List.range m.b).map fun j => ((List.range m.b).map fun i =>
    let x : Int := Int.ofNat (bx + i)
    let y : Int := Int.ofNat (by_ + j)
    let a := m.curAt x y
    let c := m.quarter (4 * x + v.1) (4 * y + v.2)
    (a - c) + (c - a)).foldl (· + ·) 0).foldl (· + ·) 0

/-- The distance of a vector from the predictor. -/
def vecDist (p v : Int × Int) : Nat := (v.1 - p.1).natAbs + (v.2 - p.2).natAbs

/-- cost(v) of R312. -/
def Search.cost (m : Search) (bx by_ : Nat) (p v : Int × Int) : Nat := min (m.sad bx by_ v + (m.lambda * vecDist p v) / 256) 65535

/-- The block under a vector, with its interpolation taps, lies within the window. -/
def Search.inside (m : Search) (v : Int × Int) : Bool :=
  let ok (g : Int) (half size : Nat) (q : Int) : Bool :=
    let lo := q / 4
    let hi := lo + Int.ofNat m.b + (if q % 4 = 0 then 0 else 1)
    let first := g - Int.ofNat half + Int.ofNat m.b / 2
    decide (first ≤ lo) && decide (hi ≤ first + Int.ofNat size)
  ok m.gx 256 512 v.1 && ok m.gy 128 256 v.2

/-- Vector `a` is chosen before `b`: lower cost, then the smaller distance from the predictor, then the smaller vy, then the smaller vx. -/
def betterVec (p : Int × Int) (a b : Nat × Int × Int) : Bool :=
  decide (a.1 < b.1) || (a.1 == b.1 && (decide (vecDist p a.2 < vecDist p b.2) || (vecDist p a.2 == vecDist p b.2 &&
    (decide (a.2.2 < b.2.2) || (a.2.2 == b.2.2 && decide (a.2.1 < b.2.1))))))

/-- The best of the candidates at a step around a vector. -/
def Search.refine (m : Search) (bx by_ : Nat) (p : Int × Int) (step : Int) (n : Nat) (v : Int × Int) : Int × Int :=
  let offs := (List.range (2 * n + 1)).map fun i => (Int.ofNat i - Int.ofNat n) * step
  let cands := ((offs.map fun dy => offs.map fun dx => ((v.1 + dx, v.2 + dy) : Int × Int)).flatten).filter m.inside
  (cands.foldl (fun (best : Nat × Int × Int) c =>
    let x := (m.cost bx by_ p c, c)
    if betterVec p x best then x else best) (m.cost bx by_ p v, v)).2

/-- The vector that the first stage gives: a full-sample vector of the window, open within it. -/
def Search.coarse (m : Search) (k : Nat) (p : Int × Int) : Int × Int :=
  let nx := 513 - m.b
  let ny := 257 - m.b
  let q := Config.coarseVector (leBytes 64 0 ++ (m.words.map (leBytes 8)).flatten) m.cur m.ref k p % (nx * ny)
  (4 * (m.gx - 256 + Int.ofNat m.b / 2 + Int.ofNat (q % nx)), 4 * (m.gy - 128 + Int.ofNat m.b / 2 + Int.ofNat (q / nx)))

/-- The record of block `k` in raster order under its predictor (Table 12-10), and its EDGE bit. -/
def Search.record (m : Search) (k : Nat) (p : Int × Int) : Nat × Bool :=
  let cols := (m.w + m.b - 1) / m.b
  let bx := m.b * (k % cols)
  let by_ := m.b * (k / cols)
  let v1 := m.refine bx by_ p 4 4 (m.coarse k p)
  let v := m.refine bx by_ p 1 1 (m.refine bx by_ p 2 1 v1)
  let edge := !([(1, 0), (-1, 0), (0, 1), (0, -1)].all fun (d : Int × Int) => m.inside (v.1 + d.1, v.2 + d.2))
  let clip := decide (m.w < bx + m.b) || decide (m.h < by_ + m.b)
  ((if clip then 2 ^ 49 else 0) + (if edge then 2 ^ 48 else 0) + m.cost bx by_ p v * 2 ^ 32 + imod v.2 65536 * 65536 + imod v.1 65536, edge)

/-- Blocks of a search. -/
def Search.blocks (m : Search) : Nat := (m.w + m.b - 1) / m.b * ((m.h + m.b - 1) / m.b)

/-- Searches the blocks in raster order and writes their records. -/
def searchBlocks (m : Search) (pred : Nat) : List Nat → State → State × MemEnd
  | [], s => (s, .ok)
  | k :: t, s =>
    let q := if pred = 0 then (s, MemEnd.ok, 0) else memReadNat s .codec (pred + 8 * k) 8
    if q.2.1 ≠ .ok then (q.1, q.2.1)
    else
      let p : Int × Int := if pred = 0 then (4 * m.gx, 4 * m.gy) else (sext 16 q.2.2, sext 16 (q.2.2 / 65536))
      let r := m.record k p
      let w := memWrite q.1 .codec (m.field + 8 * k) (leBytes 8 r.1)
      if w.2 ≠ .ok then w
      else
        let s1 := w.1.count 0x802000 31 0 1
        searchBlocks m pred t (if r.2 then s1.count 0x802004 31 0 1 else s1)

/-- Of `n` samples, the first that the windows of all blocks cover and how many: windows of `size` samples that begin `half` before each block's
middle, moved by `g`; a sample outside the picture is the nearest edge's. -/
def windowSpan (n b : Nat) (g : Int) (half size : Nat) : Nat × Nat :=
  let first := g - Int.ofNat half + Int.ofNat b / 2
  let lo := nearest n first
  (lo, nearest n (first + Int.ofNat (b * ((n + b - 1) / b - 1) + size - 1)) - lo + 1)

/-- The MSEARCH of a unit ends. -/
def searchJob (s : State) (j : CJob) : State :=
  let pb := memRead s .codec (j.f 1 47 0) 64
  if pb.2.1 = .wait then s
  else if pb.2.1 ≠ .ok then endJob pb.1 j.index 5 true
  else
    let ws := words8 pb.2.2
    let f (i hi lo : Nat) := bits (ws.getD i 0) hi lo
    let w := f 3 63 50 + 1
    let h := f 3 49 36 + 1
    let b := if f 3 35 35 = 1 then 16 else 8
    let bps := if f 3 34 34 = 1 then 2 else 1
    let n := (w + b - 1) / b * ((h + b - 1) / b)
    if 8192 < w || 4320 < h || f 2 55 32 % 64 ≠ 0 || f 2 23 0 % 64 ≠ 0 || hbmSize < j.f 3 47 0 + 8 * n then endJob pb.1 j.index 3 false
    else
      let c := readPlane (f 0 47 0) (f 2 23 0) (w * bps) (List.range h) pb.1
      let gx := sext 16 (f 5 63 48)
      let gy := sext 16 (f 5 47 32)
      let x := windowSpan w b gx 256 512
      let y := windowSpan h b gy 128 256
      let r := readPlane (f 1 47 0 + f 2 55 32 * y.1 + bps * x.1) (f 2 55 32) (x.2 * bps) (List.range y.2) c.1
      if c.2.1 = .wait || r.2.1 = .wait then s
      else if c.2.1 ≠ .ok || r.2.1 ≠ .ok then endJob r.1 j.index 5 true
      else
        let m : Search := { words := ws, field := j.f 3 47 0, w := w, h := h, b := b, gx := gx, gy := gy,
                            lambda := f 3 15 0, cur := c.2.2, rx := x.1, ry := y.1, rw := x.2, ref := r.2.2, bps := bps }
        let z := searchBlocks m (f 4 47 0) (List.range m.blocks) r.1
        if z.2 = .wait then s
        else if z.2 ≠ .ok then endJob z.1 j.index 5 true
        else endWith z.1 j.index 1 0 0 false

/-- MSEARCH on a motion-search unit. -/
def codecSearch (s : State) (u : Nat) : State := onUnit s u fun t j => if j.op = 6 then searchJob t j else t

end Sys2Proof.Machine
end

