-- ==== Sys2Proof/Machine/Bar.lean ====
section
/-! DEFINITION. BAR0 as the host sees it (R11 to R15, R26, R464 to R469): every offset routed to the behaviour of its register, the windows of the
engines, fields that follow from the state of a unit, and the sideband's reads and writes. -/

namespace Sys2Proof.Machine

/-! ## The window of an engine (R26, Table 19-9) -/

/-- A BAR0 offset inside a window: the engine and the offset in its window. -/
def windowOf (off : Nat) : Option (Nat × Nat) :=
  if 0x1000000 ≤ off && off < 0x1600000 then some ((off - 0x1000000) / 0x10000, (off - 0x1000000) % 0x10000) else none

/-- What stands in an engine's window, whichever engine it is. -/
def windowSlot (x : Nat) : Slot :=
  let d : WordDef := ⟨0, 0, 0⟩
  if x = 0x10 || x = 0x48 then .low d
  else if x = 0x14 || x = 0x4C then .high d
  else if x % 4 ≠ 0 then .hole
  else if x ≤ 0xC || x = 0x18 || x = 0x1C || x = 0x20 || x = 0x40 then .single d
  else if 0x100 ≤ x && x < 0x180 then .single d
  else if 0x1000 ≤ x && x < 0x1100 then .single d
  else .hole

/-- What stands at any BAR0 offset. An offline engine, or one at or above ENG_COUNT, has no register (R26). -/
def slotOf' (s : State) (off : Nat) : Slot :=
  match windowOf off with
  | some (n, x) => if (s.eng n).online && decide (n < engCount s) then windowSlot x else .hole
  | none => slotAt (canonOff off)

/-- A flag as a bit of a word. -/
def flag (b : Bool) (i : Nat) : Nat := if b then 2 ^ i else 0

/-- ENG_BIND, ENG_STATUS, ENG_FAULT and ENG_QOCC (Tables 2-7, 2-8, 2-10 and 2-14). -/
def engBind (g : Engine) (n : Nat) : Nat := slotDie g.slot * 2 ^ 24 + g.slot * 2 ^ 16 + groupOf g.slot * 2 ^ 8 + n
def engStatus (g : Engine) : Nat :=
  flag g.semSat 31 + flag g.eccCe 30 + flag g.bank 8 + flag g.halted 7 + flag (decide (g.issue = .faulted)) 6 + flag (!g.skidderIdle) 5 +
    flag (!g.bound && g.queuesEmpty && g.skidderIdle) 4 +
    ((List.range 4).map fun i => flag (!(g.queue i).isEmpty) i).foldl (· + ·) 0
def engFault (g : Engine) : Nat := flag g.faultValid 31 + g.faultCtx * 2 ^ 16 + g.faultCode
def engQocc (g : Engine) : Nat :=
  Engine.occupancy g.spillQ * 2 ^ 26 + Engine.occupancy g.fillQ * 2 ^ 20 + g.places 3 * 2 ^ 15 + g.places 2 * 2 ^ 10 + g.places 1 * 2 ^ 5 + g.places 0

/-- A word of the Bucking view (R184): BUSY while an instruction runs the slot; NLEV and TAG stand in the slot's header. -/
def buckWord (g : Engine) (b k : Nat) : Nat :=
  let v := SMap.get (fun _ => {}) g.views b
  let h := leNat (g.slots.rdN (256 * b) 8)
  match k with
  | 0 => flag (g.fillQ.any fun x => winSlot x == some b) 31 + flag v.xflt 30 + v.xlev * 2 ^ 27 + bits h 2 0 * 2 ^ 16 + bits h 31 16
  | 1 => v.iter
  | 2 => v.xext
  | _ => v.xbnd

/-- A word of a window, but for ENG_DBG_DATA. -/
def windowWord (g : Engine) (n x : Nat) : Nat :=
  if x = 0 then engBind g n
  else if x = 4 then engStatus g
  else if x = 8 then flag g.haltReq 0
  else if x = 0xC then engFault g
  else if x = 0x10 then g.pc / 8 * 8
  else if x = 0x18 then g.flags.toNat
  else if x = 0x1C then engQocc g
  else if x = 0x20 then g.mhz
  else if x = 0x40 then flag g.dbgUe 31 + flag g.dbgAinc 30 + g.dbgAddr
  else if 0x100 ≤ x && x < 0x180 then g.sem ((x - 0x100) / 4)
  else if 0x1000 ≤ x && x < 0x1100 then buckWord g ((x - 0x1000) / 16) ((x - 0x1000) % 16 / 4)
  else 0

/-- A write of a word of a window by its low or only offset. -/
def windowWrite (s : State) (n x : Nat) (a : Acc) (v : Nat) : State :=
  if x = 4 then s.modEng n fun g => { g with semSat := g.semSat && !bit v 31, eccCe := g.eccCe && !bit v 30 }
  else if x = 8 then writeHalt s n (bit v 0)
  else if x = 0xC then s.modEng n fun g => { g with faultValid := g.faultValid && !bit v 31 }
  else if x = 0x40 then s.modEng n fun g => { g with dbgUe := g.dbgUe && !bit v 31, dbgAinc := bit v 30, dbgAddr := bits v 22 0 }
  else if x = 0x48 then dbgWrite s n a v
  else if 0x100 ≤ x && x < 0x180 then writeSem s n ((x - 0x100) / 4) v
  else s

/-! ## Fields that follow from a unit's state -/

/-- The bits that a unit's state gives a word, over the stored ones. -/
def liveWord (s : State) (off v : Nat) : Nat :=
  if off = Off.pwrState then putBits v 1 0 (powerShown s)
  else if 0x100100 ≤ off && off < 0x100240 && off % 8 = 4 then
    targetOf s ((off - 0x100100) / 8) % 32 * 2 ^ 27 + chargedOf s ((off - 0x100100) / 8) % 2 ^ 21
  else if off = Off.workCtl then putBits v 30 30 (if (List.range 64).any fun c => (s.ctx c).item.isSome then 1 else 0)
  else if off = Off.kvStat then min 65535 s.kv.edits.length * 2 ^ 16 + min 65535 s.kv.walks.length
  else if off = Off.ferryCtl then putBits v 30 30 (if s.kv.ferry then 1 else 0)
  else if off = 0x800008 then putBits v 30 30 (if s.codec.jobs.isEmpty then 0 else 1)
  else if off = 0x800018 then
    ((List.range 8).map fun u => flag (s.codec.jobs.any fun j => j.unit == some u) u).foldl (· + ·) 0
  else if off = Off.widenUsed then widenUsed s % 2 ^ 20
  else if off = flsCtl then putBits v 30 30 (if s.flash.cmds.isEmpty then 0 else 1)
  else if 0x301000 ≤ off && off < 0x302000 && off % 0x40 = 0x24 then
    match (s.ctx ((off - 0x301000) / 0x40)).item with
    | some it => min (s.us - it.startUs) (2 ^ 32 - 1)
    | none => v
  else v

/-! ## Reads -/

/-- The value at largest 64 bits of a TLY counter's word or words, with the clearing of R469. -/
def tlyRead (s : State) (off : Nat) (a : Acc) : State × Nat :=
  let v := s.reg64 off
  match a with
  | .both => (s.setReg64 off 0, v)
  | .low => ({ s.setReg64 off 0 with tlyHold := SMap.set zeroNat s.tlyHold off (v / 2 ^ 32) }, v % 2 ^ 32)
  | .high => ({ s with tlyHold := SMap.set zeroNat s.tlyHold off 0 }, SMap.get zeroNat s.tlyHold off)

/-- A read of a register by its low or only offset. -/
def regRead (s : State) (off : Nat) (a : Acc) : State × Nat :=
  match windowOf off with
  | some (n, x) =>
    if x = 0x48 then
      let t := dbgRead s n a
      (t, t.host.readData.toNat)
    else (s, if a = .high then 0 else windowWord (s.eng n) n x)
  | none =>
    if 0x3C01000 ≤ off && off < 0x4000000 then tlyRead s off a
    else
      let lo := plainRead s off
      match a with
      | .low => (lo.1, liveWord s (canonOff off) lo.2)
      | .high => plainRead s (off + 4)
      | .both =>
        let hi := plainRead lo.1 (off + 4)
        (hi.1, lo.2 + 2 ^ 32 * hi.2)

/-- A 32-bit read. -/
def read32 (s : State) (off : Nat) : State × Nat :=
  match slotOf' s off with
  | .hole => (s, 0)
  | .single _ | .low _ => regRead s off .low
  | .high _ => regRead s (off - 4) .high

/-- A read as the block serves it now (Table 19-1): none where nothing answers. -/
def serveRead (s : State) (off : Nat) (go : State → State × Nat) (ones : Nat) : State × Option Nat :=
  match s.service off with
  | .silent => (s, none)
  | .empty => (s, some 0)
  | .ones => (s, some ones)
  | _ => let x := go s; (x.1, some x.2)

/-- A host read of `n` bytes of BAR0 (R11, R12); it leaves its completion in the host port. A read of another width or a misaligned one returns zeros and has no
side effect. Nothing answers in L2 or while PERST# is asserted (R442). -/
def bar0Read (s : State) (off n : Nat) : State :=
  let out (x : State × Option Nat) : State := match x.2 with
    | none => x.1
    | some v => answerWord x.1 v
  if 0x4000000 ≤ off || hostSilent s then s
  else if (n ≠ 4 && n ≠ 8) || off % n ≠ 0 then answerWord s 0
  else if n = 8 then
    match slotOf' s off with
      | .low _ => out (serveRead s off (fun t => regRead t off .both) (2 ^ 64 - 1))
      | _ => out (serveRead s off (fun t =>
          let lo := read32 t off
          let hi := read32 lo.1 (off + 4)
          (hi.1, lo.2 + 2 ^ 32 * hi.2)) (2 ^ 64 - 1))
  else out (serveRead s off (fun t => read32 t off) (2 ^ 32 - 1))

/-! ## Writes -/

/-- A context's CTL: its fields, then its command (R315). -/
def ctxCtlWrite (s : State) (c v : Nat) : State :=
  let s1 := plainWrite s (Off.ctxReg c 0) v
  match bits v 31 29 with
  | 1 => ctxOpen s1 c
  | 2 => ctxPreempt s1 c
  | 3 => ctxResume s1 c
  | 4 => ctxTeardown s1 c
  | 5 => ctxEnd s1 c
  | _ => s1

/-- A write of an MSI-X vector control word: clearing the mask of a pending vector sends it (R443). -/
def msixWrite (s : State) (off v : Nat) : State :=
  let s1 := plainWrite s off v
  let n := (off - 0x8000) / 16
  if off % 16 = 12 && !bit v 0 && !s1.host.msixMask && s1.host.msixEnable && s1.fld (Off.msixPba n) (n % 32) (n % 32) = 1 then
    (s1.setFld (Off.msixPba n) (n % 32) (n % 32) 0).sendVector n
  else s1

/-- A write of a register of the hub global block. -/
def hubWrite (s : State) (off : Nat) (a : Acc) (v : Nat) : State :=
  if off = Off.hubReset then hubResetWrite s v
  else if off = Off.hubDcrcmd then dcrCmdWrite s a v
  else if off = Off.hubRetire then retireWrite s v
  else if off = Off.bar2Base then bar2BaseWrite s v
  else if off = Off.recov then recovWrite s v false
  else if 0x8000 ≤ off && off < 0x9000 then msixWrite s off v
  else plainWriteAcc s off a v

/-- A write of a register of the PWR_ block. -/
def pwrWrite (s : State) (off v : Nat) : State :=
  if off = Off.pwrBudget then budgetWrite s v
  else if off = Off.pwrState then stateWrite s v
  else if 0x100100 ≤ off && off < 0x100240 && off % 8 = 0 then reqWrite s ((off - 0x100100) / 8) v
  else if 0x100400 ≤ off && off < 0x10042C then oppWrite s ((off - 0x100400) / 4) v
  else if 0x100500 ≤ off then ivrWrite s ((off - 0x100500) / 4) v
  else plainWrite s off v

/-- A write of a register of the SCH_ block. -/
def schWrite (s : State) (off : Nat) (a : Acc) (v : Nat) : State :=
  let c := (off - 0x301000) / 0x40
  let o := (off - 0x301000) % 0x40
  if off = Off.workCtl || off = Off.ferryCtl then ringCtlWrite s off v
  else if 0x301000 ≤ off && off < 0x302000 then
    (if o = 0 then ctxCtlWrite s c v
     else if 0x14 ≤ o && o ≤ 0x1C then ctxSetWrite s c ((o - 0x14) / 4) v
     else plainWriteAcc s off a v)
  else if 0x308040 ≤ off && off < 0x30C000 && off % 0x40 = 0 then writeMonCtl s ((off - 0x308000) / 0x40) v
  else plainWriteAcc s off a v

/-- A write of a register of the SEC_ block. -/
def secWrite (s : State) (off : Nat) (a : Acc) (v : Nat) : State :=
  if off = Off.fwUpd then fwUpdWrite s a v
  else if off = Off.scmd then scmdWrite s a v
  else if off = Off.relayCtl then relayWrite s v
  else if off = secModel then secModelWrite s v
  else if off = secKcmd then kcmdWrite s a v
  else plainWriteAcc s off a v

/-- A write of a register of the MEM_ and LND_ blocks. -/
def memBlockWrite (s : State) (off : Nat) (a : Acc) (v : Nat) : State :=
  if off < 0x3000400 then mapWrite s ((off - 0x3000000) / 16) (off % 16 == 8) a v
  else if 0x3800000 ≤ off && off < 0x3820000 then
    let d := (off - 0x3800000) / 0x10000
    let x := (off - 0x3800000) % 0x10000
    if x = 0 then partWrite s d v
    else if 0x100 ≤ x && x < 0x180 then allocWrite s d ((x - 0x100) / 8) a v
    else plainWriteAcc s off a v
  else plainWriteAcc s off a v

/-- A write of a register by its low or only offset. -/
def regWrite (s : State) (off : Nat) (a : Acc) (v : Nat) : State :=
  match windowOf off with
  | some (n, x) => windowWrite s n x a v
  | none =>
    if off < 0x100000 then hubWrite s off a v
    else if off < 0x200000 then pwrWrite s off v
    else if off = Off.errHead then writeErrHead s v
    else if off < 0x300000 then plainWriteAcc s off a v
    else if off < 0x400000 then schWrite s off a v
    else if off < 0x800000 then secWrite s off a v
    else if off = 0x800008 || off = flsCtl then ringCtlWrite s off v
    else if off < 0x2000000 then plainWriteAcc s off a v
    else if off < 0x3000000 then linkWrite s (canonOff off) a v
    else memBlockWrite s off a v

/-- A 32-bit write that reaches the block. -/
def write32 (s : State) (off v : Nat) : State :=
  match slotOf' s off with
  | .hole => s
  | .single _ | .low _ => regWrite s off .low (v % 2 ^ 32)
  | .high _ => regWrite s (off - 4) .high (v % 2 ^ 32)

/-- The block takes a write now; containment lets one of HUB_RESET through (R333). -/
def takesWrite (s : State) (off : Nat) : Bool := s.writable off || (off == Off.hubReset && s.fatal && powerState s != 3)

/-- A 32-bit write of an aligned offset of BAR0. -/
def word32 (s : State) (off v : Nat) : State := if takesWrite s off then write32 s off v else s

/-- A 64-bit write of an aligned offset of BAR0: one update of a 64-bit register, or two 32-bit writes (R11). -/
def word64 (s : State) (off v : Nat) : State :=
  match slotOf' s off with
  | .low _ => if takesWrite s off then regWrite s off .both (v % 2 ^ 64) else s
  | _ => word32 (word32 s off v) (off + 4) (v / 2 ^ 32)

/-- A host write of `n` bytes of BAR0: one of another width or misaligned is ignored (R12); poisoned data are dropped and reported (R441). Nothing reaches the
device where the function is silent (R442). -/
def bar0Write (s : State) (off n : Nat) (poison : Bool) (v : Nat) : State :=
  if 0x4000000 ≤ off || hostSilent s then s
  else if poison then poisonedWrite s
  else if (n ≠ 4 && n ≠ 8) || off % n ≠ 0 then s
  else if n = 8 then word64 s off v
  else word32 s off v

/-! ## The sideband (R447) -/

/-- MCTP_READ32: the hub global, PWR_ and ERR_ blocks; other offsets read 0. Nothing answers in P3. -/
def mctpRead (s : State) (off : Nat) : State :=
  if powerState s = 3 || !s.boot.powered then s
  else if 0x300000 ≤ off || off % 4 ≠ 0 then answerMctp s (.word 0)
  else match serveRead s off (fun t => read32 t off) (2 ^ 32 - 1) with
    | (t, some v) => answerMctp t (.word v)
    | (t, none) => t

/-- MCTP_WRITE32; it reaches its blocks in L2 too (R442), and nothing without input power. -/
def mctpWrite (s : State) (off v : Nat) : State :=
  if !s.boot.powered || 0x300000 ≤ off || off % 4 ≠ 0 then s else word32 s off (v % 2 ^ 32)

end Sys2Proof.Machine
end

