-- ==== Sys2Proof/Machine/Ferry.lean ====
section
/-! DEFINITION. The Ferry (R241 to R245): swap-out and swap-in descriptors of its ring, their compare-and-swap commits, and the deferral of a commit
to a pinned entry (R238). -/

namespace Sys2Proof.Machine

/-- The ring of the Ferry. -/
def ferrySize (s : State) : Nat := ringSize (s.fld Off.ferryCtl 4 0)
def ferryIndex (s : State) : Nat := s.fld Off.ferryHead 15 0 % ferrySize s
def ferryAddr (s : State) : Nat := s.fld64 Off.ferryRing 47 6 * 64 + 32 * ferryIndex s

/-- A descriptor waits and the Ferry may start it: EN is 1, none is in progress, the device is ready and not contained. -/
def ferryReady (s : State) : Bool :=
  s.ready && !s.fatal && s.fld Off.ferryCtl 31 31 == 1 && !s.kv.ferry && ferryIndex s != s.fld Off.ferryTail 15 0 % ferrySize s

/-- A Ferry descriptor (Table 9-8). -/
structure FerryDesc where
  op : Nat
  ctx : Nat
  gen : Nat
  eaddr : Nat
  unit : Nat
  slot : Nat
  w3 : Nat
  deriving DecidableEq, Repr

def ferryDesc (bs : List Byte) : FerryDesc :=
  let w (i : Nat) := leNat ((bs.drop (8 * i)).take 8)
  ⟨bits (w 0) 63 62, bits (w 0) 61 56, bits (w 0) 55 48, bits (w 0) 47 0, bits (w 1) 47 0, bits (w 2) 47 0, w 3⟩

/-- The Ferry writes STAT, counts, advances HEAD and raises its source (R242). A descriptor whose STAT cannot be written ends with ERROR (R271). -/
def ferryEnd (s : State) (d : FerryDesc) (stat : Nat) (record : Bool) : State :=
  let i := ferryIndex s
  let w := memWrite s .ferry (ferryAddr s + 24) (leBytes 8 (putBits d.w3 63 56 stat))
  let out := if w.2 = .ok then stat else 4
  let s2 := if out = 2 then w.1.count Off.ferryCnt 15 0 1 else if out = 3 then w.1.count Off.ferryCnt 31 16 1 else w.1
  let s3 := if record || w.2 ≠ .ok then s2.appendRecord 0x05 out 1 (some d.ctx) none i 0 else s2
  ({ s3 with kv := { s3.kv with ferry := false } }.setFld Off.ferryHead 15 0 ((i + 1) % ferrySize s)).raiseIrq 1

/-- The device address of the data and of the scales of a unit or host slot. -/
def ferryData (s : State) (host : Bool) (x : Nat) : Nat :=
  ((if host then s.fld64 Off.ferryHost 63 14 * 16384 else s.fld64 Off.boomBase 47 14 * 16384) + 16384 * x) % 2 ^ 48
def ferryScales (s : State) (host : Bool) (x : Nat) : Nat :=
  ((if host then s.fld64 Off.ferryHscl 63 6 * 64 else s.fld64 Off.boomScale 47 6 * 64) + 64 * x) % 2 ^ 48

/-- Copies bytes between two device addresses. -/
def ferryCopy (s : State) (src dst n : Nat) : State × MemEnd :=
  let x := memRead s .ferry src n
  if x.2.1 = .ok then memWrite x.1 .ferry dst x.2.2 else (x.1, x.2.1)

/-- Copies the units and scale slots of a page. -/
def ferryPage (out : Bool) (src dst n : Nat) (s : State) : State × MemEnd :=
  let a := ferryCopy s (ferryData s (!out) src) (ferryData s out dst) (16384 * n)
  if a.2 = .ok then ferryCopy a.1 (ferryScales s (!out) src) (ferryScales s out dst) (64 * n) else a

/-- Carries out a swap descriptor (R242). A format or size code that Table 9-3 calls illegal ends it with ERROR. -/
def ferrySwap (s : State) (d : FerryDesc) (out : Bool) : State :=
  if d.eaddr % 8 ≠ 0 then ferryEnd s d 4 true
  else
    let r := memReadNat s .ferry d.eaddr 8
    match r.2.1 with
    | .wait => s
    | .ok =>
      let e := pte r.2.2
      let src := if out then d.unit else d.slot
      let dst := if out then d.slot else d.unit
      if !e.v || e.loc == out || e.frame != src || e.gen != d.gen then ferryEnd r.1 d 2 false
      else if 2 ≤ e.fmt || 7 ≤ e.size then ferryEnd r.1 d 4 true
      else
        let c := ferryPage out src dst (2 ^ e.size * frameUnits e.fmt) r.1
        match c.2 with
        | .wait => s
        | .ok =>
          let new := ({ e with loc := out, frame := dst, gen := (d.gen + 1) % 256 } : Pte).word
          let ed : Edit := { addr := d.eaddr, value := new, expect := some r.2.2, ctx := d.ctx }
          if mustDefer c.1 d.eaddr then
            if c.1.kv.edits.length < editDepth then
              { c.1 with kv := { c.1.kv with ferry := true, edits := c.1.kv.edits ++ [ed] } }
            else s
          else
            let w := writeEdit c.1 .ferry ed
            match w.2.2 with
            | .wait => s
            | .ok => ferryEnd w.1 d (if w.2.1 then 1 else 3) false
            | _ => ferryEnd w.1 d 4 true
        | _ => ferryEnd c.1 d 4 true
    | _ => ferryEnd r.1 d 4 true

/-- The descriptor at HEAD; a read that ends with error ends it with ERROR. -/
def ferryFetch (s : State) : State × Option FerryDesc :=
  let x := memRead s .ferry (ferryAddr s) 32
  match x.2.1 with
  | .ok => (x.1, some (ferryDesc x.2.2))
  | .wait => (s, none)
  | _ => (ferryEnd x.1 ⟨0, 0, 0, 0, 0, 0, 0⟩ 4 true, none)

/-- The next descriptor, where its OP passes the test, is carried out. -/
def ferryNext (s : State) (takes : Nat → Bool) (go : State → FerryDesc → State) : State :=
  if !ferryReady s then s
  else
    let x := ferryFetch s
    match x.2 with
    | none => x.1
    | some d => if takes d.op then go x.1 d else s

/-- FERRY_COMMIT_DEFERRED: the deferred commit of the Ferry, once no walk pins its entry, and the end of its descriptor. -/
def ferryCommit (s : State) : State :=
  match readyEdit s true with
  | none => s
  | some ed =>
    let x := memRead s .ferry (ferryAddr s) 32
    let d := if x.2.1 = .ok then ferryDesc x.2.2 else ⟨0, ed.ctx, 0, ed.addr, 0, 0, 0⟩
    let w := writeEdit (dropEdit x.1 ed) .ferry ed
    match w.2.2 with
    | .wait => s
    | .ok => ferryEnd w.1 d (if w.2.1 then 1 else 3) false
    | _ => ferryEnd w.1 d 4 true

end Sys2Proof.Machine
end

