-- ==== Sys2Proof/Machine/CmdBase.lean ====
section
/-! DEFINITION. What the meanings share: who is served when a command reaches its unit (R26, R404, R414, R426, R464). -/

namespace Sys2Proof.Machine

/-- A command that needs HBM or a compute die waits while they are off: it has no effect then. -/
def withHbm (s : State) (go : State → State) : State := if memDown s then s else go s

/-- An access to an engine's window: served under Table 19-1, and only where the window holds registers (R26). -/
def onEngine (s : State) (e : Nat) (go : State → State) : State :=
  if s.writable (0x1000000 + 0x10000 * e) && decide (e < engCount s) then go s else s

/-- A write of a context's registers. -/
def onCtx (s : State) (c : Nat) (go : State → Nat → State) : State := if ctxServed s c then go s c else s

/-- A write of a slip's CTL register. -/
def slipWrite (s : State) (n : Nat) (go : State → Nat → State) : State := if s.writable (slipReg n 0) then go s n else s

/-- A write of a register of the collective engines. -/
def onCol (s : State) (g : Nat) (go : State → State) : State := if s.writable (colReg g 0) then go s else s

/-- A write of 1 to SCH_MON_CTLn.RELEASE. -/
def releaseWrite (s : State) (n : Nat) : State := if n = 0 || !s.writable (Off.monReg n 0) then s else release s n

/-- FAB_SR_MSG with GO and an address. -/
def srMsgGo (s : State) (d a : Nat) : State :=
  if s.writable (ldReg d 0x28) then srMsgWrite s d .both (2 ^ 63 + a % 2 ^ 48) else s

/-- A read of TLY_En_s (R469), left in the host port. -/
def tlyCounterRead (s : State) (n k : Nat) (a : Acc) : State :=
  if hostSilent s then s
  else
    let x := serveRead s (Off.tly n k) (fun t => tlyRead t (Off.tly n k) a) (if a = .both then 2 ^ 64 - 1 else 2 ^ 32 - 1)
    match x.2 with
    | some v => answerWord x.1 v
    | none => x.1

/-- The next descriptor of a Skidder queue starts: of a collective one, its step (R56). -/
def startNext (s : State) (e : Nat) (fill : Bool) : State :=
  match nextWaiting (s.eng e) fill with
  | none => s
  | some x => if (collFields x.instr).isSome then collStartNext s e else startPlain s e fill x

/-- A codec job with an OP that is not assigned ends with RANGE (R302). -/
def codecInvalid (s : State) : State :=
  match headJob s fun op => op == 0 || decide (6 < op) with
  | some j => endJob s j.index 3 false
  | none => s

end Sys2Proof.Machine
end

