-- ==== Sys2Proof/Machine/CmdBoot.lean ====
section
/-! DEFINITION. The meanings of the commands of one family: bring-up, reset and the configuration record. -/

namespace Sys2Proof.Machine

/-- POWER_GOOD (R415). -/
def execPowerGood (mid : BitVec 5) (s : State) : Host.Outcome State Fault Refusal := .next (powerGood s mid.toNat)

/-- PERST_DEASSERT (R413). -/
def execPerstDeassert (s : State) : Host.Outcome State Fault Refusal := .next (perstDeassert s)

/-- PERST_ASSERT (R434). -/
def execPerstAssert (s : State) : Host.Outcome State Fault Refusal := .next (perstAssert s)

/-- PME_TURN_OFF (R442). -/
def execPmeTurnOff (s : State) : Host.Outcome State Fault Refusal := .next (pmeTurnOff s)

/-- WARM (R424). -/
def execWarmReset (s : State) : Host.Outcome State Fault Refusal := .next (hubResetWrite s (1 * 2 ^ 29))

/-- COMPUTE (R425). -/
def execComputeReset (s : State) : Host.Outcome State Fault Refusal := .next (hubResetWrite s (2 * 2 ^ 29))

/-- COLD (R413). -/
def execColdReset (s : State) : Host.Outcome State Fault Refusal := .next (hubResetWrite s (3 * 2 ^ 29))

/-- START_STEP_DONE (R415). -/
def execStartStepDone (step : Fin 12) (pass : BitVec 104) (s : State) : Host.Outcome State Fault Refusal :=
  .next (startDone s step.val pass.toNat)

/-- START_STEP_TIMEOUT (R416). -/
def execStartStepTimeout (code : BitVec 8) (s : State) : Host.Outcome State Fault Refusal := .next (startTimeout s code.toNat)

/-- LATE_ENGINE_FAILURE (R421). -/
def execLateEngineFailure (e : EngId) (s : State) : Host.Outcome State Fault Refusal := .next (lateEngine s e.val)

/-- SPARE_TEST_DONE (R421). -/
def execSpareTestDone (e : EngId) (pass : Bool) (s : State) : Host.Outcome State Fault Refusal := .next (spareTested s e.val pass)

/-- HUB_RETIRE (R423). -/
def execHubRetire (n : BitVec 7) (s : State) : Host.Outcome State Fault Refusal := .next (retireWrite s (2 ^ 31 + n.toNat))

/-- DCR_WRITE (R430). -/
def execDcrWrite (bad : Bool) (s : State) : Host.Outcome State Fault Refusal := .next (dcrWrite s bad)

/-- LMS_RESERVATION_COMMIT (R432). -/
def execLmsReservationCommit (s : State) : Host.Outcome State Fault Refusal := .next (lmsCommit s)

/-- DCRCMD_WRITE (R431). -/
def execDcrcmdWrite (s : State) : Host.Outcome State Fault Refusal := .next (dcrCmdWrite s .both (1 * 2 ^ 61 + s.fld64 Off.hubDcrcmd 47 6 * 64))

/-- DCRCMD_SET_TOPOLOGY (R433). -/
def execDcrcmdSetTopology (a : DevAddr) (s : State) : Host.Outcome State Fault Refusal :=
  .next (dcrCmdWrite s .both (2 * 2 ^ 61 + a.toNat))

/-- DCRCMD_CLEAR_RETIRED (R431). -/
def execDcrcmdClearRetired (s : State) : Host.Outcome State Fault Refusal :=
  .next (dcrCmdWrite s .both (3 * 2 ^ 61 + s.fld64 Off.hubDcrcmd 47 6 * 64))

/-- DCRCMD_CLEAR_TOPOLOGY (R431). -/
def execDcrcmdClearTopology (s : State) : Host.Outcome State Fault Refusal :=
  .next (dcrCmdWrite s .both (4 * 2 ^ 61 + s.fld64 Off.hubDcrcmd 47 6 * 64))

/-- INPUT_POWER_LOSS (R281). -/
def execInputPowerLoss (s : State) : Host.Outcome State Fault Refusal := .next (powerLoss s)

end Sys2Proof.Machine
end

