-- ==== Sys2Proof/Machine/CmdColl.lean ====
section
/-! DEFINITION. The meanings of the commands of one family: collectives. -/

namespace Sys2Proof.Machine

/-- COLLECTIVE_STEP_START (R373). -/
def execCollectiveStepStart (e : EngId) (s : State) : Host.Outcome State Fault Refusal := .next (collStartNext s e.val)

/-- READY (R373). -/
def execReadyMsg (s : State) : Host.Outcome State Fault Refusal :=
  .next (withHbm s (fun t => onInbox t (fun m => m.op == 8 && !m.err && m.kind == 1) collMsg))

/-- DATA (R373). -/
def execDataMsg (s : State) : Host.Outcome State Fault Refusal :=
  .next (withHbm s (fun t => onInbox t (fun m => m.op == 8 && !m.err && m.kind == 2) collMsg))

/-- PARTIAL (R371). -/
def execPartialMsg (s : State) : Host.Outcome State Fault Refusal :=
  .next (withHbm s (fun t => onInbox t (fun m => m.op == 8 && !m.err && m.kind == 3) collMsg))

/-- CREDIT (R373). -/
def execCreditMsg (s : State) : Host.Outcome State Fault Refusal :=
  .next (withHbm s (fun t => onInbox t (fun m => m.op == 8 && !m.err && m.kind == 4) collMsg))

/-- ABORT (R375). -/
def execAbortMsg (s : State) : Host.Outcome State Fault Refusal :=
  .next (withHbm s (fun t => onInbox t (fun m => m.op == 8 && !m.err && m.kind == 5) collMsg))

/-- ACK (R373). -/
def execAckMsg (s : State) : Host.Outcome State Fault Refusal := .next (onInbox s (fun m => m.op == 8 && (m.err || m.kind == 8)) takeAck)

/-- COLLECTIVE_STEP_COMPLETE (R374). -/
def execCollectiveStepComplete (d : Fin 2) (k : Fin 128) (s : State) : Host.Outcome State Fault Refusal :=
  .next (collComplete s d.val k.val)

/-- COLLECTIVE_STEP_TIMEOUT (R376). -/
def execCollectiveStepTimeout (d : Fin 2) (k : Fin 128) (s : State) : Host.Outcome State Fault Refusal := .next (collTimeout s d.val k.val)

/-- COL_GROUP_CFG_WRITE (R381). -/
def execColGroupCfgWrite (g : Fin 256) (a : Acc) (v : Word64) (s : State) : Host.Outcome State Fault Refusal :=
  .next (onCol s g.val (fun t => colCfgWrite t g.val a v.toNat))

/-- COL_GROUP_MEM_WRITE (R382). -/
def execColGroupMemWrite (g : Fin 256) (a : Acc) (v : Word64) (s : State) : Host.Outcome State Fault Refusal :=
  .next (onCol s g.val (fun t => colMemWrite t g.val a v.toNat))

/-- COL_ACTIVE_WRITE (R388). -/
def execColActiveWrite (v : Word32) (s : State) : Host.Outcome State Fault Refusal := .next (onCol s 0 (fun t => colActiveWrite t v.toNat))

/-- COLL_INVALID_KIND (R372). -/
def execCollInvalidKind (s : State) : Host.Outcome State Fault Refusal :=
  .next (onInbox s (fun m => m.op == 8 && !m.err && (m.kind == 0 || m.kind == 6 || m.kind == 7 || decide (8 < m.kind))) collBad)

end Sys2Proof.Machine
end

