-- ==== Sys2Proof/Machine/CmdContext.lean ====
section
/-! DEFINITION. The meanings of the commands of one family: contexts, dispatch and errors. -/

namespace Sys2Proof.Machine

/-- CTX_OPEN (R315). -/
def execCtxOpen (c : CtxId) (s : State) : Host.Outcome State Fault Refusal := .next (onCtx s c.val ctxOpen)

/-- CTX_PREEMPT (R315). -/
def execCtxPreempt (c : CtxId) (s : State) : Host.Outcome State Fault Refusal := .next (onCtx s c.val ctxPreempt)

/-- CTX_RESUME (R315). -/
def execCtxResume (c : CtxId) (s : State) : Host.Outcome State Fault Refusal := .next (onCtx s c.val ctxResume)

/-- CTX_TEARDOWN (R315). -/
def execCtxTeardown (c : CtxId) (s : State) : Host.Outcome State Fault Refusal := .next (onCtx s c.val ctxTeardown)

/-- CTX_END (R315). -/
def execCtxEnd (c : CtxId) (s : State) : Host.Outcome State Fault Refusal := .next (onCtx s c.val ctxEnd)

/-- CTX_SET_WRITE (R316). -/
def execCtxSetWrite (c : CtxId) (k : Fin 3) (v : Word32) (s : State) : Host.Outcome State Fault Refusal :=
  .next (onCtx s c.val (fun t x => ctxSetWrite t x k.val v.toNat))

/-- DISPATCH (R318). -/
def execDispatch (s : State) : Host.Outcome State Fault Refusal := .next (withHbm s dispatch)

/-- WORK_ITEM_COMPLETE (R319). -/
def execWorkItemComplete (c : CtxId) (s : State) : Host.Outcome State Fault Refusal := .next (workComplete s c.val)

/-- CONTEXT_SAVE (R321). -/
def execContextSave (c : CtxId) (s : State) : Host.Outcome State Fault Refusal := .next (withHbm s (fun t => contextSave t c.val))

/-- CONTEXT_RESTORE (R324). -/
def execContextRestore (c : CtxId) (s : State) : Host.Outcome State Fault Refusal := .next (withHbm s (fun t => contextRestore t c.val))

/-- PREEMPT_TIMEOUT (R323). -/
def execPreemptTimeout (c : CtxId) (s : State) : Host.Outcome State Fault Refusal := .next (preemptTimeout s c.val)

/-- DEADLINE_MONITOR_MARK (R325). -/
def execDeadlineMonitorMark (s : State) : Host.Outcome State Fault Refusal := .next (markNext s)

/-- TEARDOWN (R327). -/
def execTeardown (c : CtxId) (s : State) : Host.Outcome State Fault Refusal := .next (teardown s c.val)

/-- TEARDOWN_STALL (R332). -/
def execTeardownStall (c : CtxId) (s : State) : Host.Outcome State Fault Refusal := .next (teardownStall s c.val)

/-- ERR_HEAD_WRITE (R328). -/
def execErrHeadWrite (v : Word32) (s : State) : Host.Outcome State Fault Refusal := .next (writeErrHead s v.toNat)

/-- FATAL_CONTAINMENT (R333). -/
def execFatalContainment (cause : BitVec 8) (s : State) : Host.Outcome State Fault Refusal := .next (contain s cause.toNat)

end Sys2Proof.Machine
end

