-- ==== Sys2Proof/Machine/CmdFabric.lean ====
section
/-! DEFINITION. The meanings of the commands of one family: slips, the router, remote requests and source-routed messages. -/

namespace Sys2Proof.Machine

/-- SLIP_DETECT (R338). -/
def execSlipDetect (n : SlipId) (s : State) : Host.Outcome State Fault Refusal := .next (detected s n.val)

/-- DETECT_TIMEOUT (R338). -/
def execDetectTimeout (n : SlipId) (s : State) : Host.Outcome State Fault Refusal := .next (detectTimeout s n.val)

/-- FASTEQ_DONE (R338). -/
def execFasteqDone (n : SlipId) (ok : Bool) (s : State) : Host.Outcome State Fault Refusal := .next (fastEqDone s n.val ok)

/-- EQ_ATTEMPT_DONE (R338). -/
def execEqAttemptDone (n : SlipId) (ok : Bool) (s : State) : Host.Outcome State Fault Refusal := .next (eqDone s n.val ok)

/-- SLIP_CONFIG (R339). -/
def execSlipConfig (n : SlipId) (mine : BitVec 8) (theirs : BitVec 8) (order : Fin 3) (inv : BitVec 8) (uid : Word64) (pslip : SlipId) (peer : BitVec 24) (s : State) : Host.Outcome State Fault Refusal :=
  .next (if slipState s n.val = 4 then
      joinOnUp (slipConfig s n.val mine.toNat theirs.toNat order.val inv.toNat uid.toNat pslip.val peer.toNat) n.val
    else s)

/-- REDETECT_TIMER (R340). -/
def execRedetectTimer (n : SlipId) (s : State) : Host.Outcome State Fault Refusal := .next (redetect s n.val)

/-- SLIP_RETRAIN (R340). -/
def execSlipRetrain (n : SlipId) (s : State) : Host.Outcome State Fault Refusal := .next (slipWrite s n.val retrain)

/-- SLIP_DISABLE (R358). -/
def execSlipDisable (n : SlipId) (s : State) : Host.Outcome State Fault Refusal := .next (slipWrite s n.val disableSlip)

/-- LOSS_OF_SIGNAL (R358). -/
def execLossOfSignal (n : SlipId) (s : State) : Host.Outcome State Fault Refusal := .next (linkDown s n.val 1)

/-- DATA_FLIT_RECEIVE (R344). -/
def execDataFlitReceive (n : SlipId) (bytes : List Byte) (s : State) : Host.Outcome State Fault Refusal := .next (dataFlit s n.val bytes)

/-- IDLE_FLIT_RECEIVE (R341). -/
def execIdleFlitReceive (n : SlipId) (bytes : List Byte) (s : State) : Host.Outcome State Fault Refusal := .next (idleFlit s n.val bytes)

/-- NAK (R344). -/
def execNak (n : SlipId) (bytes : List Byte) (s : State) : Host.Outcome State Fault Refusal := .next (nakFlit s n.val bytes)

/-- CUT (R358). -/
def execCut (n : SlipId) (bytes : List Byte) (s : State) : Host.Outcome State Fault Refusal := .next (cutFlit s n.val bytes)

/-- LPREQ (R360). -/
def execLpreq (n : SlipId) (bytes : List Byte) (s : State) : Host.Outcome State Fault Refusal := .next (lpReq s n.val bytes)

/-- LPACK (R360). -/
def execLpack (n : SlipId) (bytes : List Byte) (s : State) : Host.Outcome State Fault Refusal := .next (lpAck s n.val bytes)

/-- LP_EXIT (R360). -/
def execLpExit (n : SlipId) (partner : Bool) (s : State) : Host.Outcome State Fault Refusal := .next (lpExit s n.val partner)

/-- ROUTE_MESSAGE (R351). -/
def execRouteMessage (s : State) : Host.Outcome State Fault Refusal := .next (routeNext s)

/-- RD (R32). -/
def execRd (s : State) : Host.Outcome State Fault Refusal :=
  .next (onRequest s (fun m => m.op == 1 && m.rq != nfRq) serveRd)

/-- WR (R32). -/
def execWr (s : State) : Host.Outcome State Fault Refusal := .next (onRequest s (fun m => m.op == 3) serveWr)

/-- REMOTE_ADDW (R32). -/
def execRemoteAddw (s : State) : Host.Outcome State Fault Refusal := .next (onRequest s (fun m => m.op == 5) serveAddw)

/-- REMOTE_ATOM (R32). -/
def execRemoteAtom (s : State) : Host.Outcome State Fault Refusal := .next (onRequest s (fun m => m.op == 6) serveAtom)

/-- RDRSP (R342). -/
def execRdrsp (s : State) : Host.Outcome State Fault Refusal := .next (onInbox s (fun m => m.op == 2 && m.rq != nfRq) takeRsp)

/-- WRACK (R261). -/
def execWrack (s : State) : Host.Outcome State Fault Refusal := .next (onInbox s (fun m => m.op == 4) takeRsp)

/-- ATOMRSP (R342). -/
def execAtomrsp (s : State) : Host.Outcome State Fault Refusal := .next (onInbox s (fun m => m.op == 7) takeRsp)

/-- REMOTE_REQUEST_TIMEOUT (R359). -/
def execRemoteRequestTimeout (tag : BitVec 16) (s : State) : Host.Outcome State Fault Refusal := .next (requestTimeout s tag.toNat)

/-- PROBE (R356). -/
def execProbe (s : State) : Host.Outcome State Fault Refusal := .next (onInbox s (fun m => m.op == 9) takeProbe)

/-- PREPLY (R356). -/
def execPreply (s : State) : Host.Outcome State Fault Refusal := .next (onInbox s (fun m => m.op == 0xA) takeReply)

/-- CFGRD (R357). -/
def execCfgrd (s : State) : Host.Outcome State Fault Refusal := .next (onInbox s (fun m => m.op == 0xB) takeCfgRd)

/-- CFGWR (R357). -/
def execCfgwr (s : State) : Host.Outcome State Fault Refusal := .next (onInbox s (fun m => m.op == 0xC) takeCfgWr)

/-- CFGRSP (R356). -/
def execCfgrsp (s : State) : Host.Outcome State Fault Refusal := .next (onInbox s (fun m => m.op == 0xD) takeReply)

/-- FAB_SR_MSG_GO (R357). -/
def execFabSrMsgGo (d : Fin 2) (a : DevAddr) (s : State) : Host.Outcome State Fault Refusal := .next (srMsgGo s d.val a.toNat)

/-- WAKE_PATTERN_SEND (R361). -/
def execWakePatternSend (n : SlipId) (s : State) : Host.Outcome State Fault Refusal := .next (slipWrite s n.val sendWake)

/-- PARTNER_LINK_DOWN (R358). -/
def execPartnerLinkDown (n : SlipId) (s : State) : Host.Outcome State Fault Refusal := .next (linkDown s n.val 4)

end Sys2Proof.Machine
end

