-- ==== Sys2Proof/Machine/CmdHost.lean ====
section
/-! DEFINITION. The meanings of the commands of one family: firmware, SPDM, sessions, the sideband and PCI Express. -/

namespace Sys2Proof.Machine

/-- FW_UPDATE (R451). -/
def execFwUpdate (a : DevAddr) (s : State) : Host.Outcome State Fault Refusal := .next (fwUpdWrite s .both (1 * 2 ^ 61 + a.toNat))

/-- COMMITSVN (R451). -/
def execCommitsvn (s : State) : Host.Outcome State Fault Refusal := .next (fwUpdWrite s .both (2 * 2 ^ 61 + s.fld64 Off.fwUpd 47 6 * 64))

/-- RECOV_START (R452). -/
def execRecovStart (len : BitVec 23) (s : State) : Host.Outcome State Fault Refusal :=
  .next (recovWrite (s.setReg Off.recovArg len.toNat) (1 * 2 ^ 29) false)

/-- RECOV_CHUNK (R452). -/
def execRecovChunk (off : BitVec 23) (s : State) : Host.Outcome State Fault Refusal :=
  .next (recovWrite (s.setReg Off.recovArg off.toNat) (2 * 2 ^ 29) false)

/-- RECOV_DONE (R452). -/
def execRecovDone (bad : Bool) (s : State) : Host.Outcome State Fault Refusal := .next (recovWrite s (3 * 2 ^ 29) bad)

/-- GET_MEASUREMENTS (R457). -/
def execGetMeasurements (index : BitVec 8) (signed : Bool) (nonce : List Byte) (s : State) : Host.Outcome State Fault Refusal :=
  .next (getMeasurements s index.toNat signed nonce)

/-- CHALLENGE (R458). -/
def execChallenge (s : State) : Host.Outcome State Fault Refusal := .next (spdmChallenge s)

/-- GET_CERTIFICATE (R455). -/
def execGetCertificate (slot : Fin 8) (s : State) : Host.Outcome State Fault Refusal := .next (getCertificate s slot.val)

/-- SPDM_REQUEST (R453). -/
def execSpdmRequest (code : BitVec 8) (payload : List Byte) (s : State) : Host.Outcome State Fault Refusal :=
  .next (spdmRequest s code.toNat payload)

/-- SESSION_REQUEST (R459). -/
def execSessionRequest (k : Fin 16) (peer : BitVec 12) (s : State) : Host.Outcome State Fault Refusal :=
  .next (scmdWrite s .both (1 * 2 ^ 61 + k.val * 2 ^ 48 + peer.toNat))

/-- SESSION_RESPOND (R459). -/
def execSessionRespond (k : Fin 16) (peer : BitVec 12) (s : State) : Host.Outcome State Fault Refusal :=
  .next (scmdWrite s .both (2 * 2 ^ 61 + k.val * 2 ^ 48 + peer.toNat))

/-- SESSION_CLOSE (R459). -/
def execSessionClose (k : Fin 16) (s : State) : Host.Outcome State Fault Refusal := .next (scmdWrite s .both (3 * 2 ^ 61 + k.val * 2 ^ 48))

/-- RELAY_INGO (R459). -/
def execRelayIngo (len : BitVec 12) (s : State) : Host.Outcome State Fault Refusal := .next (relayWrite s (2 ^ 30 + len.toNat))

/-- SESSION_OPEN_TIMEOUT (R459). -/
def execSessionOpenTimeout (s : State) : Host.Outcome State Fault Refusal := .next (openTimeout s)

/-- MCTP_READ32 (R447). -/
def execMctpRead32 (off : Word32) (s : State) : Host.Outcome State Fault Refusal := .next (mctpRead s off.toNat)

/-- MCTP_WRITE32 (R447). -/
def execMctpWrite32 (off : Word32) (v : Word32) (s : State) : Host.Outcome State Fault Refusal := .next (mctpWrite s off.toNat v.toNat)

/-- PLDM_REQUEST (R447). -/
def execPldmRequest (sensor : Nat) (s : State) : Host.Outcome State Fault Refusal := .next (pldm s sensor)

/-- MCTP_CONTROL (R447). -/
def execMctpControl (cmd : BitVec 8) (eid : BitVec 8) (s : State) : Host.Outcome State Fault Refusal :=
  .next (mctpControl s cmd.toNat eid.toNat)

/-- I3C_ADDRESS_ASSIGNMENT (R447). -/
def execI3cAddressAssignment (a : Option (BitVec 7)) (s : State) : Host.Outcome State Fault Refusal := .next (i3cAssign s (a.map (·.toNat)))

/-- MATE_OPEN (R446). -/
def execMateOpen (s : State) : Host.Outcome State Fault Refusal := .next (mateOpen s)

/-- HUB_IRQSTAT_WRITE (R444). -/
def execHubIrqstatWrite (v : Word32) (s : State) : Host.Outcome State Fault Refusal := .next (irqStatWrite s v.toNat)

/-- PCIE_COMPLETION_TIMEOUT (R440). -/
def execPcieCompletionTimeout (a : Word64) (n : Nat) (s : State) : Host.Outcome State Fault Refusal := .next (readTimeout s a.toNat n)

/-- FW_UPDATE_COMPLETE (R451). -/
def execFwUpdateComplete (bad : Bool) (s : State) : Host.Outcome State Fault Refusal := .next (fwDone s bad)

/-- PCIE_READ_COMPLETION (R440). -/
def execPcieReadCompletion (a : Word64) (status : Fin 4) (bytes : List Byte) (s : State) : Host.Outcome State Fault Refusal :=
  .next (readCompletion s a.toNat status.val bytes)

/-- DOE_DISCOVERY (R453). -/
def execDoeDiscovery (index : BitVec 8) (s : State) : Host.Outcome State Fault Refusal := .next (doeDiscovery s index.toNat)

end Sys2Proof.Machine
end

