-- ==== Sys2Proof/Machine/CmdMemory.lean ====
section
/-! DEFINITION. The meanings of the commands of one family: HBM and the Landings. -/

namespace Sys2Proof.Machine

/-- HBM_READ (R259). -/
def execHbmRead (a : DevAddr) (s : State) : Host.Outcome State Fault Refusal := .next (withHbm s (fun t => lineRead t a.toNat))

/-- HBM_WRITE (R260). -/
def execHbmWrite (a : DevAddr) (bytes : List Byte) (s : State) : Host.Outcome State Fault Refusal :=
  .next (withHbm s (fun t => lineWrite t a.toNat bytes))

/-- HBM_ADD_WRITE (R262). -/
def execHbmAddWrite (a : DevAddr) (aty : Fin 4) (aop : Fin 3) (v : Word64) (s : State) : Host.Outcome State Fault Refusal :=
  .next (withHbm s (fun t => lineAdd t a.toNat aty.val aop.val v.toNat))

/-- HBM_ATOMIC (R262). -/
def execHbmAtomic (a : DevAddr) (aty : Fin 4) (aop : Fin 3) (v : Word64) (s : State) : Host.Outcome State Fault Refusal :=
  .next (withHbm s (fun t => lineAtomic t a.toNat aty.val aop.val v.toNat))

/-- SCRUB_LINE (R273). -/
def execScrubLine (st : StackId) (line : Nat) (s : State) : Host.Outcome State Fault Refusal :=
  .next (withHbm s (fun t => scrubLine t st.val line))

/-- MEM_MAP_WRITE (R249). -/
def execMemMapWrite (n : Fin 64) (second : Bool) (a : Acc) (v : Word64) (s : State) : Host.Outcome State Fault Refusal :=
  .next (mapWrite s n.val second a v.toNat)

/-- MAP_COPIES_UPDATED (R250). -/
def execMapCopiesUpdated (s : State) : Host.Outcome State Fault Refusal := .next (mapCopied s)

/-- LANDING_READ (R266). -/
def execLandingRead (d : Fin 2) (lpol : Fin 3) (a : DevAddr) (s : State) : Host.Outcome State Fault Refusal :=
  .next (withHbm s (fun t => landingRead t d.val lpol.val a.toNat))

/-- LND_PART_WRITE (R268). -/
def execLndPartWrite (d : Fin 2) (v : Word32) (s : State) : Host.Outcome State Fault Refusal := .next (partWrite s d.val v.toNat)

/-- PARTITION_DROP_DONE (R268). -/
def execPartitionDropDone (d : Fin 2) (s : State) : Host.Outcome State Fault Refusal := .next (dropDone s d.val)

/-- LND_DALLOC_WRITE (R267). -/
def execLndDallocWrite (d : Fin 2) (k : Fin 16) (a : Acc) (v : Word64) (s : State) : Host.Outcome State Fault Refusal :=
  .next (allocWrite s d.val k.val a v.toNat)

/-- LANDING_DIRECT_ACCESS (R267). -/
def execLandingDirectAccess (a : DevAddr) (n : Nat) (w : Option (List Byte)) (s : State) : Host.Outcome State Fault Refusal :=
  .next (withHbm s (fun t => directAccess t a.toNat n w))

end Sys2Proof.Machine
end

