-- ==== Sys2Proof/Machine/CmdPower.lean ====
section
/-! DEFINITION. The meanings of the commands of one family: the power arbiter and the power states. -/

namespace Sys2Proof.Machine

/-- POWER_INTERVAL (R397). -/
def execPowerInterval (temps : List Nat) (input : Nat) (s : State) : Host.Outcome State Fault Refusal := .next (powerInterval s temps input)

/-- LEVEL_CHANGE_COMPLETE (R399). -/
def execLevelChangeComplete (c : Fin 40) (s : State) : Host.Outcome State Fault Refusal := .next (levelDone s c.val)

/-- VFAIL (R400). -/
def execVfail (g : Fin 26) (s : State) : Host.Outcome State Fault Refusal := .next (vfail s g.val)

/-- THERMTRIP (R401). -/
def execThermtrip (sensor : Fin 25) (tj : Nat) (s : State) : Host.Outcome State Fault Refusal := .next (thermTrip s sensor.val tj)

/-- OVERDRAW (R402). -/
def execOverdraw (mw : Nat) (run : Nat) (s : State) : Host.Outcome State Fault Refusal := .next (overdraw s mw run)

/-- COOLANT (R401). -/
def execCoolant (inlet : BitVec 8) (s : State) : Host.Outcome State Fault Refusal := .next (coolant s inlet.toNat)

/-- BROWNOUT (R403). -/
def execBrownout (v : Fin 8) (amps : Nat) (s : State) : Host.Outcome State Fault Refusal := .next (brownout s v.val amps)

/-- IVR_RESTART (R403). -/
def execIvrRestart (v : Fin 8) (s : State) : Host.Outcome State Fault Refusal :=
  .next (ivrWrite s v.val (2 ^ 29 + s.fld (Off.pwrIvr v.val) 7 0))

/-- PWR_REQ_WRITE (R396). -/
def execPwrReqWrite (c : Fin 40) (v : Word32) (s : State) : Host.Outcome State Fault Refusal := .next (reqWrite s c.val v.toNat)

/-- PWR_BUDGET_WRITE (R396). -/
def execPwrBudgetWrite (v : Word32) (s : State) : Host.Outcome State Fault Refusal := .next (budgetWrite s v.toNat)

/-- PWR_OPP_WRITE (R395). -/
def execPwrOppWrite (l : Fin 11) (v : Word32) (s : State) : Host.Outcome State Fault Refusal := .next (oppWrite s l.val v.toNat)

/-- MOOR (R405). -/
def execMoor (s : State) : Host.Outcome State Fault Refusal := .next (stateWrite s (1 * 2 ^ 29))

/-- LAYUP (R406). -/
def execLayup (s : State) : Host.Outcome State Fault Refusal := .next (stateWrite s (2 * 2 ^ 29))

/-- EXIT (R407). -/
def execExitMoored (s : State) : Host.Outcome State Fault Refusal := .next (stateWrite s (3 * 2 ^ 29))

/-- POWER_ENTRY_COMPLETE (R408). -/
def execPowerEntryComplete (s : State) : Host.Outcome State Fault Refusal := .next (entryDone s)

/-- WAKE_EVENT (R407). -/
def execWakeEvent (src : Fin 4) (n : SlipId) (s : State) : Host.Outcome State Fault Refusal := .next (wakeEvent s src.val n.val)

/-- EXIT_STEP_DONE (R409). -/
def execExitStepDone (s : State) : Host.Outcome State Fault Refusal := .next (exitStepDone s)

/-- EXITFAIL (R409). -/
def execExitfail (s : State) : Host.Outcome State Fault Refusal := .next (exitFail s)

/-- IVR_RESTART_COMPLETE (R422). -/
def execIvrRestartComplete (v : Fin 8) (pass : BitVec 104) (s : State) : Host.Outcome State Fault Refusal :=
  .next (ivrDone s v.val pass.toNat)

end Sys2Proof.Machine
end

