-- ==== Sys2Proof/Machine/CmdRegs.lean ====
section
/-! DEFINITION. The meanings of the commands of one family: an engine's host registers, BAR0, BAR2 and the error monitors. -/

namespace Sys2Proof.Machine

/-- ENG_CTRL_HALT (R64). -/
def execEngCtrlHalt (e : EngId) (v : Bool) (s : State) : Host.Outcome State Fault Refusal :=
  .next (onEngine s e.val (fun t => writeHalt t e.val v))

/-- ENGINE_HALTED (R64). -/
def execEngineHalted (e : EngId) (s : State) : Host.Outcome State Fault Refusal := .next (engineHalted s e.val)

/-- ENG_SEM_WRITE (R67). -/
def execEngSemWrite (e : EngId) (i : Fin 32) (v : Word32) (s : State) : Host.Outcome State Fault Refusal :=
  .next (onEngine s e.val (fun t => writeSem t e.val i.val v.toNat))

/-- ENG_DBG_DATA_READ (R68): a read of the register's low word, high word or both, served as BAR0 serves its window (R26, R464). -/
def execEngDbgDataRead (e : EngId) (a : Acc) (s : State) : Host.Outcome State Fault Refusal :=
  .next (bar0Read s (0x1000048 + 0x10000 * e.val + (if a = .high then 4 else 0)) (accBytes a))

/-- ENG_DBG_DATA_WRITE (R68). -/
def execEngDbgDataWrite (e : EngId) (a : Acc) (v : Word64) (s : State) : Host.Outcome State Fault Refusal :=
  .next (onEngine s e.val (fun t => dbgWrite t e.val a v.toNat))

/-- HUB_BAR2_BASE_WRITE (R35). -/
def execHubBar2BaseWrite (v : Word32) (s : State) : Host.Outcome State Fault Refusal := .next (bar2BaseWrite s v.toNat)

/-- BAR2_READ (R33). -/
def execBar2Read (x : BitVec 36) (n : Nat) (s : State) : Host.Outcome State Fault Refusal :=
  .next (bar2Request s (.read (bar2Addr s x.toNat) n))

/-- BAR2_WRITE (R33). -/
def execBar2Write (x : BitVec 36) (d : HostData (List Byte)) (s : State) : Host.Outcome State Fault Refusal :=
  .next (if d.poison then poisonedWrite s else bar2Request s (.write (bar2Addr s x.toNat) d.data))

/-- REGISTER_WRITE (R11). -/
def execRegisterWrite (off : BitVec 26) (n : Nat) (d : HostData Word64) (s : State) : Host.Outcome State Fault Refusal :=
  .next (bar0Write s off.toNat n d.poison d.data.toNat)

/-- RC_COUNTER_READ (R15). -/
def execRcCounterRead (off : BitVec 26) (n : Nat) (s : State) : Host.Outcome State Fault Refusal := .next (bar0Read s off.toNat n)

/-- TLY_COUNTER_READ (R469). -/
def execTlyCounterRead (n : EngId) (k : Fin 12) (a : Acc) (s : State) : Host.Outcome State Fault Refusal :=
  .next (tlyCounterRead s n.val k.val a)

/-- MONITOR_FEED (R156). -/
def execMonitorFeed (s : State) : Host.Outcome State Fault Refusal := .next (feedNext s)

/-- WIDEN_REQUEST (R158). -/
def execWidenRequest (s : State) : Host.Outcome State Fault Refusal := .next (judgeNext s)

/-- WIDEN_GRANT_ACCEPTED (R158). -/
def execWidenGrantAccepted (s : State) : Host.Outcome State Fault Refusal := .next (grantNext s)

/-- MONITOR_RELEASE (R160). -/
def execMonitorRelease (n : Fin 256) (s : State) : Host.Outcome State Fault Refusal := .next (releaseWrite s n.val)

/-- SCH_MON_CTL_WRITE (R160). -/
def execSchMonCtlWrite (n : Fin 256) (v : Word32) (s : State) : Host.Outcome State Fault Refusal := .next (writeMonCtl s n.val v.toNat)

end Sys2Proof.Machine
end

