-- ==== Sys2Proof/Machine/CmdScalar.lean ====
section
/-! DEFINITION. The meanings of the commands of one family: the sequencer and scalar instructions. -/

namespace Sys2Proof.Machine

/-- NOP (R76), and the trap of an unassigned opcode (R74). -/
def execNop (e : EngId) (w : Word64) (s : State) : Host.Outcome State Fault Refusal := .next (issue e (fieldsOf w) (.nop e w) s)

/-- SIG (R88). -/
def execSig (e : EngId) (q : Fin 4) (f : Fields) (s : State) : Host.Outcome State Fault Refusal := .next (issue e f (.sig e q f) s)

/-- WAIT (R89). -/
def execWait (e : EngId) (q : Fin 4) (f : Fields) (s : State) : Host.Outcome State Fault Refusal := .next (issue e f (.wait e q f) s)

/-- DONE (R82). -/
def execDone (e : EngId) (f : Fields) (s : State) : Host.Outcome State Fault Refusal := .next (issue e f (.done e f) s)

/-- BR (R81). -/
def execBr (e : EngId) (f : Fields) (s : State) : Host.Outcome State Fault Refusal := .next (issue e f (.br e f) s)

/-- JAL (R81). -/
def execJal (e : EngId) (f : Fields) (s : State) : Host.Outcome State Fault Refusal := .next (issue e f (.jal e f) s)

/-- JR (R81). -/
def execJr (e : EngId) (f : Fields) (s : State) : Host.Outcome State Fault Refusal := .next (issue e f (.jr e f) s)

/-- LOOP (R81). -/
def execLoop (e : EngId) (f : Fields) (s : State) : Host.Outcome State Fault Refusal := .next (issue e f (.loop e f) s)

/-- ALU (R77). -/
def execAlu (e : EngId) (f : Fields) (s : State) : Host.Outcome State Fault Refusal := .next (issue e f (.alu e f) s)

/-- ALUI (R77). -/
def execAlui (e : EngId) (f : Fields) (s : State) : Host.Outcome State Fault Refusal := .next (issue e f (.alui e f) s)

/-- CMP (R78). -/
def execCmp (e : EngId) (f : Fields) (s : State) : Host.Outcome State Fault Refusal := .next (issue e f (.cmp e f) s)

/-- CMPI (R78). -/
def execCmpi (e : EngId) (f : Fields) (s : State) : Host.Outcome State Fault Refusal := .next (issue e f (.cmpi e f) s)

/-- PLOG (R78). -/
def execPlog (e : EngId) (f : Fields) (s : State) : Host.Outcome State Fault Refusal := .next (issue e f (.plog e f) s)

/-- ADDA (R79). -/
def execAdda (e : EngId) (f : Fields) (s : State) : Host.Outcome State Fault Refusal := .next (issue e f (.adda e f) s)

/-- LDS (R79). -/
def execLds (e : EngId) (f : Fields) (s : State) : Host.Outcome State Fault Refusal := .next (issue e f (.lds e f) s)

/-- STS (R79). -/
def execSts (e : EngId) (f : Fields) (s : State) : Host.Outcome State Fault Refusal := .next (issue e f (.sts e f) s)

/-- SGET (R80). -/
def execSget (e : EngId) (f : Fields) (s : State) : Host.Outcome State Fault Refusal := .next (issue e f (.sget e f) s)

/-- FLGCLR (R79). -/
def execFlgclr (e : EngId) (f : Fields) (s : State) : Host.Outcome State Fault Refusal := .next (issue e f (.flgclr e f) s)

/-- TSET (R79). -/
def execTset (e : EngId) (f : Fields) (s : State) : Host.Outcome State Fault Refusal := .next (issue e f (.tset e f) s)

/-- TGET (R79). -/
def execTget (e : EngId) (f : Fields) (s : State) : Host.Outcome State Fault Refusal := .next (issue e f (.tget e f) s)

/-- BLOAD (R164). -/
def execBload (e : EngId) (f : Fields) (s : State) : Host.Outcome State Fault Refusal := .next (issue e f (.bload e f) s)

/-- BEXT (R166). -/
def execBext (e : EngId) (f : Fields) (s : State) : Host.Outcome State Fault Refusal := .next (issue e f (.bext e f) s)

/-- LI64 (R76). -/
def execLi64 (e : EngId) (f : Fields) (w2 : Word64) (s : State) : Host.Outcome State Fault Refusal := .next (issue e f (.li64 e f w2) s)

/-- PREEMPT (R96). -/
def execPreempt (e : EngId) (f : Fields) (w2 : Word64) (s : State) : Host.Outcome State Fault Refusal :=
  .next (issue e f (.preempt e f w2) s)

end Sys2Proof.Machine
end

