-- ==== Sys2Proof/Machine/CmdTensor.lean ====
section
/-! DEFINITION. The meanings of the commands of one family: tensor, vector and special-function instructions. -/

namespace Sys2Proof.Machine

/-- MMA_LOAD (R107). -/
def execMmaLoad (e : EngId) (f : Fields) (w2 : Word64) (s : State) : Host.Outcome State Fault Refusal :=
  .next (issue e f (.mmaLoad e f w2) s)

/-- MMA_COMPUTE (R108). -/
def execMmaCompute (e : EngId) (f : Fields) (w2 : Word64) (s : State) : Host.Outcome State Fault Refusal :=
  .next (issue e f (.mmaCompute e f w2) s)

/-- DRAIN (R113). -/
def execDrain (e : EngId) (f : Fields) (w2 : Word64) (s : State) : Host.Outcome State Fault Refusal := .next (issue e f (.drain e f w2) s)

/-- WGPUSH (R130). -/
def execWgpush (e : EngId) (f : Fields) (w2 : Word64) (n1 : Word64) (n2 : Word64) (s : State) : Host.Outcome State Fault Refusal :=
  .next (issue e f (.wgpush e f w2 n1 n2) s)

/-- WGDRAIN (R131). -/
def execWgdrain (e : EngId) (f : Fields) (s : State) : Host.Outcome State Fault Refusal := .next (issue e f (.wgdrain e f) s)

/-- CVT (R116). -/
def execCvt (e : EngId) (f : Fields) (w2 : Word64) (s : State) : Host.Outcome State Fault Refusal := .next (issue e f (.cvt e f w2) s)

/-- VADD (R117). -/
def execVadd (e : EngId) (f : Fields) (s : State) : Host.Outcome State Fault Refusal := .next (issue e f (.vadd e f) s)

/-- VSUB (R117). -/
def execVsub (e : EngId) (f : Fields) (s : State) : Host.Outcome State Fault Refusal := .next (issue e f (.vsub e f) s)

/-- VMUL (R117). -/
def execVmul (e : EngId) (f : Fields) (s : State) : Host.Outcome State Fault Refusal := .next (issue e f (.vmul e f) s)

/-- VMIN (R117). -/
def execVmin (e : EngId) (f : Fields) (s : State) : Host.Outcome State Fault Refusal := .next (issue e f (.vmin e f) s)

/-- VMAX (R117). -/
def execVmax (e : EngId) (f : Fields) (s : State) : Host.Outcome State Fault Refusal := .next (issue e f (.vmax e f) s)

/-- VMOV (R117). -/
def execVmov (e : EngId) (f : Fields) (s : State) : Host.Outcome State Fault Refusal := .next (issue e f (.vmov e f) s)

/-- VABS (R117). -/
def execVabs (e : EngId) (f : Fields) (s : State) : Host.Outcome State Fault Refusal := .next (issue e f (.vabs e f) s)

/-- VNEG (R117). -/
def execVneg (e : EngId) (f : Fields) (s : State) : Host.Outcome State Fault Refusal := .next (issue e f (.vneg e f) s)

/-- VCLAMP (R117). -/
def execVclamp (e : EngId) (f : Fields) (s : State) : Host.Outcome State Fault Refusal := .next (issue e f (.vclamp e f) s)

/-- VTANH (R204). -/
def execVtanh (e : EngId) (f : Fields) (s : State) : Host.Outcome State Fault Refusal := .next (issue e f (.vtanh e f) s)

/-- VLOGI (R204). -/
def execVlogi (e : EngId) (f : Fields) (s : State) : Host.Outcome State Fault Refusal := .next (issue e f (.vlogi e f) s)

/-- VFMA (R117). -/
def execVfma (e : EngId) (f : Fields) (w2 : Word64) (s : State) : Host.Outcome State Fault Refusal := .next (issue e f (.vfma e f w2) s)

/-- VFUSE (R214). -/
def execVfuse (e : EngId) (f : Fields) (w2 : Word64) (s : State) : Host.Outcome State Fault Refusal := .next (issue e f (.vfuse e f w2) s)

/-- VROT (R233). -/
def execVrot (e : EngId) (f : Fields) (w2 : Word64) (s : State) : Host.Outcome State Fault Refusal := .next (issue e f (.vrot e f w2) s)

/-- STEPRUN (R209). -/
def execSteprun (e : EngId) (f : Fields) (w2 : Word64) (s : State) : Host.Outcome State Fault Refusal :=
  .next (issue e f (.steprun e f w2) s)

/-- RSTAT (R216). -/
def execRstat (e : EngId) (f : Fields) (w2 : Word64) (s : State) : Host.Outcome State Fault Refusal := .next (issue e f (.rstat e f w2) s)

/-- SMAX (R219). -/
def execSmax (e : EngId) (f : Fields) (w2 : Word64) (s : State) : Host.Outcome State Fault Refusal := .next (issue e f (.smax e f w2) s)

end Sys2Proof.Machine
end

