-- ==== Sys2Proof/Machine/CmdTransfer.lean ====
section
/-! DEFINITION. The meanings of the commands of one family: table store, tally, transfer and collective instructions with the events of the Skidder and the KV walker. -/

namespace Sys2Proof.Machine

/-- PREEMPT_STOP (R96). -/
def execPreemptStop (e : EngId) (s : State) : Host.Outcome State Fault Refusal := .next (reportStop s e.val)

/-- TBLLOAD (R212). -/
def execTblload (e : EngId) (f : Fields) (w2 : Word64) (s : State) : Host.Outcome State Fault Refusal :=
  .next (issue e f (.tblload e f w2) s)

/-- TBLSWAP (R213). -/
def execTblswap (e : EngId) (f : Fields) (s : State) : Host.Outcome State Fault Refusal := .next (issue e f (.tblswap e f) s)

/-- TLY_READ (R133). -/
def execTlyRead (e : EngId) (f : Fields) (s : State) : Host.Outcome State Fault Refusal := .next (issue e f (.tlyRead e f) s)

/-- TLY_MARK (R133). -/
def execTlyMark (e : EngId) (f : Fields) (s : State) : Host.Outcome State Fault Refusal := .next (issue e f (.tlyMark e f) s)

/-- TLY_ADD (R133). -/
def execTlyAdd (e : EngId) (f : Fields) (s : State) : Host.Outcome State Fault Refusal := .next (issue e f (.tlyAdd e f) s)

/-- RSIG (R90). -/
def execRsig (e : EngId) (f : Fields) (s : State) : Host.Outcome State Fault Refusal := .next (issue e f (.rsig e f) s)

/-- RSIG_DELIVERY (R90). -/
def execRsigDelivery (e : EngId) (s : State) : Host.Outcome State Fault Refusal := .next (deliverRsig s e.val)

/-- FILL (R122). -/
def execFill (e : EngId) (f : Fields) (w2 : Word64) (s : State) : Host.Outcome State Fault Refusal := .next (issue e f (.fill e f w2) s)

/-- SPILL (R122). -/
def execSpill (e : EngId) (f : Fields) (w2 : Word64) (s : State) : Host.Outcome State Fault Refusal := .next (issue e f (.spill e f w2) s)

/-- COPY (R122). -/
def execCopy (e : EngId) (f : Fields) (w2 : Word64) (s : State) : Host.Outcome State Fault Refusal := .next (issue e f (.copy e f w2) s)

/-- PREF (R125). -/
def execPref (e : EngId) (f : Fields) (w2 : Word64) (s : State) : Host.Outcome State Fault Refusal := .next (issue e f (.pref e f w2) s)

/-- ADDW (R124). -/
def execAddw (e : EngId) (f : Fields) (w2 : Word64) (s : State) : Host.Outcome State Fault Refusal := .next (issue e f (.addw e f w2) s)

/-- ATOM (R124). -/
def execAtom (e : EngId) (f : Fields) (w2 : Word64) (s : State) : Host.Outcome State Fault Refusal := .next (issue e f (.atom e f w2) s)

/-- WINFILL (R187). -/
def execWinfill (e : EngId) (f : Fields) (w2 : Word64) (s : State) : Host.Outcome State Fault Refusal :=
  .next (issue e f (.winfill e f w2) s)

/-- SKIDDER_DESCRIPTOR_START (R56). -/
def execSkidderDescriptorStart (e : EngId) (fill : Bool) (s : State) : Host.Outcome State Fault Refusal := .next (startNext s e.val fill)

/-- SKIDDER_TRANSFER_COMPLETE (R58). -/
def execSkidderTransferComplete (e : EngId) (fill : Bool) (k : Fin 32) (s : State) : Host.Outcome State Fault Refusal :=
  .next (completeTransfer s e.val fill k.val)

/-- KVWALK (R227). -/
def execKvwalk (e : EngId) (f : Fields) (w2 : Word64) (s : State) : Host.Outcome State Fault Refusal := .next (issue e f (.kvwalk e f w2) s)

/-- KV_WALK_START (R227). -/
def execKvWalkStart (e : EngId) (s : State) : Host.Outcome State Fault Refusal := .next (startWalkNext s e.val)

/-- KV_WALK_COMPLETE (R227). -/
def execKvWalkComplete (e : EngId) (s : State) : Host.Outcome State Fault Refusal := .next (completeWalk s e.val)

/-- KVMAP (R127). -/
def execKvmap (e : EngId) (f : Fields) (w2 : Word64) (s : State) : Host.Outcome State Fault Refusal := .next (issue e f (.kvmap e f w2) s)

/-- KVMAP_DEFERRED_WRITE (R236). -/
def execKvmapDeferredWrite (s : State) : Host.Outcome State Fault Refusal := .next (writeDeferred s)

/-- XCH (R128). -/
def execXch (e : EngId) (f : Fields) (w2 : Word64) (s : State) : Host.Outcome State Fault Refusal := .next (issue e f (.xch e f w2) s)

/-- XRED_ALL_REDUCE (R128). -/
def execXredAllReduce (e : EngId) (f : Fields) (w2 : Word64) (s : State) : Host.Outcome State Fault Refusal :=
  .next (issue e f (.xredAllReduce e f w2) s)

/-- XRED_REDUCE_SCATTER (R128). -/
def execXredReduceScatter (e : EngId) (f : Fields) (w2 : Word64) (s : State) : Host.Outcome State Fault Refusal :=
  .next (issue e f (.xredReduceScatter e f w2) s)

/-- XGATHER (R128). -/
def execXgather (e : EngId) (f : Fields) (w2 : Word64) (s : State) : Host.Outcome State Fault Refusal :=
  .next (issue e f (.xgather e f w2) s)

end Sys2Proof.Machine
end

