-- ==== Sys2Proof/Machine/CmdUnits.lean ====
section
/-! DEFINITION. The meanings of the commands of one family: the flash tier, keys, the Ferry and the codec. -/

namespace Sys2Proof.Machine

/-- FLASH_READ (R285). -/
def execFlashRead (s : State) : Host.Outcome State Fault Refusal := .next (withHbm s (fun t => flashOp t (· == 1)))

/-- FLASH_WRITE (R285). -/
def execFlashWrite (s : State) : Host.Outcome State Fault Refusal := .next (withHbm s (fun t => flashOp t (· == 2)))

/-- FLASH_TRIM (R285). -/
def execFlashTrim (s : State) : Host.Outcome State Fault Refusal := .next (withHbm s (fun t => flashOp t (· == 3)))

/-- FLASH_IMPORT (R285). -/
def execFlashImport (s : State) : Host.Outcome State Fault Refusal := .next (withHbm s (fun t => flashOp t (· == 4)))

/-- FLASH_NFETCH (R293). -/
def execFlashNfetch (s : State) : Host.Outcome State Fault Refusal := .next (withHbm s (fun t => flashOp t (· == 5)))

/-- FLASH_GATE_POLL (R288). -/
def execFlashGatePoll (s : State) : Host.Outcome State Fault Refusal := .next (withHbm s gatePoll)

/-- FLASH_COMMAND_COMPLETE (R290). -/
def execFlashCommandComplete (k : Fin 16) (s : State) : Host.Outcome State Fault Refusal :=
  .next (withHbm s (fun t => flashComplete t k.val))

/-- FTL_READ_DISTURB_RELOCATE (R280). -/
def execFtlReadDisturbRelocate (b : Nat) (s : State) : Host.Outcome State Fault Refusal := .next (readDisturb s b)

/-- NFETCH_REQUEST_SERVE (R293). -/
def execNfetchRequestServe (s : State) : Host.Outcome State Fault Refusal :=
  .next (onRequest s (fun m => m.op == 1 && m.rq == nfRq) serveNfetch)

/-- NFETCH_RESPONSE (R293). -/
def execNfetchResponse (s : State) : Host.Outcome State Fault Refusal :=
  .next (withHbm s (fun t => onInbox t (fun m => m.op == 2 && m.rq == nfRq) takeNfetch))

/-- KEY_INSTALL (R294). -/
def execKeyInstall (k : Fin 32) (c : CtxId) (blob : DevAddr) (s : State) : Host.Outcome State Fault Refusal :=
  .next (withHbm s (fun t => kcmdWrite t .both (2 ^ 61 + c.val * 2 ^ 54 + k.val * 2 ^ 49 + blob.toNat)))

/-- KEY_ERASE (R294). -/
def execKeyErase (k : Fin 32) (s : State) : Host.Outcome State Fault Refusal := .next (kcmdWrite s .both (2 * 2 ^ 61 + k.val * 2 ^ 49))

/-- MODEL_UNLOAD (R296). -/
def execModelUnload (s : State) : Host.Outcome State Fault Refusal := .next (secModelWrite s (1 * 2 ^ 29))

/-- MODEL_LOAD (R296). -/
def execModelLoad (s : State) : Host.Outcome State Fault Refusal := .next (withHbm s (fun t => secModelWrite t (2 * 2 ^ 29)))

/-- MODEL_COMMAND_COMPLETE (R296). -/
def execModelCommandComplete (s : State) : Host.Outcome State Fault Refusal := .next (modelComplete s)

/-- FERRY_SWAP_OUT (R242). -/
def execFerrySwapOut (s : State) : Host.Outcome State Fault Refusal :=
  .next (withHbm s (fun t => ferryNext t (· == 1) (fun u d => ferrySwap u d true)))

/-- FERRY_SWAP_IN (R242). -/
def execFerrySwapIn (s : State) : Host.Outcome State Fault Refusal :=
  .next (withHbm s (fun t => ferryNext t (· == 2) (fun u d => ferrySwap u d false)))

/-- FERRY_COMMIT_DEFERRED (R238). -/
def execFerryCommitDeferred (s : State) : Host.Outcome State Fault Refusal := .next (withHbm s ferryCommit)

/-- CODEC_OPEN (R304). -/
def execCodecOpen (s : State) : Host.Outcome State Fault Refusal := .next (withHbm s (fun t => onJob t 1 codecOpen))

/-- CODEC_DECODE (R307). -/
def execCodecDecode (u : Fin 8) (s : State) : Host.Outcome State Fault Refusal := .next (withHbm s (fun t => codecDecode t u.val))

/-- CODEC_ENCODE (R308). -/
def execCodecEncode (u : Fin 8) (s : State) : Host.Outcome State Fault Refusal := .next (withHbm s (fun t => codecEncode t u.val))

/-- CODEC_RELEASE (R305). -/
def execCodecRelease (s : State) : Host.Outcome State Fault Refusal := .next (withHbm s (fun t => onJob t 4 codecRelease))

/-- CODEC_CLOSE (R311). -/
def execCodecClose (s : State) : Host.Outcome State Fault Refusal := .next (withHbm s (fun t => onJob t 5 codecClose))

/-- MSEARCH (R312). -/
def execMsearch (u : Fin 8) (s : State) : Host.Outcome State Fault Refusal := .next (withHbm s (fun t => codecSearch t u.val))

/-- CODEC_JOB_READ (R309). -/
def execCodecJobRead (s : State) : Host.Outcome State Fault Refusal := .next (withHbm s jobRead)

/-- CODEC_UNIT_SCHEDULE (R309). -/
def execCodecUnitSchedule (u : Fin 8) (s : State) : Host.Outcome State Fault Refusal := .next (withHbm s (fun t => unitSchedule t u.val))

/-- FRAME_TIMEOUT (R307). -/
def execFrameTimeout (u : Fin 8) (s : State) : Host.Outcome State Fault Refusal := .next (withHbm s (fun t => frameTimeout t u.val))

/-- CODEC_JOB_COMPLETE (R303). -/
def execCodecJobComplete (k : Fin 64) (s : State) : Host.Outcome State Fault Refusal := .next (withHbm s (fun t => jobComplete t k.val))

/-- WEAR_LEVELLING (R280). -/
def execWearLevelling (b : Nat) (retire : Bool) (s : State) : Host.Outcome State Fault Refusal := .next (wearLevel s b retire)

/-- FERRY_INVALID_OP (R241). -/
def execFerryInvalidOp (s : State) : Host.Outcome State Fault Refusal :=
  .next (withHbm s (fun t => ferryNext t (fun o => o != 1 && o != 2) (fun u d => ferryEnd u d 4 false)))

/-- FLASH_INVALID_OP (R285). -/
def execFlashInvalidOp (s : State) : Host.Outcome State Fault Refusal :=
  .next (withHbm s (fun t => flashOp t (fun o => o == 0 || decide (5 < o))))

/-- CODEC_INVALID_OP (R302). -/
def execCodecInvalidOp (s : State) : Host.Outcome State Fault Refusal := .next (withHbm s codecInvalid)

end Sys2Proof.Machine
end

