-- ==== Sys2Proof/Machine/Dispatch.lean ====
section
/-! DEFINITION. The dispatch: one arm per command, each a direct call of that command's meaning. -/

namespace Sys2Proof.Machine

def exec (i : Instr) (s : State) : Host.Outcome State Fault Refusal :=
  match i with
  | .nop e w => Sys2Proof.Machine.execNop e w s
  | .sig e q f => Sys2Proof.Machine.execSig e q f s
  | .wait e q f => Sys2Proof.Machine.execWait e q f s
  | .done e f => Sys2Proof.Machine.execDone e f s
  | .br e f => Sys2Proof.Machine.execBr e f s
  | .jal e f => Sys2Proof.Machine.execJal e f s
  | .jr e f => Sys2Proof.Machine.execJr e f s
  | .loop e f => Sys2Proof.Machine.execLoop e f s
  | .alu e f => Sys2Proof.Machine.execAlu e f s
  | .alui e f => Sys2Proof.Machine.execAlui e f s
  | .cmp e f => Sys2Proof.Machine.execCmp e f s
  | .cmpi e f => Sys2Proof.Machine.execCmpi e f s
  | .plog e f => Sys2Proof.Machine.execPlog e f s
  | .adda e f => Sys2Proof.Machine.execAdda e f s
  | .lds e f => Sys2Proof.Machine.execLds e f s
  | .sts e f => Sys2Proof.Machine.execSts e f s
  | .sget e f => Sys2Proof.Machine.execSget e f s
  | .flgclr e f => Sys2Proof.Machine.execFlgclr e f s
  | .tset e f => Sys2Proof.Machine.execTset e f s
  | .tget e f => Sys2Proof.Machine.execTget e f s
  | .bload e f => Sys2Proof.Machine.execBload e f s
  | .bext e f => Sys2Proof.Machine.execBext e f s
  | .li64 e f w2 => Sys2Proof.Machine.execLi64 e f w2 s
  | .preempt e f w2 => Sys2Proof.Machine.execPreempt e f w2 s
  | .preemptStop e => Sys2Proof.Machine.execPreemptStop e s
  | .tblload e f w2 => Sys2Proof.Machine.execTblload e f w2 s
  | .tblswap e f => Sys2Proof.Machine.execTblswap e f s
  | .tlyRead e f => Sys2Proof.Machine.execTlyRead e f s
  | .tlyMark e f => Sys2Proof.Machine.execTlyMark e f s
  | .tlyAdd e f => Sys2Proof.Machine.execTlyAdd e f s
  | .rsig e f => Sys2Proof.Machine.execRsig e f s
  | .rsigDelivery e => Sys2Proof.Machine.execRsigDelivery e s
  | .fill e f w2 => Sys2Proof.Machine.execFill e f w2 s
  | .spill e f w2 => Sys2Proof.Machine.execSpill e f w2 s
  | .copy e f w2 => Sys2Proof.Machine.execCopy e f w2 s
  | .pref e f w2 => Sys2Proof.Machine.execPref e f w2 s
  | .addw e f w2 => Sys2Proof.Machine.execAddw e f w2 s
  | .atom e f w2 => Sys2Proof.Machine.execAtom e f w2 s
  | .winfill e f w2 => Sys2Proof.Machine.execWinfill e f w2 s
  | .skidderDescriptorStart e fill => Sys2Proof.Machine.execSkidderDescriptorStart e fill s
  | .skidderTransferComplete e fill k => Sys2Proof.Machine.execSkidderTransferComplete e fill k s
  | .kvwalk e f w2 => Sys2Proof.Machine.execKvwalk e f w2 s
  | .kvWalkStart e => Sys2Proof.Machine.execKvWalkStart e s
  | .kvWalkComplete e => Sys2Proof.Machine.execKvWalkComplete e s
  | .kvmap e f w2 => Sys2Proof.Machine.execKvmap e f w2 s
  | .kvmapDeferredWrite => Sys2Proof.Machine.execKvmapDeferredWrite s
  | .xch e f w2 => Sys2Proof.Machine.execXch e f w2 s
  | .xredAllReduce e f w2 => Sys2Proof.Machine.execXredAllReduce e f w2 s
  | .xredReduceScatter e f w2 => Sys2Proof.Machine.execXredReduceScatter e f w2 s
  | .xgather e f w2 => Sys2Proof.Machine.execXgather e f w2 s
  | .mmaLoad e f w2 => Sys2Proof.Machine.execMmaLoad e f w2 s
  | .mmaCompute e f w2 => Sys2Proof.Machine.execMmaCompute e f w2 s
  | .drain e f w2 => Sys2Proof.Machine.execDrain e f w2 s
  | .wgpush e f w2 n1 n2 => Sys2Proof.Machine.execWgpush e f w2 n1 n2 s
  | .wgdrain e f => Sys2Proof.Machine.execWgdrain e f s
  | .cvt e f w2 => Sys2Proof.Machine.execCvt e f w2 s
  | .vadd e f => Sys2Proof.Machine.execVadd e f s
  | .vsub e f => Sys2Proof.Machine.execVsub e f s
  | .vmul e f => Sys2Proof.Machine.execVmul e f s
  | .vmin e f => Sys2Proof.Machine.execVmin e f s
  | .vmax e f => Sys2Proof.Machine.execVmax e f s
  | .vmov e f => Sys2Proof.Machine.execVmov e f s
  | .vabs e f => Sys2Proof.Machine.execVabs e f s
  | .vneg e f => Sys2Proof.Machine.execVneg e f s
  | .vclamp e f => Sys2Proof.Machine.execVclamp e f s
  | .vtanh e f => Sys2Proof.Machine.execVtanh e f s
  | .vlogi e f => Sys2Proof.Machine.execVlogi e f s
  | .vfma e f w2 => Sys2Proof.Machine.execVfma e f w2 s
  | .vfuse e f w2 => Sys2Proof.Machine.execVfuse e f w2 s
  | .vrot e f w2 => Sys2Proof.Machine.execVrot e f w2 s
  | .steprun e f w2 => Sys2Proof.Machine.execSteprun e f w2 s
  | .rstat e f w2 => Sys2Proof.Machine.execRstat e f w2 s
  | .smax e f w2 => Sys2Proof.Machine.execSmax e f w2 s
  | .engCtrlHalt e v => Sys2Proof.Machine.execEngCtrlHalt e v s
  | .engineHalted e => Sys2Proof.Machine.execEngineHalted e s
  | .engSemWrite e k v => Sys2Proof.Machine.execEngSemWrite e k v s
  | .engDbgDataRead e a => Sys2Proof.Machine.execEngDbgDataRead e a s
  | .engDbgDataWrite e a v => Sys2Proof.Machine.execEngDbgDataWrite e a v s
  | .hubBar2BaseWrite v => Sys2Proof.Machine.execHubBar2BaseWrite v s
  | .bar2Read x n => Sys2Proof.Machine.execBar2Read x n s
  | .bar2Write x d => Sys2Proof.Machine.execBar2Write x d s
  | .registerWrite off n d => Sys2Proof.Machine.execRegisterWrite off n d s
  | .rcCounterRead off n => Sys2Proof.Machine.execRcCounterRead off n s
  | .tlyCounterRead n k a => Sys2Proof.Machine.execTlyCounterRead n k a s
  | .monitorFeed => Sys2Proof.Machine.execMonitorFeed s
  | .widenRequest => Sys2Proof.Machine.execWidenRequest s
  | .widenGrantAccepted => Sys2Proof.Machine.execWidenGrantAccepted s
  | .monitorRelease n => Sys2Proof.Machine.execMonitorRelease n s
  | .schMonCtlWrite n v => Sys2Proof.Machine.execSchMonCtlWrite n v s
  | .hbmRead a => Sys2Proof.Machine.execHbmRead a s
  | .hbmWrite a bytes => Sys2Proof.Machine.execHbmWrite a bytes s
  | .hbmAddWrite a aty aop v => Sys2Proof.Machine.execHbmAddWrite a aty aop v s
  | .hbmAtomic a aty aop v => Sys2Proof.Machine.execHbmAtomic a aty aop v s
  | .scrubLine st line => Sys2Proof.Machine.execScrubLine st line s
  | .memMapWrite n second a v => Sys2Proof.Machine.execMemMapWrite n second a v s
  | .mapCopiesUpdated => Sys2Proof.Machine.execMapCopiesUpdated s
  | .landingRead d lpol a => Sys2Proof.Machine.execLandingRead d lpol a s
  | .lndPartWrite d v => Sys2Proof.Machine.execLndPartWrite d v s
  | .partitionDropDone d => Sys2Proof.Machine.execPartitionDropDone d s
  | .lndDallocWrite d k a v => Sys2Proof.Machine.execLndDallocWrite d k a v s
  | .flashRead => Sys2Proof.Machine.execFlashRead s
  | .flashWrite => Sys2Proof.Machine.execFlashWrite s
  | .flashTrim => Sys2Proof.Machine.execFlashTrim s
  | .flashImport => Sys2Proof.Machine.execFlashImport s
  | .flashNfetch => Sys2Proof.Machine.execFlashNfetch s
  | .flashGatePoll => Sys2Proof.Machine.execFlashGatePoll s
  | .flashCommandComplete k => Sys2Proof.Machine.execFlashCommandComplete k s
  | .ftlReadDisturbRelocate b => Sys2Proof.Machine.execFtlReadDisturbRelocate b s
  | .nfetchRequestServe => Sys2Proof.Machine.execNfetchRequestServe s
  | .nfetchResponse => Sys2Proof.Machine.execNfetchResponse s
  | .keyInstall k c blob => Sys2Proof.Machine.execKeyInstall k c blob s
  | .keyErase k => Sys2Proof.Machine.execKeyErase k s
  | .modelUnload => Sys2Proof.Machine.execModelUnload s
  | .modelLoad => Sys2Proof.Machine.execModelLoad s
  | .modelCommandComplete => Sys2Proof.Machine.execModelCommandComplete s
  | .ferrySwapOut => Sys2Proof.Machine.execFerrySwapOut s
  | .ferrySwapIn => Sys2Proof.Machine.execFerrySwapIn s
  | .ferryCommitDeferred => Sys2Proof.Machine.execFerryCommitDeferred s
  | .codecOpen => Sys2Proof.Machine.execCodecOpen s
  | .codecDecode u => Sys2Proof.Machine.execCodecDecode u s
  | .codecEncode u => Sys2Proof.Machine.execCodecEncode u s
  | .codecRelease => Sys2Proof.Machine.execCodecRelease s
  | .codecClose => Sys2Proof.Machine.execCodecClose s
  | .msearch u => Sys2Proof.Machine.execMsearch u s
  | .codecJobRead => Sys2Proof.Machine.execCodecJobRead s
  | .codecUnitSchedule u => Sys2Proof.Machine.execCodecUnitSchedule u s
  | .frameTimeout u => Sys2Proof.Machine.execFrameTimeout u s
  | .codecJobComplete k => Sys2Proof.Machine.execCodecJobComplete k s
  | .ctxOpen c => Sys2Proof.Machine.execCtxOpen c s
  | .ctxPreempt c => Sys2Proof.Machine.execCtxPreempt c s
  | .ctxResume c => Sys2Proof.Machine.execCtxResume c s
  | .ctxTeardown c => Sys2Proof.Machine.execCtxTeardown c s
  | .ctxEnd c => Sys2Proof.Machine.execCtxEnd c s
  | .ctxSetWrite c k v => Sys2Proof.Machine.execCtxSetWrite c k v s
  | .dispatch => Sys2Proof.Machine.execDispatch s
  | .workItemComplete c => Sys2Proof.Machine.execWorkItemComplete c s
  | .contextSave c => Sys2Proof.Machine.execContextSave c s
  | .contextRestore c => Sys2Proof.Machine.execContextRestore c s
  | .preemptTimeout c => Sys2Proof.Machine.execPreemptTimeout c s
  | .deadlineMonitorMark => Sys2Proof.Machine.execDeadlineMonitorMark s
  | .teardown c => Sys2Proof.Machine.execTeardown c s
  | .teardownStall c => Sys2Proof.Machine.execTeardownStall c s
  | .errHeadWrite v => Sys2Proof.Machine.execErrHeadWrite v s
  | .fatalContainment cause => Sys2Proof.Machine.execFatalContainment cause s
  | .slipDetect n => Sys2Proof.Machine.execSlipDetect n s
  | .detectTimeout n => Sys2Proof.Machine.execDetectTimeout n s
  | .fasteqDone n ok => Sys2Proof.Machine.execFasteqDone n ok s
  | .eqAttemptDone n ok => Sys2Proof.Machine.execEqAttemptDone n ok s
  | .slipConfig n mine theirs order inv uid pslip peer => Sys2Proof.Machine.execSlipConfig n mine theirs order inv uid pslip peer s
  | .redetectTimer n => Sys2Proof.Machine.execRedetectTimer n s
  | .slipRetrain n => Sys2Proof.Machine.execSlipRetrain n s
  | .slipDisable n => Sys2Proof.Machine.execSlipDisable n s
  | .lossOfSignal n => Sys2Proof.Machine.execLossOfSignal n s
  | .dataFlitReceive n bytes => Sys2Proof.Machine.execDataFlitReceive n bytes s
  | .idleFlitReceive n bytes => Sys2Proof.Machine.execIdleFlitReceive n bytes s
  | .nak n bytes => Sys2Proof.Machine.execNak n bytes s
  | .cut n bytes => Sys2Proof.Machine.execCut n bytes s
  | .lpreq n bytes => Sys2Proof.Machine.execLpreq n bytes s
  | .lpack n bytes => Sys2Proof.Machine.execLpack n bytes s
  | .lpExit n partner => Sys2Proof.Machine.execLpExit n partner s
  | .routeMessage => Sys2Proof.Machine.execRouteMessage s
  | .rd => Sys2Proof.Machine.execRd s
  | .wr => Sys2Proof.Machine.execWr s
  | .remoteAddw => Sys2Proof.Machine.execRemoteAddw s
  | .remoteAtom => Sys2Proof.Machine.execRemoteAtom s
  | .rdrsp => Sys2Proof.Machine.execRdrsp s
  | .wrack => Sys2Proof.Machine.execWrack s
  | .atomrsp => Sys2Proof.Machine.execAtomrsp s
  | .remoteRequestTimeout tag => Sys2Proof.Machine.execRemoteRequestTimeout tag s
  | .probe => Sys2Proof.Machine.execProbe s
  | .preply => Sys2Proof.Machine.execPreply s
  | .cfgrd => Sys2Proof.Machine.execCfgrd s
  | .cfgwr => Sys2Proof.Machine.execCfgwr s
  | .cfgrsp => Sys2Proof.Machine.execCfgrsp s
  | .fabSrMsgGo d a => Sys2Proof.Machine.execFabSrMsgGo d a s
  | .wakePatternSend n => Sys2Proof.Machine.execWakePatternSend n s
  | .collectiveStepStart e => Sys2Proof.Machine.execCollectiveStepStart e s
  | .readyMsg => Sys2Proof.Machine.execReadyMsg s
  | .dataMsg => Sys2Proof.Machine.execDataMsg s
  | .partialMsg => Sys2Proof.Machine.execPartialMsg s
  | .creditMsg => Sys2Proof.Machine.execCreditMsg s
  | .abortMsg => Sys2Proof.Machine.execAbortMsg s
  | .ackMsg => Sys2Proof.Machine.execAckMsg s
  | .collectiveStepComplete d k => Sys2Proof.Machine.execCollectiveStepComplete d k s
  | .collectiveStepTimeout d k => Sys2Proof.Machine.execCollectiveStepTimeout d k s
  | .colGroupCfgWrite g a v => Sys2Proof.Machine.execColGroupCfgWrite g a v s
  | .colGroupMemWrite g a v => Sys2Proof.Machine.execColGroupMemWrite g a v s
  | .colActiveWrite v => Sys2Proof.Machine.execColActiveWrite v s
  | .powerInterval temps input => Sys2Proof.Machine.execPowerInterval temps input s
  | .levelChangeComplete c => Sys2Proof.Machine.execLevelChangeComplete c s
  | .vfail g => Sys2Proof.Machine.execVfail g s
  | .thermtrip sensor tj => Sys2Proof.Machine.execThermtrip sensor tj s
  | .overdraw mw run => Sys2Proof.Machine.execOverdraw mw run s
  | .coolant inlet => Sys2Proof.Machine.execCoolant inlet s
  | .brownout v amps => Sys2Proof.Machine.execBrownout v amps s
  | .ivrRestart v => Sys2Proof.Machine.execIvrRestart v s
  | .pwrReqWrite c v => Sys2Proof.Machine.execPwrReqWrite c v s
  | .pwrBudgetWrite v => Sys2Proof.Machine.execPwrBudgetWrite v s
  | .pwrOppWrite l v => Sys2Proof.Machine.execPwrOppWrite l v s
  | .moor => Sys2Proof.Machine.execMoor s
  | .layup => Sys2Proof.Machine.execLayup s
  | .exitMoored => Sys2Proof.Machine.execExitMoored s
  | .powerEntryComplete => Sys2Proof.Machine.execPowerEntryComplete s
  | .wakeEvent src n => Sys2Proof.Machine.execWakeEvent src n s
  | .exitStepDone => Sys2Proof.Machine.execExitStepDone s
  | .exitfail => Sys2Proof.Machine.execExitfail s
  | .powerGood mid => Sys2Proof.Machine.execPowerGood mid s
  | .perstDeassert => Sys2Proof.Machine.execPerstDeassert s
  | .perstAssert => Sys2Proof.Machine.execPerstAssert s
  | .pmeTurnOff => Sys2Proof.Machine.execPmeTurnOff s
  | .warmReset => Sys2Proof.Machine.execWarmReset s
  | .computeReset => Sys2Proof.Machine.execComputeReset s
  | .coldReset => Sys2Proof.Machine.execColdReset s
  | .startStepDone step pass => Sys2Proof.Machine.execStartStepDone step pass s
  | .startStepTimeout code => Sys2Proof.Machine.execStartStepTimeout code s
  | .lateEngineFailure e => Sys2Proof.Machine.execLateEngineFailure e s
  | .spareTestDone e pass => Sys2Proof.Machine.execSpareTestDone e pass s
  | .hubRetire n => Sys2Proof.Machine.execHubRetire n s
  | .dcrWrite bad => Sys2Proof.Machine.execDcrWrite bad s
  | .lmsReservationCommit => Sys2Proof.Machine.execLmsReservationCommit s
  | .dcrcmdWrite => Sys2Proof.Machine.execDcrcmdWrite s
  | .dcrcmdSetTopology a => Sys2Proof.Machine.execDcrcmdSetTopology a s
  | .dcrcmdClearRetired => Sys2Proof.Machine.execDcrcmdClearRetired s
  | .dcrcmdClearTopology => Sys2Proof.Machine.execDcrcmdClearTopology s
  | .fwUpdate a => Sys2Proof.Machine.execFwUpdate a s
  | .commitsvn => Sys2Proof.Machine.execCommitsvn s
  | .recovStart len => Sys2Proof.Machine.execRecovStart len s
  | .recovChunk off => Sys2Proof.Machine.execRecovChunk off s
  | .recovDone bad => Sys2Proof.Machine.execRecovDone bad s
  | .getMeasurements index signed nonce => Sys2Proof.Machine.execGetMeasurements index signed nonce s
  | .challenge => Sys2Proof.Machine.execChallenge s
  | .getCertificate slot => Sys2Proof.Machine.execGetCertificate slot s
  | .spdmRequest code payload => Sys2Proof.Machine.execSpdmRequest code payload s
  | .sessionRequest k peer => Sys2Proof.Machine.execSessionRequest k peer s
  | .sessionRespond k peer => Sys2Proof.Machine.execSessionRespond k peer s
  | .sessionClose k => Sys2Proof.Machine.execSessionClose k s
  | .relayIngo len => Sys2Proof.Machine.execRelayIngo len s
  | .sessionOpenTimeout => Sys2Proof.Machine.execSessionOpenTimeout s
  | .mctpRead32 off => Sys2Proof.Machine.execMctpRead32 off s
  | .mctpWrite32 off v => Sys2Proof.Machine.execMctpWrite32 off v s
  | .pldmRequest sensor => Sys2Proof.Machine.execPldmRequest sensor s
  | .mctpControl cmd eid => Sys2Proof.Machine.execMctpControl cmd eid s
  | .i3cAddressAssignment a => Sys2Proof.Machine.execI3cAddressAssignment a s
  | .mateOpen => Sys2Proof.Machine.execMateOpen s
  | .hubIrqstatWrite v => Sys2Proof.Machine.execHubIrqstatWrite v s
  | .pcieCompletionTimeout a n => Sys2Proof.Machine.execPcieCompletionTimeout a n s
  | .ivrRestartComplete v pass => Sys2Proof.Machine.execIvrRestartComplete v pass s
  | .fwUpdateComplete bad => Sys2Proof.Machine.execFwUpdateComplete bad s
  | .landingDirectAccess a n w => Sys2Proof.Machine.execLandingDirectAccess a n w s
  | .pcieReadCompletion a status bytes => Sys2Proof.Machine.execPcieReadCompletion a status bytes s
  | .inputPowerLoss => Sys2Proof.Machine.execInputPowerLoss s
  | .wearLevelling b retire => Sys2Proof.Machine.execWearLevelling b retire s
  | .partnerLinkDown n => Sys2Proof.Machine.execPartnerLinkDown n s
  | .doeDiscovery index => Sys2Proof.Machine.execDoeDiscovery index s
  | .ferryInvalidOp => Sys2Proof.Machine.execFerryInvalidOp s
  | .flashInvalidOp => Sys2Proof.Machine.execFlashInvalidOp s
  | .codecInvalidOp => Sys2Proof.Machine.execCodecInvalidOp s
  | .collInvalidKind => Sys2Proof.Machine.execCollInvalidKind s

end Sys2Proof.Machine
end

