-- ==== Sys2Proof/Machine/Tick.lean ====
section
/-! DEFINITION. The passing of time: one microsecond, in which no command is waiting. -/

namespace Sys2Proof.Machine

/-- A bound engine counts its ECLK cycles (Table 3-1), one microsecond at the clock of its group in MHz (R399). -/
def tickEngine (clock : SMap Nat) (g : Engine) : Engine :=
  if g.bound then { g with cycles := g.cycles + BitVec.ofNat 64 (eclk (SMap.get zeroNat clock (groupOf g.slot))) } else g

/-- A context in TEARDOWN that awaits remote requests has that time taken apart (Table 13-8). -/
def tickCtx (s : State) (c : Nat) : State :=
  if s.ctxState c = 6 && remotePending s c then s.modCtx c fun x => { x with tearUs := x.tearUs + 1 } else s

/-- Beats that moved late in this microsecond: how many is timing, and free (R258). -/
def tickLate (s : State) : State :=
  let k := (List.range 14).map (Config.lateBeats s.free)
  { s with lates := (s.lates.zip k).map fun p => min (p.1 + p.2) (2 ^ 32 - 1), free := s.free + 1,
           sched := { s.sched with late := s.sched.late + k.foldl (· + ·) 0 } }

/-- A slip with no flit waiting sends IDLE flits (R341); one stands for those of a microsecond. -/
def tickSlip (s : State) (n : Nat) : State := if slipUp s n && (slipOf s n).out.isEmpty then emitLink s n 2 none 0 else s

/-- The function takes configuration requests and meets errors of its own: with input power, outside P3, and until L2 is entered. -/
def functionUp (s : State) : Bool := powerState s != 3 && !s.power.perst && !s.power.pmeAck

/-- What reaches the function beside memory requests: the host programs a D-state (R437) or a severity, or a corrected error of its own buffers is reported (R441).
DESIGN CHOICE (log entry 152): when, is free. -/
def tickFunction (s : State) : State :=
  if !functionUp s then s
  else
    let d := { s with free := s.free + 1 }
    let h := d.host
    match Config.functionEvent s.free with
    | 1 => reportAer d 5
    | 2 => { d with host := { h with dState := .d0 } }
    | 3 => { d with host := { h with dState := .d3hot } }
    | k =>
      if 4 ≤ k && k ≤ 13 then
        let c := h.config
        { d with host := { h with config := { c with
            severity := c.severity.set ((k - 4) / 2) (if k % 2 = 0 then .nonFatal else .fatal) } } }
      else d

/-- The jobs that units run count their VCLK cycles, one microsecond at the rate of the codec's level (Table 16-2, R307). -/
def tickJobs (s : State) : State :=
  { s with codec := { s.codec with jobs := s.codec.jobs.map fun j =>
      if j.unit.isSome then { j with ran := j.ran + 225 * (levelOf s 38 + 1) } else j } }

/-- One microsecond passes while the module has power. -/
def tick (s : State) : State :=
  if !s.boot.powered then s
  else
    let s1 := (List.range 16).foldl tickSlip (tickJobs (tickLate ((List.range 64).foldl tickCtx s)))
    tickFunction ((List.range 96).foldl (fun (t : State) e => t.modEng e (tickEngine s.power.clock)) { s1 with us := s1.us + 1 })

end Sys2Proof.Machine
end

