-- ==== Sys2Proof/Safety.lean ====
section
/-! DEFINITION. What counts as a safe state and a safe run, in the terms that claims use. -/

namespace Sys2Proof.Machine

/-- Nothing device-fatal has happened (R333). -/
def State.safe (s : State) : Prop := s.fatal = false

/-- Memories, registers, engines and contexts in canonical form. -/
def Canon (m : Mem) (regs : SMap Word32) (engines : SMap Engine) (ctxs : SMap Ctx) : Prop :=
  m.wf = true ∧ SMap.wf regReset regs = true ∧ SMap.wf Engine.reset engines = true ∧ SMap.wf Ctx.reset ctxs = true

/-- A state whose memories, registers, engines and contexts stand in canonical form: equal contents are equal data. -/
def State.canonical (s : State) : Prop := Canon s.mem s.regs s.engines s.ctxs

/-- What runs without stopping: a step that answers a next state. -/
def answers (o : Host.Outcome State Fault Refusal) : Prop := ∃ t, o = .next t

/-- The engine of a command that is an engine instruction, and the operand fields of its first word. -/
def wordOf : Instr → Option (EngId × Fields)
  | .nop e w => some (e, w.setWidth 56)
  | .sig e _ f | .wait e _ f | .done e f | .br e f | .jal e f | .jr e f | .loop e f | .alu e f | .alui e f | .cmp e f | .cmpi e f | .plog e f
  | .adda e f | .lds e f | .sts e f | .sget e f | .flgclr e f | .tset e f | .tget e f | .bload e f | .bext e f | .li64 e f _ | .preempt e f _
  | .tblload e f _ | .tblswap e f | .tlyRead e f | .tlyMark e f | .tlyAdd e f | .rsig e f | .fill e f _ | .spill e f _ | .copy e f _ | .pref e f _
  | .addw e f _ | .atom e f _ | .winfill e f _ | .kvwalk e f _ | .kvmap e f _ | .xch e f _ | .xredAllReduce e f _ | .xredReduceScatter e f _
  | .xgather e f _ | .mmaLoad e f _ | .mmaCompute e f _ | .drain e f _ | .wgpush e f _ _ _ | .wgdrain e f | .cvt e f _ | .vadd e f | .vsub e f
  | .vmul e f | .vmin e f | .vmax e f | .vmov e f | .vabs e f | .vneg e f | .vclamp e f | .vtanh e f | .vlogi e f | .vfma e f _ | .vfuse e f _
  | .vrot e f _ | .steprun e f _ | .rstat e f _ | .smax e f _ => some (e, f)
  | _ => none

/-- An engine instruction `i` issues at once on engine `e` and finds every queue empty: the engine issues (R59, R92), the encoding is legal
(R74), nothing waits in the queues or the deferred queue, no started WINFILL runs a slot that `i` writes (R86), and no word of tile or accumulator
memory holds an error (R52). -/
structure Free (s : State) (e : EngId) (i : Instr) : Prop where
  runs : issues (s.eng e.val) = true
  legal : Machine.legal i = true
  queues : (s.eng e.val).queues = []
  deferred : (s.eng e.val).deferred = []
  slots : overlap (runSlots (s.eng e.val)) (writesOf i) = false
  tileErr : (s.eng e.val).tileErr = []
  accErr : (s.eng e.val).accErr = []

/-- It does so with a true guard (R73), `f` being the operand fields of its first word. -/
structure Issuable (s : State) (e : EngId) (f : Fields) (i : Instr) : Prop extends Free s e i where
  guard : guardTrue f (s.eng e.val).regs = true

/-- ENG_PC past an instruction of so many bytes (R59). -/
def Engine.past (g : Engine) (n : Nat) : Engine := { g with pc := (g.pc + n) % tileSize }

/-- The queue entry of an instruction that issues with the registers of `g` (R84). -/
def entryOf (g : Engine) (i : Instr) : QEntry := ⟨i, g.pc, g.regs, true, false, 0, 0, 0⟩

/-- The head of an empty queue can run at once: a WAIT is satisfied, an MMA load finds the shadow empty, a WGPUSH finds room in the deferred
queue, and a transfer finds room in its Skidder queue (R56, R89, R109, R132). -/
def runsAtOnce (g : Engine) (i : Instr) : Bool :=
  headKind g (entryOf g i) == .runs || headKind g (entryOf g i) == .waits

/-! ## Rows of an engine whose memories hold no error -/

/-- Row `i` of a source (Table 4-7). -/
def sourceRow (g : Engine) (r : RegFile) (k : Lanes) (ft i n : Nat) : List Xr :=
  match k with
  | .region t => rowValues (ftFormat ft) [] (tileBytes g (rowAddr r t i) (rowBytes (ftFormat ft) n)) n
  | .acc t => (List.range n).map fun c => f32 (SMap.get (fun _ => 0#32) g.acc (accKey t (i % 256) 0 + c)).toNat
  | .scalar w => List.replicate n (f32 w)
  | .absent => List.replicate n Xr.zero

/-- FP32 results put into row `i` of a destination, with the flags of their conversion (R117). -/
def putRow (g : Engine) (r : RegFile) (k : Lanes) (ft i : Nat) (xs : List Xr) : Engine × Flags :=
  match k with
  | .acc t => (putAcc g (accKey t (i % 256) 0) (xs.map enc32), 0)
  | .region t =>
    (putTile g (rowAddr r t i) (encodeRow (ftFormat ft) (xs.map fun x => (toFt ft x).1)),
      xs.foldl (fun fl x => fl ||| (toFt ft x).2) 0)
  | _ => (g, 0)

/-- Row `i` of a vector instruction with third source `c`: a lane operation on the three source rows, its flags raised. -/
def laneRow (f : Fields) (r : RegFile) (c : Lanes) (op : Xr → Xr → Xr → Xr × Flags) (g : Engine) (i : Nat) : Engine :=
  let ft := fld f 22 21
  let row := (r.getS (fld f 35 31) + i) % 2 ^ 64
  let y := lanewise op (sourceRow g r (vecA f) ft row 256) (sourceRow g r (vecB f r) ft row 256) (sourceRow g r c ft row 256)
  let h := putRow g r (vecD f) ft row y.1
  { h.1 with flags := g.flags ||| (y.2 ||| h.2) }

/-- The rows of a vector instruction in ascending order. -/
def laneRows (f : Fields) (r : RegFile) (c : Lanes) (op : Xr → Xr → Xr → Xr × Flags) (g : Engine) : Engine :=
  (List.range (fld f 30 23 + 1)).foldl (laneRow f r c op) g

/-- Rows of `n` elements of source A, each mapped as a whole and put into the destination (Tables 4-7, 4-8). -/
def mapRow (f : Fields) (r : RegFile) (n : Nat) (op : List Xr → List Xr × Flags) (g : Engine) (i : Nat) : Engine :=
  let ft := fld f 22 21
  let row := (r.getS (fld f 35 31) + i) % 2 ^ 64
  let y := op (sourceRow g r (vecA f) ft row n)
  let h := putRow g r (vecD f) ft row y.1
  { h.1 with flags := g.flags ||| (y.2 ||| h.2) }

/-- One row of an MMA compute without a nest (R42, R108): streamed row `i` folded into accumulator row `i`. -/
def mmaRow (f : Fields) (r : RegFile) (g : Engine) (i : Nat) : Engine :=
  let st := g.active
  let fm := fmtOf st.fm
  let row := (r.getS (fld f 39 35) + i) % 2 ^ 64
  let book := if isBook st.fm then storeSlot g st.cbm else []
  let vals := rowValues fm book (tileBytes g (rowAddr r (fld f 47 44) row) (rowBytes fm (16 * st.kb))) (16 * st.kb)
  let codes := if st.nsm then List.replicate st.kb 0x78 else (tileBytes g (rowAddr r (fld f 43 40) row) st.kb).map (·.toNat)
  let k0 := accKey (fld f 49 48) i 0
  let old (n : Nat) : Xr := if fld f 51 50 = 1 then f32 0 else f32 (SMap.get (fun _ => 0#32) g.acc (k0 + n)).toNat
  let ys := (List.range 256).map fun n =>
    foldElem (fun k => vals.getD k Xr.zero) (fun b => codes.getD b 0) (fun k => statValue st k n) (fun b => statScale st b n) st.kb (old n)
  let h := putAcc (keepLate g (fld f 49 48) i) k0 (ys.map fun y => enc32 y.1)
  { h with flags := g.flags ||| joinFlags ys }

/-- An accumulator row of 256 elements. -/
def accRow (g : Engine) (tile i : Nat) : List Nat := (List.range 256).map fun c => (SMap.get (fun _ => 0#32) g.acc (accKey tile i 0 + c)).toNat

/-- Row `i` of 256 FP32 values narrowed and put into the destination, its block scales and its carry regions, with what it adds to the sums for the monitor
(R143, R146, R152, R153). -/
def narrowPut (r : RegFile) (d : NarrowDest) (i pos : Nat) (xs : List Xr) (x : Engine × Sums) : Engine × Sums :=
  let g := x.1
  let old := if d.cfg.cc = 1 || d.cfg.cc = 3 then tileBytes g (rowAddr r d.tr i) 256 else List.replicate 256 0#8
  let outs := (List.range 16).map fun j =>
    narrowBlock d.cfg ((xs.drop (16 * j)).take 16) (((old.drop (16 * j)).take 16).map (·.toNat)) ((pos + 16 * j) % 2 ^ 64)
  let g1 := putTile g (rowAddr r d.td i) (packCodes d.cfg.f ((outs.map (·.codes)).flatten))
  let g2 := if d.cfg.scaled then putTile g1 (rowAddr r d.tds i) (outs.map fun o => BitVec.ofNat 8 o.scale) else g1
  let g3 := if d.cfg.cc = 1 || d.cfg.cc = 2 then putTile g2 (rowAddr r d.tr i) (((outs.map (·.rout)).flatten).map (BitVec.ofNat 8)) else g2
  let sx := match x.2.sx, sumAbs xs with
    | some a, some b => some (a + b)
    | _, _ => none
  ({ g3 with flags := outs.foldl (fun a o => a ||| o.flags) g.flags },
    ⟨sx, x.2.sr + sumRes ((outs.map (·.rout)).flatten), x.2.nan + (outs.map (·.nans)).foldl (· + ·) 0⟩)

/-- The fused stage on a row of 256 values, its bias row read from tile memory (R214, R215). -/
def fusedVals (g : Engine) (n : Nat) (xs : List Xr) : List Xr × Flags :=
  let fd := fusedDesc (activeBank g) n
  let bf := if fd.bf then Format.bf16 else Format.fp32
  let bias := if fd.be then rowValues bf [] (tileBytes g (fd.boff % tileSize) (rowBytes bf 256)) 256 else List.replicate 256 Xr.zero
  let ys := (xs.zip bias).map fun p => fusedStage (activeBank g) fd p.1 p.2
  (ys.map (·.1), joinFlags ys)

/-- The settings of a DRAIN: its destination and the flags its scales raise (R112, R145). -/
def drainDest (f : Fields) (r : RegFile) : NarrowDest × Flags :=
  let cfg := narrowCfg (fld f 22 19) (fld f 51 50) (bit f.toNat 6) (bit f.toNat 8) (r.getS (fld f 13 9))
  (⟨fld f 47 44, fld f 43 40, fld f 39 36, cfg.1⟩, cfg.2)

/-- Row `i` of a DRAIN: the accumulator row it reads, scaled, passed through the fused stage where FUSE is 1, and narrowed (R112, R113). -/
def drainRow (f : Fields) (w : Word64) (r : RegFile) (scale : Xr) (pick : Nat → List Nat) (x : Engine × Sums) (i : Nat) : Engine × Sums :=
  let ys := (pick i).map fun v => mul32 (f32 v) scale
  let z := if bit f.toNat 7 then fusedVals x.1 (fld2 w 55 48) (ys.map (·.1)) else (ys.map (·.1), 0)
  narrowPut r (drainDest f r).1 ((r.getS (fld f 35 31) + i) % 2 ^ 64) (r.getS (fld2 w 47 43) + 256 * i) z.1
    ({ x.1 with flags := x.1.flags ||| (joinFlags ys ||| z.2) }, x.2)

/-- The settings of a CVT, as for a DRAIN (R115). -/
def cvtDest (f : Fields) (w : Word64) (r : RegFile) : NarrowDest × Flags :=
  let cfg := narrowCfg (fld f 45 42) (fld f 51 50) (bit f.toNat 6) (bit f.toNat 8) (r.getS (fld2 w 42 38))
  (⟨fld f 33 30, fld f 29 26, fld f 25 22, cfg.1⟩, cfg.2)

/-- Row `i` of a CVT: the source row read whole, each value with its block scale and the global scale, then narrowed (R115, R116). -/
def cvtRow (f : Fields) (w : Word64) (r : RegFile) (x : Engine × Sums) (i : Nat) : Engine × Sums :=
  let fi := fld f 49 46
  let row := (r.getS (fld f 21 17) + i) % 2 ^ 64
  let sc := tileBytes x.1 (rowAddr r (fld f 37 34) row) 16
  let book := if isBook fi then storeSlot x.1 (fld2 w 55 48) else []
  let src := rowValues (fmtOf fi) book (tileBytes x.1 (rowAddr r (fld f 41 38) row) (rowBytes (fmtOf fi) 256)) 256
  let vs := src.zipIdx.map fun p =>
    cvtValue p.1 (if hasScales fi (bit f.toNat 7) then some (byteAt sc (p.2 / 16)).toNat else none) (f32 (bits (r.getS (fld2 w 47 43)) 31 0))
  narrowPut r (cvtDest f w r).1 row (r.getS (fld2 w 37 33) + 256 * i) (vs.map (·.1)) ({ x.1 with flags := x.1.flags ||| joinFlags vs }, x.2)

/-- A row of a VROT under its descriptor, whose position comes from the table in tile memory or from the raster generator (R230 to R233). -/
def rotVals (g : Engine) (r : RegFile) (tp : Nat) (d : RotDesc) (i : Nat) (xs : List Xr) : List Xr × Flags :=
  if d.valid then
    let pos := rotPos d (fun k => f32 (leNat (((tileBytes g ((r.tBase tp + d.w4 + 16 * i) % tileSize) 12).drop (4 * k)).take 4))) i
    let a := rotHead d pos (xs.take 128)
    let b := rotHead d pos (xs.drop 128)
    (a.1 ++ b.1, a.2 ||| b.2)
  else (List.replicate 256 .nan, Flags.inv)

/-- Row `i` of a VROT, whose descriptor was read at its start. -/
def rotRow (f : Fields) (w : Word64) (r : RegFile) (d : RotDesc) (g : Engine) (i : Nat) : Engine :=
  mapRow f r 256 (rotVals g r (fld2 w 50 47) d i) g i

/-- The descriptor of a VROT (R231). -/
def rotDescOf (g : Engine) (r : RegFile) (w : Word64) : RotDesc :=
  let bs := tileBytes g ((r.tBase (fld2 w 50 47) + fld2 w 31 0) % tileSize) 64
  rotDesc fun k => leNat ((bs.drop (8 * k)).take 8)

/-- Row `i` of an RSTAT: the two statistics of each group, as pairs in an accumulator tile or in a row of the destination region (R119, R216, R217). -/
def rstatRow (f : Fields) (w : Word64) (r : RegFile) (g : Engine) (i : Nat) : Engine :=
  let n := fld2 w 61 49 + 1
  let gs := if fld2 w 63 62 = 2 then fld2 w 48 36 + 1 else n
  let p := (n / gs + 127) / 128
  let row := (r.getS (fld f 35 31) + i) % 2 ^ 64
  let st := (groupsOf gs (n / gs) (sourceRow g r (vecA f) (fld f 22 21) row n)).map (rowStats (fld2 w 63 62 == 0))
  let h := if bit f.toNat 36 then
      st.zipIdx.foldl (fun h x => putAcc h (accKey (fld f 49 48) (r.getS (fld f 35 31) + p * i + x.2 / 128) (2 * (x.2 % 128)))
        [enc32 x.1.1, enc32 x.1.2.1]) g
    else putTile g (rowAddr r (fld f 51 48) row) ((st.map fun x => leBytes 4 (enc32 x.1).toNat ++ leBytes 4 (enc32 x.2.1).toNat).flatten)
  { h with flags := st.foldl (fun fl x => fl ||| x.2.2.1) g.flags }

end Sys2Proof.Machine
end

