-- ==== Sys2Proof/WellFormed.lean ====
section
/-! DEFINITION. Which commands are well formed: the limits that the specification puts on operands beyond their types. The
legality of an instruction word under R74 is no part of this: an illegal word is a command with an effect, the illegal-instruction
trap. -/

namespace Sys2Proof

/-- The opcodes that Table 3-4 and Tables 4-7 to 4-9 assign; every other one is unassigned (R75). -/
def assignedOps : List Nat :=
  List.range 0x18 ++ [0x20, 0x21, 0x22, 0x41, 0x42, 0x43] ++ List.range' 0x60 7 ++ [0x68, 0x69, 0x6C, 0x6D, 0x6E, 0x81, 0x82, 0x84] ++
    [0xA0, 0xA1, 0xA4, 0xC1, 0xC2] ++ List.range' 0xC8 9 ++ [0xD8, 0xD9] ++ List.range' 0xE0 4 ++ [0xE8, 0xE9, 0xEA]

/-- One line of memory: at least one byte and no more than 64, not crossing a line (R246). -/
def inLine (a n : Nat) : Bool := decide (1 ≤ n) && decide (a % 64 + n ≤ 64)

/-- A run of bytes lies within a space of a size. -/
def inSpace (a n size : Nat) : Bool := decide (1 ≤ n) && decide (a + n ≤ size)

/-- The commands whose row of the table fixes a field of the word, and those whose operand has a length or a range. -/
def Instr.wf : Instr → Bool
  -- an OP that is NOP's or unassigned (R75)
  | .nop _ w => bits w.toNat 63 56 == 0 || !assignedOps.contains (bits w.toNat 63 56)
  -- the MODE of an MMA (Table 4-1)
  | .mmaLoad _ f _ => bits f.toNat 51 50 == 2
  | .mmaCompute _ f _ => bits f.toNat 51 50 != 2
  -- the SUB of a TLY (R133)
  | .tlyRead _ f => bits f.toNat 51 49 == 0
  | .tlyMark _ f => bits f.toNat 51 49 == 1
  | .tlyAdd _ f => bits f.toNat 51 49 == 2
  -- the XM of an XRED (R128)
  | .xredAllReduce _ f _ => bits f.toNat 15 14 == 0
  | .xredReduceScatter _ f _ => bits f.toNat 15 14 == 1
  -- a flit is 256 bytes (R341)
  | .dataFlitReceive _ b | .idleFlitReceive _ b | .nak _ b | .cut _ b | .lpreq _ b | .lpack _ b => b.length == 256
  -- a controller takes a line at a time (R259, R260)
  | .hbmWrite a b => inLine a.toNat b.length
  | .hbmAddWrite a _ _ _ | .hbmAtomic a _ _ _ => a.toNat % 2 == 0
  | .scrubLine _ l => decide (l < 72 * 2 ^ 24)
  | .landingDirectAccess a n none => inLine a.toNat n
  | .landingDirectAccess a n (some b) => inLine a.toNat n && b.length == n
  -- BAR2 is 64 GiB (R33)
  | .bar2Read x n => inSpace x.toNat n (2 ^ 36)
  | .bar2Write x d => inSpace x.toNat d.data.length (2 ^ 36)
  -- the readings of an interval: one per die, log entry 78
  | .powerInterval t _ => t.length == 25
  -- a signed request carries a nonce (R457)
  | .getMeasurements _ g n => n.length == (if g then 32 else 0)
  -- host memory is read in pieces that stay in its space (R440)
  | .pcieReadCompletion a st b => inSpace a.toNat b.length (2 ^ 64) && (st.val == 0 || decide (1 ≤ b.length))
  | .pcieCompletionTimeout a n => inSpace a.toNat n (2 ^ 64)
  | _ => true

end Sys2Proof
end

