-- ==== Sys2Proof/Certificates/Slice0/Obligations.lean ====
section
/-! DEFINITION. What is claimed of the model, for the provers. Each statement says which rules of the specification it rests on; where a clause
rests on a choice of the model, its docstring names the row of the assumption log. -/

open Sys2Proof Sys2Proof.Machine

/-! ## The machine as a whole -/

/-- A step takes the command at the front of the queue and is exec of it on the state with the queue's rest. -/
def Obligations.StepRunsFrontCommand : Prop :=
  ∀ (c : Instr) (rest : List Instr) (s : State), step { s with pending := c :: rest } = exec c { s with pending := rest }

/-- With no command waiting a microsecond passes, and only while the module has power: the clock of the hub counts it, every bound engine
counts the ECLK cycles of its group's clock (R13, Table 3-1), a codec job that runs counts its VCLK cycles, a slip that is UP with no flit waiting sends an IDLE
flit (R341), beats of the memory may be counted late (R258), and the host's function changes only while it is up. That time passes on an empty queue (log entry 3),
one IDLE flit for a slip and microsecond (log entry 133), 225 VCLK cycles for a microsecond and level (log entry 134), and what the function may meet in a
microsecond (log entry 152) are the model's choices. -/
def Obligations.IdleStepCountsTime : Prop :=
  ∀ s : State, s.pending = [] →
    (s.boot.powered = false → step s = .next s) ∧
    (s.boot.powered = true → ∃ t, step s = .next t ∧ t.us = s.us + 1 ∧ t.regs = s.regs ∧ t.mem = s.mem ∧
      (∀ n, n < 96 → t.eng n = (if (s.eng n).bound then
        { s.eng n with cycles := (s.eng n).cycles + BitVec.ofNat 64 (eclk (SMap.get zeroNat s.power.clock (groupOf (s.eng n).slot))) } else s.eng n)) ∧
      t.codec = { s.codec with jobs := s.codec.jobs.map fun j =>
        if j.unit.isSome then { j with ran := j.ran + 225 * (levelOf s 38 + 1) } else j } ∧
      t.fabric.flits.map (·.1) = s.fabric.flits.map (·.1) ++ (List.range 16).filter (fun n => slipUp s n && (slipOf s n).out.isEmpty) ∧
      s.sched.late ≤ t.sched.late ∧ (functionUp s = false → t.host = s.host))

/-- The module before input power: every register reads the value of its Reset column (Tables 19-2 to 19-13), every engine and context is untouched,
the memories list nothing, no command waits, and the state stands in canonical form. That it is unpowered (log entry 2), that memories that list nothing read as 0
(log entry 10), the zeros of registers whose column says "loaded" or "from the media" (log entry 13) and the values of "as PCI Express" (log entry 14) are the
model's choices. -/
def Obligations.ResetState : Prop :=
  State.reset.canonical ∧ State.reset.pending = [] ∧ State.reset.boot.powered = false ∧ State.reset.mem = {} ∧ State.reset.us = 0 ∧
    (∀ off, State.reset.reg off = (regReset off).toNat) ∧ (∀ n, State.reset.eng n = Engine.reset n) ∧ ∀ c, State.reset.ctx c = Ctx.reset c

/-- Every step keeps the memories, the registers, the engines and the contexts in canonical form, so that what equal units hold is equal data (log entry 1:
sparse storage is the model's own; it states nothing of the hardware but that a unit untouched or written back to its reset value is the same unit). -/
def Obligations.EveryStepKeepsCanonicalForm : Prop :=
  ∀ s t : State, s.canonical → step s = .next t → t.canonical

/-! ## Scalar, control and tally instructions -/

/-- R77, R78, Tables 3-6 and 3-7: the function codes of ALU and ALUI on 64-bit operands, the conditions of CMP and CMPI, and the functions of PLOG; a
code that is not listed is illegal.
R76 to R80, Table 3-8: what the scalar instructions that touch registers alone do when they issue with their engine free. Each equation names the
whole next state, so that everything it does not name is unchanged; SGET writes the source that SEL names. -/
def Obligations.ScalarResults : Prop :=
  (
    (∀ x y : BitVec 64,
      aluFn 0x00 x.toNat y.toNat = (x + y).toNat ∧ aluFn 0x01 x.toNat y.toNat = (x - y).toNat ∧
      aluFn 0x02 x.toNat y.toNat = (x * y).toNat ∧ aluFn 0x03 x.toNat y.toNat = x.toNat * y.toNat / 2 ^ 64 ∧
      aluFn 0x04 x.toNat y.toNat = (x &&& y).toNat ∧ aluFn 0x05 x.toNat y.toNat = (x ||| y).toNat ∧
      aluFn 0x06 x.toNat y.toNat = (x ^^^ y).toNat ∧ aluFn 0x07 x.toNat y.toNat = (x <<< (y.toNat % 64)).toNat ∧
      aluFn 0x08 x.toNat y.toNat = (x >>> (y.toNat % 64)).toNat ∧ aluFn 0x09 x.toNat y.toNat = (x.sshiftRight (y.toNat % 64)).toNat ∧
      aluFn 0x0A x.toNat y.toNat = (if x.sle y then x else y).toNat ∧ aluFn 0x0B x.toNat y.toNat = (if x.sle y then y else x).toNat ∧
      aluFn 0x0C x.toNat y.toNat = (if x.ule y then x else y).toNat ∧ aluFn 0x0D x.toNat y.toNat = (if x.ule y then y else x).toNat) ∧
    (∀ x y : BitVec 64,
      cmpFn 0 x.toNat y.toNat = (x == y) ∧ cmpFn 1 x.toNat y.toNat = (x != y) ∧ cmpFn 2 x.toNat y.toNat = x.slt y ∧
      cmpFn 3 x.toNat y.toNat = y.sle x ∧ cmpFn 4 x.toNat y.toNat = x.ult y ∧ cmpFn 5 x.toNat y.toNat = y.ule x) ∧
    (∀ a b : Bool, plogFn 0 a b = (a && b) ∧ plogFn 1 a b = (a || b) ∧ plogFn 2 a b = (a != b)) ∧
    ∀ (e : EngId) (f : Fields), (∀ w : Word64, bits w.toNat 63 56 ≠ 0 → legal (.nop e w) = false) ∧ (0x0D < fld f 31 24 → legal (.alu e f) = false) ∧ (0x0D < fld f 41 34 → legal (.alui e f) = false) ∧
      (5 < fld f 31 28 → legal (.cmp e f) = false) ∧ (5 < fld f 35 32 → legal (.cmpi e f) = false) ∧ (fld f 40 39 = 3 → legal (.plog e f) = false)) ∧
  (
    (∀ (e : EngId) (f : Fields) (w : Word64) (s : State),
      (Issuable s e (fieldsOf w) (.nop e w) → exec (.nop e w) s = .next (s.modEng e.val fun g => g.past 8)) ∧
      (Issuable s e f (.alu e f) → exec (.alu e f) s = .next (s.modEng e.val fun g => { g.past 8 with
        regs := g.regs.setS (fld f 51 47) (aluFn (fld f 31 24) (g.regs.getS (fld f 46 42)) (g.regs.getS (fld f 41 37))) })) ∧
      (Issuable s e f (.alui e f) → exec (.alui e f) s = .next (s.modEng e.val fun g => { g.past 8 with
        regs := g.regs.setS (fld f 51 47) (aluFn (fld f 41 34) (g.regs.getS (fld f 46 42)) (imod (sext 32 (fld f 31 0)) (2 ^ 64))) })) ∧
      (Issuable s e f (.cmp e f) → exec (.cmp e f) s = .next (s.modEng e.val fun g => { g.past 8 with
        regs := g.regs.setP (fld f 51 49) (cmpFn (fld f 31 28) (g.regs.getS (fld f 46 42)) (g.regs.getS (fld f 41 37))) })) ∧
      (Issuable s e f (.cmpi e f) → exec (.cmpi e f) s = .next (s.modEng e.val fun g => { g.past 8 with
        regs := g.regs.setP (fld f 51 49) (cmpFn (fld f 35 32) (g.regs.getS (fld f 46 42)) (imod (sext 32 (fld f 31 0)) (2 ^ 64))) })) ∧
      (Issuable s e f (.plog e f) → exec (.plog e f) s = .next (s.modEng e.val fun g => { g.past 8 with
        regs := g.regs.setP (fld f 51 49) (plogFn (fld f 40 39) (g.regs.getP (fld f 48 46) != bit f.toNat 45)
          (g.regs.getP (fld f 44 42) != bit f.toNat 41)) })) ∧
      (Issuable s e f (.adda e f) → exec (.adda e f) s = .next (s.modEng e.val fun g => { g.past 8 with
        regs := g.regs.setA (fld f 51 49) (g.regs.getA (fld f 48 46) + g.regs.getS (fld f 45 41) + imod (sext 32 (fld f 31 0)) (2 ^ 48)) })) ∧
      (Issuable s e f (.tset e f) → exec (.tset e f) s = .next (s.modEng e.val fun g => { g.past 8 with
        regs := g.regs.setT (fld f 51 48) (bits (g.regs.getS (fld f 46 42)) 59 0) })) ∧
      (Issuable s e f (.tget e f) → exec (.tget e f) s = .next (s.modEng e.val fun g => { g.past 8 with
        regs := g.regs.setS (fld f 51 47) (g.regs.getT (fld f 46 43)) })) ∧
      (Issuable s e f (.li64 e f w) → exec (.li64 e f w) s = .next (s.modEng e.val fun g => { g.past 16 with
        regs := g.regs.setS (fld f 51 47) w.toNat })) ∧
      (Issuable s e f (.flgclr e f) → exec (.flgclr e f) s = .next (s.modEng e.val fun g => { g.past 8 with
        flags := g.flags &&& ~~~(BitVec.ofNat 5 (fld f 4 0)) }))) ∧
    ∀ (e : EngId) (f : Fields) (s : State), Issuable s e f (.sget e f) →
      ∃ v, exec (.sget e f) s = .next (s.modEng e.val fun g => { g.past 8 with regs := g.regs.setS (fld f 51 47) v }) ∧
        (fld f 46 40 ≤ 7 → v = (s.eng e.val).regs.getA (fld f 46 40)) ∧
        (fld f 46 40 = 0x10 → v = (s.eng e.val).rank) ∧ (fld f 46 40 = 0x11 → v = (s.eng e.val).nset) ∧
        (fld f 46 40 = 0x12 → v = (s.eng e.val).ctx) ∧ (fld f 46 40 = 0x13 → v = e.val) ∧
        (fld f 46 40 = 0x14 → v = (s.eng e.val).cycles.toNat) ∧ (fld f 46 40 = 0x15 → v = (s.eng e.val).flags.toNat) ∧
        (fld f 46 40 = 0x16 → v = (s.eng e.val).mhz))

/-- Table 3-1, R50: s0 reads as zero and p0 as 1, and a write to either is discarded; a write of another register is read back and leaves the others alone;
bytes put at a tile address stand there modulo 6,291,456, and every byte outside them is unchanged. -/
def Obligations.RegistersAndTileBytes : Prop :=
  (∀ r : RegFile, r.getS 0 = 0 ∧ r.getP 0 = true ∧
    ∀ n v b m, (r.setS 0 v = r ∧ r.setP 0 b = r) ∧
      (n ≠ 0 → (r.setS n v).getS m = (if m = n then v % 2 ^ 64 else r.getS m) ∧ (r.setP n b).getP m = (if m = n then b else r.getP m)) ∧
      (r.setA n v).getA m = (if m = n then v % 2 ^ 48 else r.getA m) ∧ (r.setT n v).getT m = (if m = n then v % 2 ^ 64 else r.getT m)) ∧
  ∀ (g : Engine) (a : Nat) (bs : List Byte), bs.length ≤ 6291456 →
    tileBytes (putTile g a bs) a bs.length = bs ∧
    (∀ b, b < 6291456 → (∀ i, i < bs.length → b ≠ (a + i) % 6291456) → (putTile g a bs).tile.rd b = g.tile.rd b) ∧
    { putTile g a bs with tile := g.tile } = g

/-- R79, R164, R120, R212, R213: what the instructions do that move tile bytes to and from a register, a Bucking slot or the table store, with
their engine free. Each equation names the whole next state. A TBLLOAD aimed at the active bank writes nothing, is counted and traps (R120).
R133, R212: TLY reads a tally, sends a mark, or adds to a software tally modulo 2^32. -/
def Obligations.TileStoreAndTallyResults : Prop :=
  (
    ∀ (e : EngId) (f : Fields) (w : Word64) (s : State),
      let g := s.eng e.val
      let img := imod ((g.regs.tBase (fld f 46 43) : Int) + sext 32 (fld f 31 0)) tileSize
      let word := imod ((g.regs.tBase (fld f 46 43) : Int) + (g.regs.getS (fld f 42 38) : Int) + sext 32 (fld f 31 0)) tileSize / 8 * 8
      let line := imod ((g.regs.tBase (fld f 50 47) : Int) + sext 32 (fld2 w 31 0)) tileSize / 64 * 64
      (Issuable s e f (.lds e f) → exec (.lds e f) s = .next (s.setEng e.val { g.past 8 with
        regs := g.regs.setS (fld f 51 47) (leNat (tileBytes g word 8)) })) ∧
      (Issuable s e f (.sts e f) → exec (.sts e f) s = .next (s.setEng e.val
        (putTile (g.past 8) word (leBytes 8 (g.regs.getS (fld f 51 47)))))) ∧
      (Issuable s e f (.bload e f) → exec (.bload e f) s = .next (s.setEng e.val
        (modView { g.past 8 with slots := g.slots.wrN (256 * fld f 51 48) (tileBytes g img 256) } (fld f 51 48)
          fun v => { v with xflt := false, xlev := 0, xext := 0, xbnd := 0 }))) ∧
      (Issuable s e f (.bext e f) → exec (.bext e f) s = .next (s.setEng e.val { g.past 8 with
        slots := g.slots.wrN (256 * fld f 51 48 + 64 + 32 * fld f 47 45 + 3) (leBytes 3 (g.regs.getS (fld f 44 40))) })) ∧
      (Issuable s e f (.tblload e f w) → bit f.toNat 51 ≠ g.bank → exec (.tblload e f w) s = .next (s.setEng e.val { g.past 16 with
        store := g.store.wrN ((if bit f.toNat 51 then 4096 else 0) + 64 * fld f 46 41) (tileBytes g line (64 * (fld f 40 35 + 1))) })) ∧
      (Issuable s e f (.tblload e f w) → bit f.toNat 51 = g.bank → exec (.tblload e f w) s = .next
        (((s.setEng e.val (g.past 16)).count Off.tlyTblBusy 31 0 1).raiseTrap e.val 6 g.pc (256 + (if g.bank then 1 else 0)))) ∧
      (Issuable s e f (.tblswap e f) → exec (.tblswap e f) s = .next (s.setEng e.val { g.past 8 with bank := !g.bank }))) ∧
  (
    ∀ (e : EngId) (f : Fields) (s : State),
      let g := s.eng e.val
      let old := SMap.get (fun _ => 0) g.tallies (fld f 43 36)
      (Issuable s e f (.tlyRead e f) → (Instr.tlyRead e f).wf = true → exec (.tlyRead e f) s = .next (s.setEng e.val { g.past 8 with
        regs := g.regs.setS (fld f 48 44) old })) ∧
      (Issuable s e f (.tlyMark e f) → (Instr.tlyMark e f).wf = true → exec (.tlyMark e f) s = .next
        { s.setEng e.val (g.past 8) with sched := { s.sched with marks := s.sched.marks ++ [(g.ctx, fld f 43 36, fld f 31 0)] } }) ∧
      (Issuable s e f (.tlyAdd e f) → (Instr.tlyAdd e f).wf = true → exec (.tlyAdd e f) s = .next (s.setEng e.val { g.past 8 with
        tallies := SMap.set (fun _ => 0) g.tallies (fld f 43 36) ((old + fld f 31 0) % 2 ^ 32) })))

/-- R81: the branches, at the address of the branch.
R82, R96: DONE ends issue on the engine; PREEMPT is passed when nothing is pending, and otherwise stops issue with the words of its point; the engine
reports the stop when everything it issued has ended. -/
def Obligations.BranchDoneAndPreempt : Prop :=
  (
    ∀ (e : EngId) (f : Fields) (s : State),
      let g := s.eng e.val
      let target := imod ((g.pc : Int) + 8 * sext 24 (fld f 23 0)) 6291456
      let left := (g.regs.getS (fld f 46 42) + (2 ^ 64 - 1)) % 2 ^ 64
      (Issuable s e f (.br e f) → exec (.br e f) s = .next (s.setEng e.val { g with pc := target })) ∧
      (Issuable s e f (.jal e f) → exec (.jal e f) s = .next (s.setEng e.val { g with
        pc := target, regs := g.regs.setS (fld f 51 47) ((g.pc + 8) % 6291456) })) ∧
      (Issuable s e f (.jr e f) → exec (.jr e f) s = .next (s.setEng e.val { g with
        pc := g.regs.getS (fld f 46 42) % 6291456 / 8 * 8 })) ∧
      (Issuable s e f (.loop e f) → exec (.loop e f) s = .next (s.setEng e.val { g with
        pc := if left = 0 then (g.pc + 8) % 6291456 else target, regs := g.regs.setS (fld f 46 42) left }))) ∧
  (
    ∀ (e : EngId) (f : Fields) (w : Word64) (s : State),
      let g := s.eng e.val
      (Issuable s e f (.done e f) → exec (.done e f) s = .next (s.setEng e.val { g.past 8 with issue := .done })) ∧
      (Issuable s e f (.preempt e f w) → (s.ctx g.ctx).preempt = false → g.pageAbsent = false →
        exec (.preempt e f w) s = .next (s.setEng e.val (g.past 16))) ∧
      (Issuable s e f (.preempt e f w) → (s.ctx g.ctx).preempt = true ∨ g.pageAbsent = true →
        exec (.preempt e f w) s = .next (s.setEng e.val { g.past 16 with issue := .stopping f w })) ∧
      (g.issue = .stopping f w → g.quiet = true → exec (.preemptStop e) s = .next (s.setEng e.val { g with issue := .stopped f w })) ∧
      (g.issue = .stopping f w → g.quiet = false → exec (.preemptStop e) s = .next s) ∧
      ((∀ f' w', g.issue ≠ .stopping f' w') → exec (.preemptStop e) s = .next s))

/-- R61, R88, R89: SIG adds VAL to its semaphore, which holds at 0xFFFF and then sets SEM_SAT; a WAIT that its semaphore satisfies subtracts
VAL, and one that it does not satisfy stays at the head of its queue and changes nothing else. A SIG of the tensor queue behind rows of the array, and a WAIT of that
queue behind it, settle those rows for the DRAINs that follow (R114); that they do so whichever semaphores they name is the model's choice (log entry 141). -/
def Obligations.SemaphoreResults : Prop :=
  ∀ (e : EngId) (q : Fin 4) (f : Fields) (s : State),
    let g := s.eng e.val
    let n := fld f 51 47
    let v := fld f 15 0
    (Issuable s e f (.sig e q f) → exec (.sig e q f) s = .next (s.setEng e.val
      (noteSig (if g.sem n + v ≤ 0xFFFF then (g.past 8).setSem n (g.sem n + v) else { (g.past 8).setSem n 0xFFFF with semSat := true }) q.val))) ∧
    (Issuable s e f (.wait e q f) → v ≤ g.sem n → exec (.wait e q f) s = .next (s.setEng e.val (noteWait ((g.past 8).setSem n (g.sem n - v)) q.val v))) ∧
    (Issuable s e f (.wait e q f) → g.sem n < v → exec (.wait e q f) s = .next (s.setEng e.val
      { g.past 8 with queues := [(q.val, [⟨.wait e q f, g.pc, g.regs, true, false, 0, 0, 0⟩])] }))

/-! ## Issue, guards and traps -/

/-- R59, R60, R73, R82, R96, R102: an engine that is not in service, unbound, halted, past a DONE, stopped at a point or stopped by a trap issues nothing; an
instruction whose queue is full stays unissued; one whose guard is 0 retires without any effect but ENG_PC's move. -/
def Obligations.IssueHoldsAndGuards : Prop :=
  (∀ (e : EngId) (f : Fields) (i : Instr) (s : State), wordOf i = some (e, f) → issues (s.eng e.val) = false → exec i s = .next s) ∧
  (∀ (e : EngId) (f : Fields) (i : Instr) (q : Nat) (s : State), wordOf i = some (e, f) → issues (s.eng e.val) = true → legal i = true →
    queueOf i = some q → queueDepth q ≤ (s.eng e.val).places q → exec i s = .next s) ∧
  ∀ (e : EngId) (f : Fields) (i : Instr) (s : State), wordOf i = some (e, f) → Free s e i → guardTrue f (s.eng e.val).regs = false →
    exec i s = .next (s.setEng e.val ((s.eng e.val).past (issueBytes false i)))

/-- R84, R87: an instruction of a queue that finds its engine free runs once, when it issues, on the register values of that moment. -/
def Obligations.QueueInstructionRunsOnce : Prop :=
  ∀ (e : EngId) (f : Fields) (i : Instr) (s : State), wordOf i = some (e, f) → (queueOf i).isSome = true → Issuable s e f i →
    followerLegal e i = true → runsAtOnce (s.eng e.val) i = true →
    exec i s = .next (runInstr e.val (entryOf (s.eng e.val) i) (s.setEng e.val ((s.eng e.val).past (issueBytes true i))))

/-- R65, R74, R101, R102: an illegal encoding raises its trap whatever the guard and whatever errors its words hold, before anything else, with ENG_PC at its
address. What raising a trap
leaves: ENG_FAULT takes the context and the code where VALID was 0, a record takes the next sequence number, and a stopping trap discards what waits in the
queues of the engine and begins the teardown of its context. -/
def Obligations.TrapsStopEngines : Prop :=
  (∀ (e : EngId) (f : Fields) (i : Instr) (s : State), wordOf i = some (e, f) → issues (s.eng e.val) = true → legal i = false →
    (s.eng e.val).pc < tileSize →
    exec i s = .next ((s.setEng e.val (s.eng e.val)).raiseTrap e.val 1 (s.eng e.val).pc 0)) ∧
  ∀ (e code info aux : Nat) (s : State),
    let g := s.eng e
    let t := s.raiseTrap e code info aux
    (t.eng e).faultValid = true ∧ (t.eng e).faultCode = (if g.faultValid then g.faultCode else code) ∧
    (t.eng e).faultCtx = (if g.faultValid then g.faultCtx else g.ctx) ∧ t.errSeq = (s.errSeq + 1) % 2 ^ 32 ∧ t.mem = s.mem ∧
    (code ≠ 5 → (t.eng e).issue = .faulted ∧ (t.eng e).queues = [] ∧ (t.eng e).deferred = []) ∧
    (code = 5 → (t.eng e).issue = g.issue ∧ (t.eng e).queues = g.queues) ∧
    (t.eng e).tile = g.tile ∧ (t.eng e).regs = g.regs ∧ (t.eng e).acc = g.acc

/-! ## Vector, special-function and tensor instructions -/

/-- R117, Table 4-8, R204: each lane operation, row by row in ascending order, on an engine whose memories hold no error. Each equation names
the whole next state. -/
def Obligations.VectorLaneResults : Prop :=
  ∀ (e : EngId) (f : Fields) (w : Word64) (s : State),
    let g := s.eng e.val
    let two (op : Xr → Xr → Xr × Flags) : Engine := laneRows f g.regs .absent (fun x y _ => op x y) (g.past 8)
    (Issuable s e f (.vadd e f) → exec (.vadd e f) s = .next (s.setEng e.val (two add32))) ∧
    (Issuable s e f (.vsub e f) → exec (.vsub e f) s = .next (s.setEng e.val (two sub32))) ∧
    (Issuable s e f (.vmul e f) → exec (.vmul e f) s = .next (s.setEng e.val (two mul32))) ∧
    (Issuable s e f (.vmin e f) → exec (.vmin e f) s = .next (s.setEng e.val (two opMin))) ∧
    (Issuable s e f (.vmax e f) → exec (.vmax e f) s = .next (s.setEng e.val (two opMax))) ∧
    (Issuable s e f (.vmov e f) → exec (.vmov e f) s = .next (s.setEng e.val (two opMov))) ∧
    (Issuable s e f (.vabs e f) → exec (.vabs e f) s = .next (s.setEng e.val (two opAbs))) ∧
    (Issuable s e f (.vneg e f) → exec (.vneg e f) s = .next (s.setEng e.val (two opNeg))) ∧
    (Issuable s e f (.vclamp e f) → exec (.vclamp e f) s = .next (s.setEng e.val (two opClamp))) ∧
    (Issuable s e f (.vtanh e f) → exec (.vtanh e f) s = .next (s.setEng e.val (two opTanh))) ∧
    (Issuable s e f (.vlogi e f) → exec (.vlogi e f) s = .next (s.setEng e.val (two opLogi))) ∧
    (Issuable s e f (.vfma e f w) → exec (.vfma e f w) s = .next (s.setEng e.val
      (laneRows f g.regs (if bit w.toNat 59 then .acc (fld2 w 61 60) else .region (fld2 w 63 60)) fma32 (g.past 16))))

/-- R209, R219, Table 4-8: STEPRUN runs the micro-program of the active bank on every lane of each row; SMAX writes each normalised row. Each equation
names the whole next state. DRAIN, CVT, VFUSE, VROT and RSTAT complete with ENG_PC past their words and leave tile memory, accumulator memory and flags as their rows make them in
ascending order, each row reading what the rows before it left, so that a source that overlaps the destination is read as written (R113, R115, R116, R214, R216,
R217, R232, R233). A DRAIN reads each accumulator row as it stands or, where no WAIT.T has settled it, as an MMA found it (R49, R114). DRAIN and CVT send one feed to
their monitor (R155). That the product of the two global scales is rounded first (log entry 20), and what a DRAIN reads of rows that no WAIT.T has settled (log entry
141), are the model's. Registers, slots, semaphores, table store and queues of their engine, every other engine, the contexts, memory and the page tables
stay. -/
def Obligations.RowInstructionResults : Prop :=
  ∀ (e : EngId) (f : Fields) (w : Word64) (s : State),
    let g := s.eng e.val
    let p := g.regs.getS (fld2 w 54 50)
    (Issuable s e f (.steprun e f w) → exec (.steprun e f w) s = .next (s.setEng e.val (laneRows f g.regs .absent
      (fun x y _ => microProgram (activeBank g) (fld2 w 63 55) x y (f32 (bits p 31 0)) (f32 (bits p 63 32))) (g.past 16)))) ∧
    (Issuable s e f (.smax e f w) → exec (.smax e f w) s = .next (s.setEng e.val
      ((List.range (fld f 30 23 + 1)).foldl (mapRow f g.regs (fld2 w 61 49 + 1) (softMax (f32 (fld2 w 31 0)))) (g.past 16)))) ∧
    ∀ i ∈ [Instr.drain e f w, .cvt e f w, .vfuse e f w, .vrot e f w, .rstat e f w], Issuable s e f i →
      ∃ t, exec i s = .next t ∧ t.mem = s.mem ∧ t.kv = s.kv ∧ t.ctxs = s.ctxs ∧ (∀ n, n ≠ e.val → t.eng n = s.eng n) ∧
        (t.eng e.val).pc = (g.pc + 16) % tileSize ∧ (t.eng e.val).regs = g.regs ∧ (t.eng e.val).slots = g.slots ∧ (t.eng e.val).sems = g.sems ∧
        (t.eng e.val).store = g.store ∧ (t.eng e.val).queues = [] ∧ (t.eng e.val).issue = .going ∧
        let leaves (h : Engine) : Prop := (t.eng e.val).tile = h.tile ∧ (t.eng e.val).acc = h.acc ∧ (t.eng e.val).flags = h.flags
        let feeds (rows : Nat) (sm : Sums) : Prop := t.sched = (if fld2 w 63 56 = 0 then s.sched else
          { s.sched with feeds := s.sched.feeds ++ [⟨fld2 w 63 56, g.ctx, 256 * rows, sm.sr, sm.sx, e.val, false⟩] })
        let from' (fl : Flags) : Engine × Sums := ({ g.past 16 with flags := g.flags ||| fl }, {})
        let prod := mul32 (f32 (bits (g.regs.getS (fld f 18 14)) 31 0)) (f32 (bits (g.regs.getS (fld f 18 14)) 63 32))
        (i = .drain e f w → ∃ pick : Nat → List Nat,
          (∀ k, pick k = accRow g (fld f 49 48) k ∨ pick k ∈ lateRows g (fld f 49 48) k) ∧
          let x := (List.range (fld f 30 23 + 1)).foldl (drainRow f w g.regs prod.1 pick) (from' (prod.2 ||| (drainDest f g.regs).2))
          leaves x.1 ∧ feeds (fld f 30 23 + 1) x.2) ∧
        (i = .cvt e f w →
          let x := (List.range (fld f 16 9 + 1)).foldl (cvtRow f w g.regs) (from' (cvtDest f w g.regs).2)
          leaves x.1 ∧ feeds (fld f 16 9 + 1) x.2) ∧
        (i = .vfuse e f w → leaves ((List.range (fld f 30 23 + 1)).foldl
          (fun h k => mapRow f g.regs 256 (fusedVals h (fld2 w 58 51)) h k) (g.past 16))) ∧
        (i = .vrot e f w → leaves ((List.range (fld f 30 23 + 1)).foldl (rotRow f w g.regs (rotDescOf g g.regs w)) (g.past 16))) ∧
        (i = .rstat e f w → leaves ((List.range (fld f 30 23 + 1)).foldl (rstatRow f w g.regs) (g.past 16)))

/-- R42, R107 to R109: an MMA load leaves the loaded tile in the shadow copy alone; an MMA compute without a nest swaps a loaded shadow in and folds
its streamed rows into accumulator rows of one tile, each counted in the tallies of R133 once it has completed. -/
def Obligations.MmaResults : Prop :=
  ∀ (e : EngId) (f : Fields) (w : Word64) (s : State),
    let g := s.eng e.val
    let cur : Engine := match g.shadow with
      | some st => { g.past 16 with active := st, shadow := none }
      | none => g.past 16
    let m := fld f 34 27 + 1
    (Issuable s e f (.mmaLoad e f w) → (Instr.mmaLoad e f w).wf = true → g.shadow = none →
      ∃ st, exec (.mmaLoad e f w) s = .next (s.setEng e.val { g.past 16 with shadow := some st }) ∧
        st.fs = fld2 w 63 60 ∧ st.fm = fld2 w 59 56 ∧ st.kb = fld2 w 37 32 + 1 ∧
        ∀ k i, k < 16 * st.kb → i < rowBytes (fmtOf st.fs) 256 →
          st.rows.rd (512 * k + i) = g.tile.rd ((rowAddr g.regs (fld f 47 44) (g.regs.getS (fld f 39 35) + k) + i) % tileSize)) ∧
    (Issuable s e f (.mmaCompute e f w) → (Instr.mmaCompute e f w).wf = true → bit f.toNat 26 = false →
      exec (.mmaCompute e f w) s = .next ((List.range m).foldl (fun t i =>
        ((t.setEng e.val (mmaRow f g.regs (t.eng e.val) i)).tally e.val 0 (if cur.active.fs = 1 ∨ cur.active.fm = 1 then 4 else 1)).tally e.val 1 1)
        (s.setEng e.val cur)))

/-- R130 to R132: WGPUSH appends its instruction to the deferred queue with the guard and registers of its issue, whatever the queue holds already; one
that finds 256 entries brings the head entry to queue 2 first, counted in WG_FORCED. WGDRAIN brings the first N entries that are present to queue 2 in push
order, all of them where N is 0; they run from there before it, and it keeps its place, with nothing more to do. -/
def Obligations.DeferredQueueResults : Prop :=
  ∀ (e : EngId) (f : Fields) (w n1 n2 : Word64) (s : State),
    let g := s.eng e.val
    let i := Instr.wgpush e f w n1 n2
    let x : QEntry := ⟨wgInstr e n1 n2, (g.pc + 16) % tileSize, g.regs, guardTrue (fieldsOf n1) g.regs, true,
      fld f 51 47, fld f 46 43, fld2 w 63 48⟩
    let h := s.setEng e.val ((g.past 32).setQueue 2 [entryOf g i])
    let n := if fld f 51 43 = 0 then g.deferred.length else fld f 51 43
    let dead (y : QEntry) : QEntry := { y with live := false }
    (issues g = true → guardTrue f g.regs = true → g.queues = [] → g.tileErr = [] →
      (legal i = true → followerLegal e i = true →
        (g.deferred.length < 256 → exec i s = .next (s.setEng e.val { g.past 32 with deferred := g.deferred ++ [x] })) ∧
        (256 ≤ g.deferred.length → exec i s = .next (drainFuel 1023 e.val (forceHead h e.val)))) ∧
      (legal (.wgdrain e f) = true → exec (.wgdrain e f) s = .next (drainFuel 1023 e.val (s.setEng e.val
        { (g.past 8).setQueue 2 (g.deferred.take n ++ [dead (entryOf g (.wgdrain e f))]) with deferred := g.deferred.drop n })))) ∧
    (g.deferred = [] → issues g = true → guardTrue f g.regs = true → g.queues = [] → g.tileErr = [] → legal (.wgdrain e f) = true →
      exec (.wgdrain e f) s = .next (s.setEng e.val (g.past 8))) ∧
    (∀ y, ((effWgdrain e.val y f s).eng e.val).queue 2 = g.deferred.take n ++ dead y :: g.queue 2 ∧
      ((effWgdrain e.val y f s).eng e.val).deferred = g.deferred.drop n) ∧
    ((forceHead s e.val).eng e.val).queue 2 = g.deferred.take 1 ++ g.queue 2 ∧ ((forceHead s e.val).eng e.val).deferred = g.deferred.drop 1

/-! ## Transfers -/

/-- R56, R90, R122, R127 to R129: which Skidder queue each transfer instruction enters, and that it enters it at issue as a descriptor holding the
registers of that moment, changing nothing else but ENG_PC. -/
def Obligations.TransfersEnterTheirQueue : Prop :=
  (∀ (e : EngId) (f : Fields) (w : Word64),
    skTarget (.fill e f w) = some true ∧ skTarget (.atom e f w) = some true ∧ skTarget (.winfill e f w) = some true ∧
    skTarget (.kvwalk e f w) = some true ∧ skTarget (.spill e f w) = some false ∧ skTarget (.copy e f w) = some false ∧
    skTarget (.pref e f w) = some false ∧ skTarget (.addw e f w) = some false ∧ skTarget (.kvmap e f w) = some false ∧
    skTarget (.rsig e f) = some false ∧ skTarget (.xch e f w) = some false ∧ skTarget (.xredAllReduce e f w) = some false ∧
    skTarget (.xredReduceScatter e f w) = some false ∧ skTarget (.xgather e f w) = some false) ∧
  ∀ (e : EngId) (f : Fields) (i : Instr) (fill : Bool) (s : State), wordOf i = some (e, f) → skTarget i = some fill → Issuable s e f i →
    Engine.occupancy (skQueue (s.eng e.val) fill) < 32 →
    exec i s = .next { s.setEng e.val (setSkQueue ((s.eng e.val).past (issueBytes true i)) fill (skQueue (s.eng e.val) fill ++
      [{ instr := i, pc := (s.eng e.val).pc, regs := (s.eng e.val).regs, id := s.nextId }])) with nextId := s.nextId + 1 }

/-- R56, R122, R123: the next descriptor of a queue starts: a transfer of length 0 completes at once, a misaligned one ends with the memory fault, and
a local one then runs, nothing moved yet; a remote FILL, SPILL, ADDW or ATOM of at most 4,096 bytes on a device with no request out sends its one message (R342),
with the bytes of its tile range. That a length of 0 completes at the start (log entry 30), and that a transfer moves nothing before it ends (log entry 28), are the
model's. -/
def Obligations.TransferStarts : Prop :=
  ∀ (e : EngId) (fill : Bool) (x : SkEntry) (t : Transfer) (s : State),
    nextWaiting (s.eng e.val) fill = some x → transferOf x.instr x.regs = some t → (∀ e' f w, x.instr ≠ .winfill e' f w) →
    (t.len = 0 → exec (.skidderDescriptorStart e fill) s = .next (drain (completeEntry s e.val fill x.id) e.val)) ∧
    (t.len ≠ 0 → aligned t = false → exec (.skidderDescriptorStart e fill) s = .next (drain (failEntry s e.val fill x 3) e.val)) ∧
    (t.len ≠ 0 → aligned t = true → t.remote = false → ∃ u, exec (.skidderDescriptorStart e fill) s = .next u ∧ u.mem = s.mem ∧
      u.engines = (s.modEng e.val fun g => setSkQueue g fill ((skQueue g fill).map fun y =>
        if y.id = x.id then { y with stage := .started, tracker := takesTracker s e.val x.instr t } else y)).engines) ∧
    ∀ op e' f w, (op = 1 ∧ x.instr = .fill e' f w) ∨ (op = 3 ∧ x.instr = .spill e' f w) ∨ (op = 5 ∧ x.instr = .addw e' f w) ∨ (op = 6 ∧ x.instr = .atom e' f w) →
      t.len ≠ 0 → aligned t = true → t.remote = true → t.len ≤ 4096 → s.fabric.reqs = [] → (s.eng e.val).tileErr = [] →
      ∃ u m, exec (.skidderDescriptorStart e fill) s = .next u ∧ u.mem = s.mem ∧ u.fabric.routing = s.fabric.routing ++ [{ msg := m }] ∧
        m.op = op ∧ m.rq = e.val ∧ m.dst = t.dev ∧ m.addr = t.addr ∧ m.len = t.len ∧ m.dl = skDl w ∧ m.pri = skPri w ∧
        m.data = (if op = 1 then [] else tileBytes (s.eng e.val) t.tile t.len) ∧ (u.eng e.val).regs = (s.eng e.val).regs

/-- R58, R122, R124, R125, R187: a local transfer that runs alone moves its bytes, before it adds its increment to its semaphore and leaves its queue. A FILL puts
the bytes read into tile memory, a SPILL writes the bytes of tile memory, a COPY writes the bytes read to its destination, an ADDW applies its elements in order, an
ATOM writes back the old value, and a WINFILL without a nest builds its rows: with one row of one block, the bytes of its source or zeros for padding.
A remote one that runs alone waits while a request is out, ends with the memory fault where one failed, and else completes, a FILL or an ATOM with the bytes
returned (R342, R359).
R90, R91: the RSIG at the head of a spill queue is added at the engine of its rank, be it its own, and one whose rank is not below NSET ends with the memory
fault of its sender. -/
def Obligations.TransfersMoveBytesAndSignal : Prop :=
  (
    ∀ (e : EngId) (x : SkEntry) (t : Transfer) (s : State), x.stage = .started → transferOf x.instr x.regs = some t → t.remote = false →
      x.quiet = false → t.len ≤ 6291456 → (s.eng e.val).tileErr = [] → (s.eng e.val).queues = [] → (s.eng e.val).deferred = [] →
      let g := s.eng e.val
      let sg := skSignal x.instr
      (∀ e' f w s1 bs, x.instr = .fill e' f w → g.fillQ = [x] →
        memReadVia s (.skidder e.val) (engDie s e.val) t.lpol t.addr t.len = (s1, .ok, bs) →
        ∃ u, exec (.skidderTransferComplete e true 0) s = .next u ∧ tileBytes (u.eng e.val) t.tile t.len = bs ∧ u.mem = s1.mem ∧
          (u.eng e.val).fillQ = [] ∧ (u.eng e.val).sem sg.1 = min (g.sem sg.1 + sg.2) 0xFFFF ∧ (u.eng e.val).regs = g.regs) ∧
      (∀ e' f w s1, x.instr = .spill e' f w → g.spillQ = [x] →
        memWrite (s.tally e.val 4 (portBytes t.addr t.len)) (.skidder e.val) t.addr (tileBytes g t.tile t.len) = (s1, .ok) →
        ∃ u, exec (.skidderTransferComplete e false 0) s = .next u ∧ u.mem = s1.mem ∧ (u.eng e.val).spillQ = [] ∧
          (u.eng e.val).sem sg.1 = min (g.sem sg.1 + sg.2) 0xFFFF ∧ (u.eng e.val).regs = g.regs) ∧
      (∀ e' f w s1 bs s2, x.instr = .copy e' f w → g.spillQ = [x] →
        memReadVia s (.skidder e.val) (engDie s e.val) t.lpol t.addr t.len = (s1, .ok, bs) →
        memWrite ((s1.tally e.val 3 (portBytes t.addr t.len)).tally e.val 4 (portBytes t.dest t.len)) (.skidder e.val) t.dest bs = (s2, .ok) →
        ∃ u, exec (.skidderTransferComplete e false 0) s = .next u ∧ u.mem = s2.mem ∧ (u.eng e.val).spillQ = [] ∧
          (u.eng e.val).sem sg.1 = min (g.sem sg.1 + sg.2) 0xFFFF ∧ (u.eng e.val).regs = g.regs) ∧
      (∀ e' f w, x.instr = .addw e' f w → g.spillQ = [x] → allHbm s t.addr t.len = true →
        ∃ u, exec (.skidderTransferComplete e false 0) s = .next u ∧ (u.eng e.val).spillQ = [] ∧
          u.mem = (addElements (s.tally e.val 4 t.len) (fld f 17 14) (fld f 13 12) t.addr (t.len / t.unit) (tileBytes g t.tile t.len)).mem ∧
          (u.eng e.val).sem sg.1 = min (g.sem sg.1 + sg.2) 0xFFFF ∧ (u.eng e.val).regs = g.regs) ∧
      (∀ e' f w s1 old, x.instr = .atom e' f w → g.fillQ = [x] →
        adderOp (s.tally e.val 4 t.len) 0 t.addr (fld f 17 14) (fld f 13 12) (leNat (tileBytes g t.tile t.len)) = (s1, .ok, old) →
        ∃ u, exec (.skidderTransferComplete e true 0) s = .next u ∧ tileBytes (u.eng e.val) t.tile t.len = leBytes t.len old ∧ u.mem = s1.mem ∧
          (u.eng e.val).fillQ = [] ∧ (u.eng e.val).sem sg.1 = min (g.sem sg.1 + sg.2) 0xFFFF ∧ (u.eng e.val).regs = g.regs) ∧
      (∀ e' f w, x.instr = .winfill e' f w → g.fillQ = [x] →
        let d := winDesc x.held
        let base := x.regs.getA (fld f 51 49)
        let so := sext 64 (x.regs.getS (fld f 48 44))
        let ends (p : State → Prop) : Prop := ∃ u, exec (.skidderTransferComplete e true 0) s = .next u ∧ p u ∧ (u.eng e.val).fillQ = [] ∧
          (u.eng e.val).sem sg.1 = min (g.sem sg.1 + sg.2) 0xFFFF ∧ (u.eng e.val).regs = g.regs
        d.buck = false →
          (∀ s1, winFill e.val (skLpol w) base so d (0, 0, 0) d.np s = (s1, .done) →
            ends fun u => (u.eng e.val).tile = (s1.eng e.val).tile ∧ u.mem = s1.mem) ∧
          (d.lay = false → d.scaled = false → d.np = 1 → d.kl = 1 →
            let src := winSource d so (16 * (d.koff : Int) / d.cg) (d.cbase + 16 * (d.koff : Int) % d.cg)
            let lands (u : State) (bs : List Byte) : Prop := tileBytes (u.eng e.val) (imod d.dbase tileSize) bs.length = bs
            (src = none → ends fun u => lands u (List.replicate d.blockBytes 0#8) ∧ u.mem = s.mem) ∧
            ∀ y s1 bs, src = some y → winRead s e.val (skLpol w) base y d.blockBytes = (s1, .ok, bs) → ends fun u => lands u bs ∧ u.mem = s1.mem))) ∧
  (
    ∀ (e : EngId) (fill : Bool) (x : SkEntry) (t : Transfer) (s : State), x.stage = .started → transferOf x.instr x.regs = some t → t.remote = true →
      x.quiet = false → t.len ≤ 6291456 → (s.eng e.val).tileErr = [] → (s.eng e.val).queues = [] → (s.eng e.val).deferred = [] →
      skTarget x.instr = some fill → skQueue (s.eng e.val) fill = [x] →
      let g := s.eng e.val
      let sg := skSignal x.instr
      let qs := reqsOf s e.val x.id
      ((∃ q ∈ qs, q.status = 0) → exec (.skidderTransferComplete e fill 0) s = .next s) ∧
      ((∀ q ∈ qs, q.status ≠ 0) → (∃ q ∈ qs, q.status = 2) → exec (.skidderTransferComplete e fill 0) s =
        .next (drain (failEntry (freeTracker (dropReqs s e.val x.id) e.val x) e.val fill x 3) e.val)) ∧
      ((∀ q ∈ qs, q.status ≠ 0 ∧ q.status ≠ 2) → (fill = true → (replyBytes qs).length = t.len) →
        ∃ u, exec (.skidderTransferComplete e fill 0) s = .next u ∧ u.mem = s.mem ∧ skQueue (u.eng e.val) fill = [] ∧ reqsOf u e.val x.id = [] ∧
          (fill = true → tileBytes (u.eng e.val) t.tile t.len = replyBytes qs) ∧ (fill = false → (u.eng e.val).tile = g.tile) ∧
          (u.eng e.val).sem sg.1 = min (g.sem sg.1 + sg.2) 0xFFFF ∧ (u.eng e.val).regs = g.regs)) ∧
  (
    ∀ (e e' : EngId) (f : Fields) (n : Nat) (x : SkEntry) (s : State), x.instr = .rsig e' f → x.stage = .waiting → x.quiet = false →
      (s.eng e.val).spillQ = [x] →
      (fld f 46 40 < (s.eng e.val).nset → engineOfRank s (s.eng e.val).ctx (fld f 46 40) = some n → n ≠ e.val →
        (s.eng e.val).queues = [] → (s.eng e.val).deferred = [] → (s.eng n).queues = [] → (s.eng n).deferred = [] →
        ∃ u, exec (.rsigDelivery e) s = .next u ∧ u.eng n = (s.eng n).semAdd (fld f 51 47) (fld f 15 0) ∧ (u.eng e.val).spillQ = [] ∧
          u.mem = s.mem ∧ u.regs = s.regs) ∧
      (fld f 46 40 < (s.eng e.val).nset → engineOfRank s (s.eng e.val).ctx (fld f 46 40) = some e.val →
        (s.eng e.val).queues = [] → (s.eng e.val).deferred = [] →
        ∃ u, exec (.rsigDelivery e) s = .next u ∧ (u.eng e.val).sem (fld f 51 47) = min ((s.eng e.val).sem (fld f 51 47) + fld f 15 0) 0xFFFF ∧
          (u.eng e.val).spillQ = [] ∧ u.mem = s.mem ∧ u.regs = s.regs) ∧
      ((s.eng e.val).nset ≤ fld f 46 40 → exec (.rsigDelivery e) s = .next (drain (failEntry s e.val false x 3) e.val)))

/-! ## Memory -/

/-- R28, R30, R33, Table 1-7: a write through the device address space changes the bytes of the places it names and no other byte, of HBM, the Landing, tile
memory or the host; a write that ends without error leaves every byte where it was sent, where the places are distinct; an address that no valid map entry
covers, outside the regions, or that its requester does not reach is a hole: nothing is read and nothing is written. That a write whose places include a hole
writes none of its other bytes is the model's choice (log entry 29). -/
def Obligations.StoresAndHoles : Prop :=
  (∀ (r : Requester) (a : Nat) (bs : List Byte) (p : Place) (s : State), p ∉ places s a bs.length →
    placeByte (memWrite s r a bs).1 p = placeByte s p) ∧
  (∀ (r : Requester) (a i : Nat) (bs : List Byte) (s t : State), memWrite s r a bs = (t, .ok) → (places s a bs.length).Nodup →
    (h : i < bs.length) → placeByte t (place s (a + i)) = bs[i]) ∧
  ∀ (r : Requester) (a n : Nat) (bs : List Byte) (s : State),
    ((places s a n).any (fun p => !reaches r p) = true → memRead s r a n = (s, .hole, [])) ∧
    ((places s a bs.length).any (fun p => !reaches r p) = true → memWrite s r a bs = (s, .hole))

/-- R248: on one entry, distinct device addresses of its range reach distinct bytes of the stacks, each within the stacks of its mode; within a stack, distinct
lines stand at distinct places of its 32 channels. -/
def Obligations.InterleaveIsInjective : Prop :=
  (∀ x y : Nat, (channelPlace x).1 = x / 64 ∧ (channelPlace x).2.1 < 32 ∧ ((channelPlace x).2 = (channelPlace y).2 → x / 64 = y / 64)) ∧
  ∀ w0 w1 a b k : Nat, bits w0 62 61 ≤ 2 → bits w1 31 16 + bits w1 15 0 ≤ 36864 → mapPlace w0 w1 a = some k →
    (mapPlace w0 w1 b = some k → a = b) ∧
    (if bits w0 62 61 = 2 then 6 else 0) * stackSize ≤ k ∧ k < ((if bits w0 62 61 = 2 then 6 else 0) + mapStacks (bits w0 62 61)) * stackSize

/-- R246, R259, R260, R262: the accesses of a line at its controller while HBM is up. A read leaves the line's bytes and its poison mark as the
answer; a write of bytes within a line is the write of its device address; an add-write and an atomic are one adder operation, the atomic with
the old value as the answer. The integer element operations are those of
Table 10-3. -/
def Obligations.LineAccessResults : Prop :=
  (∀ (a : DevAddr) (aty : Fin 4) (aop : Fin 3) (v : Word64) (bs : List Byte) (s : State), memDown s = false →
    (∀ t bytes, memRead s .sched (a.toNat / 64 * 64) 64 = (t, .ok, bytes) →
      exec (.hbmRead a) s = .next { t with host := { t.host with readBytes := bytes, readPoison := false } }) ∧
    ((hbmPlace s a.toNat).isSome = true → (Instr.hbmWrite a bs).wf = true → exec (.hbmWrite a bs) s = .next (memWrite s .sched a.toNat bs).1) ∧
    (a.toNat % elemSize aty.val = 0 → exec (.hbmAddWrite a aty aop v) s = .next (adderOp s 3 a.toNat aty.val aop.val v.toNat).1) ∧
    (∀ t old, a.toNat % elemSize aty.val = 0 → adderOp s 1 a.toNat aty.val aop.val v.toNat = (t, .ok, old) →
      exec (.hbmAtomic a aty aop v) s = .next { t with host := { t.host with readData := BitVec.ofNat 64 old } })) ∧
  (∀ x y : BitVec 32, adder 2 0 x.toNat y.toNat = ((x + y).toNat, false) ∧
    adder 2 1 x.toNat y.toNat = ((if x.sle y then x else y).toNat, false) ∧ adder 2 2 x.toNat y.toNat = ((if x.sle y then y else x).toNat, false)) ∧
  ∀ x y : BitVec 64, adder 3 0 x.toNat y.toNat = ((x + y).toNat, false) ∧
    adder 3 1 x.toNat y.toNat = ((if x.sle y then x else y).toNat, false) ∧ adder 3 2 x.toNat y.toNat = ((if x.sle y then y else x).toNat, false)

/-- R249, R250: an accepted write of a map entry changes the entry and sets MEM_MAPSTAT.BUSY, and until the copies are updated a request is translated by
the old or by the new entry; one that would leave a bad valid entry, or sets MODE 0b11, is refused with REJ and the entry's number, and the entry stays;
MAP_COPIES_UPDATED clears BUSY, and every request is then translated by what the entries hold. -/
def Obligations.MapEntryWrites : Prop :=
  ∀ (n : Fin 64) (second : Bool) (acc : Acc) (v : Word64) (s : State), s.writable (Off.map0 n.val) = true →
    let w0 := if second then s.reg64 (Off.map0 n.val) else mapMask false (accMerge (s.reg64 (Off.map0 n.val)) acc v.toNat)
    let w1 := if second then mapMask true (accMerge (s.reg64 (Off.map1 n.val)) acc v.toNat) else s.reg64 (Off.map1 n.val)
    let bad := (second = false ∧ bits w0 62 61 = 3) ∨ (bit w0 63 = true ∧ mapEntryGood w0 w1 = false)
    (bad → ∃ t, exec (.memMapWrite n second acc v) s = .next t ∧ t.fld Off.mapStat 31 31 = 1 ∧ t.fld Off.mapStat 5 0 = n.val ∧
      t.reg64 (Off.map0 n.val) = s.reg64 (Off.map0 n.val) ∧ t.reg64 (Off.map1 n.val) = s.reg64 (Off.map1 n.val) ∧ t.mem = s.mem) ∧
    (¬bad → ∃ t, exec (.memMapWrite n second acc v) s = .next t ∧ t.fld Off.mapStat 30 30 = 1 ∧
      t.reg64 (Off.map0 n.val) = w0 % 2 ^ 64 ∧ t.reg64 (Off.map1 n.val) = w1 % 2 ^ 64 ∧ t.mem = s.mem ∧ t.engines = s.engines ∧
      ∀ a, entryWords t n.val a = (w0 % 2 ^ 64, w1 % 2 ^ 64) ∨
        entryWords t n.val a = (SMap.get noOld s.mapOld n.val).getD (s.reg64 (Off.map0 n.val), s.reg64 (Off.map1 n.val))) ∧
    ∃ t, exec .mapCopiesUpdated s = .next t ∧ t.fld Off.mapStat 30 30 = 0 ∧ t.mem = s.mem ∧ t.engines = s.engines ∧
      ∀ m < 64, ∀ a, entryWords t m a = (s.reg64 (Off.map0 m), s.reg64 (Off.map1 m))

/-- R266 to R268, R273: the Landing and the scrubber. A direct access reads and writes a direct allocation; a declaration that breaks a condition of R267
is refused with REJ; PBUSY clears when the dropping has ended; the scrubber leaves a clean line alone, corrects and counts a line with a correctable error, and
reports one with an uncorrectable error. That the INFO of its record is the lowest device address that a valid entry gives the line is the model's choice (log
entry 33). -/
def Obligations.LandingAndScrubResults : Prop :=
  ∀ (d : Fin 2) (k : Fin 16) (acc : Acc) (v : Word64) (m : Word32) (a : DevAddr) (bs : List Byte) (st : StackId) (line : Nat) (s : State),
    let w := accMerge (s.reg64 (Off.dalloc d.val k.val)) acc v.toNat
    let good := bit w 63 = true → allocGood s d.val k.val (bits w 12 0) (bits w 29 16) = true
    (s.writable (Off.dalloc d.val k.val) = true → good → ∃ t, exec (.lndDallocWrite d k acc v) s = .next t ∧
      bits (t.reg64 (Off.dalloc d.val k.val)) 63 63 = bits w 63 63 ∧ bits (t.reg64 (Off.dalloc d.val k.val)) 29 16 = bits w 29 16 ∧
      bits (t.reg64 (Off.dalloc d.val k.val)) 12 0 = bits w 12 0 ∧ t.mem = s.mem ∧ t.engines = s.engines) ∧
    (s.writable (Off.dalloc d.val k.val) = true → ¬good →
      exec (.lndDallocWrite d k acc v) s = .next (s.setFld (Off.lndReg d.val 8) 31 31 1)) ∧
    (s.writable (Off.lndReg d.val 0) = true → ∃ t, exec (.lndPartWrite d m) s = .next t ∧ t.mem.hbm = s.mem.hbm ∧ t.mem.landing = s.mem.landing ∧
      t.engines = s.engines ∧ ∀ p, p < 16 → t.fld (Off.lndReg d.val 0) (2 * p + 1) (2 * p) = (newMode s d.val p m.toNat).1) ∧
    (exec (.partitionDropDone d) s = .next (s.setFld (Off.lndReg d.val 8) 30 30 0)) ∧
    (memDown s = false → (∀ p ∈ places s a.toNat bs.length, ∃ i, p = .landing i) →
      exec (.landingDirectAccess a bs.length (some bs)) s = .next (memWrite s .sched a.toNat bs).1) ∧
    (memDown s = false → (∀ p ∈ places s a.toNat 8, ∃ i, p = .landing i) → s.mem.landErr = [] → ∃ t, exec (.landingDirectAccess a 8 none) s = .next t ∧
      t.mem = s.mem ∧ t.host.readBytes = (places s a.toNat 8).map (placeByte s) ∧ t.host.readPoison = false) ∧
    (memDown s = false → ∀ t bytes, (hbmPlace s a.toNat).isSome = true → memReadVia s .sched d.val 0 (a.toNat / 64 * 64) 64 = (t, .ok, bytes) →
      exec (.landingRead d 0 a) s = .next { t with host := { t.host with readBytes := bytes, readPoison := false } }) ∧
    (memDown s = false → SMap.get noMark s.mem.hbmErr (st.val * (stackSize / 64) + line % (stackSize / 64)) = 0 →
      exec (.scrubLine st line) s = .next s) ∧
    (let l := st.val * (stackSize / 64) + line % (stackSize / 64)
     memDown s = false → s.fatal = false → powerState s ≠ 2 → s.fld (Off.memReg st.val 0xC) 31 31 = 1 →
      (SMap.get noMark s.mem.hbmErr l = 1 → ∃ t, exec (.scrubLine st line) s = .next t ∧ SMap.get noMark t.mem.hbmErr l = 0 ∧
        t.fld (Off.memReg st.val 8) 15 0 = min (s.fld (Off.memReg st.val 8) 15 0 + 1) 65535 ∧ t.mem.hbm = s.mem.hbm ∧ t.engines = s.engines) ∧
      (SMap.get noMark s.mem.hbmErr l = 2 → exec (.scrubLine st line) s = .next (hbmUe s l ((deviceOf s (l * 64)).getD 0) 0x02 true)))

/-! ## Page tables -/

/-- R22, R127, R236: a KVMAP that starts. One with a request before it in its queue to the same destination waits, which is the model's reading of the order of
R22 (log entry 121). A misaligned entry address is a memory fault; an entry that a walk pins, or that an earlier edit waits for, defers the edit, its
request counted, while the buffer has room, and the KVMAP stays at the head while it has none; else the entry is written and the KVMAP completes. That an
earlier edit which no walk pins any more defers it is the model's choice (log entry 40), as is the comparison by device addresses (log entry 142). -/
def Obligations.KvmapResults : Prop :=
  ∀ (e e' : EngId) (f : Fields) (w : Word64) (x : SkEntry) (s : State), nextWaiting (s.eng e.val) false = some x → x.instr = .kvmap e' f w →
    let a := (x.regs.getA (fld f 51 49) + 8 * x.regs.getS (fld f 48 44)) % 2 ^ 48
    let v := x.regs.getS (fld f 43 39)
    (overtakes s x (running (s.eng e.val) false) = true → exec (.skidderDescriptorStart e false) s = .next s) ∧
    (overtakes s x (running (s.eng e.val) false) = false →
    (a % 8 ≠ 0 → exec (.skidderDescriptorStart e false) s = .next (drain (failEntry s e.val false x 3) e.val)) ∧
    (a % 8 = 0 → mustDefer s a = true → s.kv.edits.length < 64 → (s.eng e.val).queues = [] → (s.eng e.val).deferred = [] →
      ∃ t, exec (.skidderDescriptorStart e false) s = .next t ∧ t.mem = s.mem ∧ t.regs = (s.tally e.val 4 8).regs ∧
        ∃ d, t.kv = { s.kv with edits := s.kv.edits ++ [d] } ∧ d.addr = a ∧ d.value = v ∧ d.id = x.id) ∧
    (a % 8 = 0 → mustDefer s a = true → 64 ≤ s.kv.edits.length → exec (.skidderDescriptorStart e false) s = .next s) ∧
    (a % 8 = 0 → mustDefer s a = false → ∀ t, memStore (s.tally e.val 4 8) (.skidder e.val) a (leBytes 8 v) = (t, .ok) →
      exec (.skidderDescriptorStart e false) s = .next (drain (completeEntry t e.val false x.id) e.val)))

/-- R227, R236, R238: a walk does not start while another walk of its engine is active or an edit of its range is pending; a misaligned base or more than
4,096 entries end it with the memory fault; a walk of no entries without rotation starts, and holds nothing. Table 9-5, R236: a walk that
found nothing ends with its status word in row 0 of its scale region, is no longer active, and adds its increment; a deferred edit that no walk pins any more is
then written. -/
def Obligations.WalkResults : Prop :=
  (∀ (e e' : EngId) (f : Fields) (w : Word64) (x : SkEntry) (s : State), nextWaiting (s.eng e.val) true = some x → x.instr = .kvwalk e' f w →
    let base := (x.regs.getA (fld f 51 49) + 8 * x.regs.getS (fld f 48 44)) % 2 ^ 48
    let n := x.regs.getS (fld f 43 39)
    (s.kv.walks.any (fun v => v.eng == e.val) = true → exec (.kvWalkStart e) s = .next s) ∧
    (s.kv.walks.any (fun v => v.eng == e.val) = false → base % 8 ≠ 0 ∨ 4096 < n →
      exec (.kvWalkStart e) s = .next (drain (failEntry s e.val true x 3) e.val)) ∧
    (s.kv.walks.any (fun v => v.eng == e.val) = false → base % 8 = 0 → n ≤ 4096 →
      (∃ d ∈ s.kv.edits, base ≤ d.addr ∧ d.addr < base + 8 * n) → exec (.kvWalkStart e) s = .next s) ∧
    (s.kv.walks.any (fun v => v.eng == e.val) = false → base % 8 = 0 → n = 0 → bit f.toNat 22 = false →
      ∃ t, exec (.kvWalkStart e) s = .next t ∧ t.mem = s.mem ∧ t.regs = s.regs ∧ ∃ v, t.kv = { s.kv with walks := s.kv.walks ++ [v] } ∧
        v.id = x.id ∧ v.base = base ∧ v.n = 0 ∧ v.held = [])) ∧
  (∀ (e e' : EngId) (f : Fields) (w : Word64) (x : SkEntry) (v : Walk) (s : State), (s.eng e.val).fillQ = [x] → x.instr = .kvwalk e' f w →
    x.stage = .started → x.quiet = false → s.kv.walks = [v] → v.id = x.id → v.held = [] → v.absent = false → (s.eng e.val).tileErr = [] →
    (s.eng e.val).queues = [] → (s.eng e.val).deferred = [] →
    ∃ t, exec (.kvWalkComplete e) s = .next t ∧ t.kv.walks = [] ∧ (t.eng e.val).fillQ = [] ∧ t.mem = s.mem ∧
      tileBytes (t.eng e.val) (rowAddr x.regs (fld f 30 27) 0) 8 = leBytes 8 (if v.changed then 2 ^ 62 else 0) ∧
      (t.eng e.val).sem (fld f 21 17) = min ((s.eng e.val).sem (fld f 21 17) + fld f 16 13) 0xFFFF) ∧
  ∀ (d : Edit) (s t : State), readyEdit s false = some d → d.expect = none →
    memStore (dropEdit s d) (.skidder d.eng) d.addr (leBytes 8 d.value) = (t, .ok) →
    exec .kvmapDeferredWrite s = .next (endEdit t d .ok)

/-! ## Error monitors -/

/-- R155, R156, R158, R160: a feed adds its converted sums and its count to its monitor, and one that fills the window has the window judged and the sums
cleared; a feed of another context, or of a monitor that is off, adds nothing; a widening request is granted within the budget and otherwise
counted as denied; a grant whose write is accepted makes the monitor wide; a release writes 0 to the widening word and makes it narrow, after the grant where
one is in progress. That a widening write that ends with error makes no grant and goes to FLAG as it stands when it is accepted (log entry 139), and the USH of the
moment at which a feed arrives (log entry 48), are the model's. -/
def Obligations.MonitorResults : Prop :=
  ∀ (s : State),
    (∀ d rest, s.sched.feeds = d :: rest → monMode s d.mon = 0 → exec .monitorFeed s = .next { s with sched := { s.sched with feeds := rest } }) ∧
    (∀ d rest, s.sched.feeds = d :: rest → monMode s d.mon ≠ 0 → monCtx s d.mon ≠ d.ctx →
      exec .monitorFeed s = .next (({ s with sched := { s.sched with feeds := rest } } : State).setFld (Off.monReg d.mon 0x10) 28 28 1)) ∧
    (∀ d rest, s.sched.feeds = d :: rest → monMode s d.mon ≠ 0 → monCtx s d.mon = d.ctx →
      let sr := min (s.reg64 (Off.monReg d.mon 0x18) + (feedSums s d).1) (2 ^ 64 - 1)
      let sx := min (s.reg64 (Off.monReg d.mon 0x20) + (feedSums s d).2) (2 ^ 64 - 1)
      let c := min (s.reg (Off.monReg d.mon 0x14) + d.count) (2 ^ 32 - 1)
      let win := s.fld (Off.monReg d.mon 4) 23 0
      let exceeds := s.fld (Off.monReg d.mon 0) 15 0 * sx < sr * 65536
      (win = 0 ∨ c < 256 * win → ∃ u, exec .monitorFeed s = .next u ∧ u.sched = { s.sched with feeds := rest } ∧ u.mem = s.mem ∧ u.engines = s.engines ∧
        u.reg64 (Off.monReg d.mon 0x18) = sr ∧ u.reg64 (Off.monReg d.mon 0x20) = sx ∧ u.reg (Off.monReg d.mon 0x14) = c) ∧
      (win ≠ 0 → 256 * win ≤ c → ∃ u, exec .monitorFeed s = .next u ∧ u.sched.feeds = rest ∧ u.mem = s.mem ∧
        u.reg64 (Off.monReg d.mon 0x18) = 0 ∧ u.reg64 (Off.monReg d.mon 0x20) = 0 ∧ u.reg (Off.monReg d.mon 0x14) = 0 ∧
        (u.fld (Off.monReg d.mon 0x10) 29 29 = 1 ↔ exceeds) ∧
        u.sched.widenReqs = s.sched.widenReqs ++ (if exceeds ∧ monMode s d.mon = 2 ∧ monWide s d.mon = false ∧ granting s d.mon = false ∧
          twinUsable s d.mon = true then [d.mon] else []))) ∧
    (∀ n rest, s.sched.widenReqs = n :: rest → widenUsed s + monTwin s n ≤ s.fld Off.widenBudget 19 0 →
      ∃ t, exec .widenRequest s = .next t ∧ t.sched.grants = s.sched.grants ++ [n] ∧ t.sched.widenReqs = rest ∧ t.mem = s.mem ∧ t.engines = s.engines) ∧
    (∀ n rest, s.sched.widenReqs = n :: rest → s.fld Off.widenBudget 19 0 < widenUsed s + monTwin s n →
      ∃ t, exec .widenRequest s = .next t ∧ t.sched.grants = s.sched.grants ∧ t.sched.widenReqs = rest ∧ t.fld Off.widenStatus 31 31 = 1 ∧
        t.fld Off.tlyWidenDenied 31 0 = min (s.fld Off.tlyWidenDenied 31 0 + 1) (2 ^ 32 - 1) ∧ t.mem = s.mem ∧ t.engines = s.engines) ∧
    (∀ n rest t m, s.sched.grants = n :: rest → n < 256 → memWrite s .sched (monFlag s n) (leBytes 8 1) = (t, m) →
      ∃ u, exec .widenGrantAccepted s = .next u ∧ u.sched.grants = rest ∧ u.sched.releases = s.sched.releases.filter (· != n) ∧
        (n ∉ s.sched.releases → u.mem = t.mem ∧
          (m = .ok → monWide u n = true ∧ u.fld Off.widenStatus 30 30 = 1) ∧ (m ≠ .ok → monWide u n = monWide t n)) ∧
        (n ∈ s.sched.releases → m = .ok → monWide u n = false)) ∧
    (∀ n : Fin 256, n.val ≠ 0 → s.writable (Off.monReg n.val 0) = true → granting s n.val = false → monWide s n.val = true →
      ∃ u, exec (.monitorRelease n) s = .next u ∧ u.mem = (memWrite s .sched (monFlag s n.val) (leBytes 8 0)).1.mem ∧ monWide u n.val = false) ∧
    (∀ n : Fin 256, n.val ≠ 0 → s.writable (Off.monReg n.val 0) = true →
      (granting s n.val = true → exec (.monitorRelease n) s = .next { s with sched := { s.sched with releases := s.sched.releases ++ [n.val] } }) ∧
      (granting s n.val = false → monWide s n.val = false → exec (.monitorRelease n) s = .next s)) ∧
    (∀ (n : Fin 256) (v : Word32), n.val ≠ 0 → s.writable (Off.monReg n.val 0) = true → bits v.toNat 30 29 ≠ 3 → granting s n.val = false →
      monWide s n.val = true → bit v.toNat 31 = true ∨ bits v.toNat 28 23 ≠ monCtx s n.val →
      ∃ u, exec (.schMonCtlWrite n v) s = .next u ∧ monMode u n.val = bits v.toNat 30 29 ∧ monCtx u n.val = bits v.toNat 28 23 ∧
        u.fld (Off.monReg n.val 0) 15 0 = bits v.toNat 15 0 ∧ monWide u n.val = false ∧
        u.mem = (memWrite s .sched (monFlag s n.val) (leBytes 8 0)).1.mem) ∧
    (∀ (n : Fin 256) (v : Word32), n.val ≠ 0 → s.writable (Off.monReg n.val 0) = true → bits v.toNat 30 29 ≠ 3 →
      (bit v.toNat 31 = false ∨ granting s n.val = false) → monWide s n.val = false → ∃ u, exec (.schMonCtlWrite n v) s = .next u ∧ monMode u n.val = bits v.toNat 30 29 ∧ monCtx u n.val = bits v.toNat 28 23 ∧
        u.fld (Off.monReg n.val 0) 15 0 = bits v.toNat 15 0 ∧ u.mem = s.mem ∧ u.engines = s.engines)

/-! ## Registers and the host's windows -/

/-- R11: in a word that the host writes, an RW bit takes the value written, a W1C bit clears where 1 is written, and every other bit stays. R11, R12, R15: a write and a read of a register without behaviour of its own, for the words of the error block: a write that the block serves goes
through the word's field map; a misaligned access and one of another width than 32 or 64 bits are ignored, the read with zeros; an access of 64 bits is one of both words; poisoned data are
dropped and reported (R441); nothing answers in P3, while PERST# is asserted (R406, R442) or outside D0, where the function serves configuration requests
alone (the model's reading of Table 18-1, log entry 128); a read leaves the value and clears the RC fields.
R469: a read of both words of TLY_En_s returns the count and clears it; a read of the low word keeps the high word for the read that follows. -/
def Obligations.RegisterReadsAndWrites : Prop :=
  (
    (∀ (d : WordDef) (old v i : Nat),
      (writeWord d old v).testBit i = (if d.rw.testBit i then v.testBit i else if d.w1c.testBit i && v.testBit i then false else old.testBit i)) ∧
    ∀ (off : BitVec 26) (n : Nat) (b : Bool) (v : Word64) (s : State),
      let silent := powerState s = 3 ∨ s.power.perst = true ∨ s.host.dState ≠ .d0
      (silent → exec (.registerWrite off n ⟨v, b⟩) s = .next s ∧ exec (.rcCounterRead off n) s = .next s) ∧
      (¬silent →
      (exec (.registerWrite off n ⟨v, true⟩) s = .next (reportAer s 0)) ∧
      ((n ≠ 4 ∧ n ≠ 8) ∨ off.toNat % n ≠ 0 → exec (.registerWrite off n ⟨v, false⟩) s = .next s ∧
        exec (.rcCounterRead off n) s = .next { s with host := { s.host with readData := 0 } }) ∧
      (0x200000 ≤ off.toNat → off.toNat < 0x300000 → off.toNat ≠ Off.errHead → off.toNat + 4 ≠ Off.errHead → off.toNat % 8 = 0 →
        s.writable off.toNat = true →
        exec (.registerWrite off 8 ⟨v, false⟩) s = .next (plainWrite (plainWrite s off.toNat v.toNat) (off.toNat + 4) (v.toNat / 2 ^ 32))) ∧
      (0x200000 ≤ off.toNat → off.toNat < 0x300000 → off.toNat % 8 = 0 → s.service off.toNat = .served →
        ∃ t, exec (.rcCounterRead off 8) s = .next t ∧ t.host.readData.toNat =
            ((plainRead s off.toNat).2 + 2 ^ 32 * (plainRead (plainRead s off.toNat).1 (off.toNat + 4)).2) % 2 ^ 64 ∧
          t.regs = (plainRead (plainRead s off.toNat).1 (off.toNat + 4)).1.regs ∧ t.mem = s.mem ∧ t.engines = s.engines) ∧
      (0x200000 ≤ off.toNat → off.toNat < 0x300000 → off.toNat ≠ Off.errHead → off.toNat % 4 = 0 → s.writable off.toNat = true →
        exec (.registerWrite off 4 ⟨v, false⟩) s = .next (plainWrite s off.toNat v.toNat)) ∧
      (0x200000 ≤ off.toNat → off.toNat < 0x300000 → off.toNat % 4 = 0 → s.writable off.toNat = false →
        exec (.registerWrite off 4 ⟨v, false⟩) s = .next s) ∧
      (0x200000 ≤ off.toNat → off.toNat < 0x300000 → off.toNat % 4 = 0 → s.service off.toNat = .served →
        ∃ t, exec (.rcCounterRead off 4) s = .next t ∧ t.host.readData.toNat = (plainRead s off.toNat).2 % 2 ^ 64 ∧
          t.regs = (plainRead s off.toNat).1.regs ∧ t.mem = s.mem ∧ t.engines = s.engines))) ∧
  (
    ∀ (n : EngId) (k : Fin 12) (s : State), s.service (Off.tly n.val k.val) = .served → hostSilent s = false →
      (∃ t, exec (.tlyCounterRead n k .both) s = .next t ∧ t.host.readData.toNat = s.reg64 (Off.tly n.val k.val) ∧ t.reg64 (Off.tly n.val k.val) = 0 ∧
        t.mem = s.mem ∧ t.engines = s.engines) ∧
      (∃ t, exec (.tlyCounterRead n k .high) s = .next t ∧ t.host.readData.toNat = SMap.get zeroNat s.tlyHold (Off.tly n.val k.val) % 2 ^ 64 ∧
        t.regs = s.regs ∧ t.mem = s.mem ∧ t.engines = s.engines) ∧
      (∃ t u, exec (.tlyCounterRead n k .low) s = .next t ∧ t.host.readData.toNat = s.reg (Off.tly n.val k.val) ∧ t.reg64 (Off.tly n.val k.val) = 0 ∧
        exec (.tlyCounterRead n k .high) t = .next u ∧ u.host.readData.toNat = s.reg (Off.tly n.val k.val + 4) ∧ u.mem = s.mem ∧
        u.engines = s.engines))

/-- R26, R64 to R68: the registers of an engine's window, while the block serves it, the window holds registers and BAR0 answers (R442, log entry 107): reads of ENG_STATUS, ENG_CTRL, ENG_FAULT,
ENG_PC, ENG_FLAGS, ENG_CLK and the semaphores; writes of ENG_CTRL, of the W1C bits of ENG_STATUS and ENG_FAULT and of a semaphore, after which a WAIT that waits
on it may go on; the debug path. Each equation names the whole next state. That the debug address wraps past the end of tile memory is the model's choice (log
entry 103). -/
def Obligations.EngineWindowResults : Prop :=
  ∀ (e : EngId) (b : Bool) (i : Fin 32) (v : Word32) (w : Word64) (acc : Acc) (s : State),
    s.service (0x1000000 + 0x10000 * e.val) = .served → e.val < engCount s → (s.eng e.val).online = true →
    let g := s.eng e.val
    let n := if acc = .both then 8 else 4
    let a := g.dbgAddr / 8 * 8 % tileSize + (if acc = .high then 4 else 0)
    let next := if g.dbgAinc = true ∧ acc ≠ .low then (g.dbgAddr + 8) % tileSize else g.dbgAddr
    (hostSilent s = false → exec (.engCtrlHalt e b) s = .next (s.setEng e.val { g with haltReq := b, halted := if b then g.halted else false })) ∧
    (g.haltReq = true → g.queuesEmpty = true → exec (.engineHalted e) s = .next (s.setEng e.val { g with halted := true })) ∧
    (hostSilent s = false → g.halted = true → g.queues = [] → g.deferred = [] → exec (.engSemWrite e i v) s = .next (s.setEng e.val (g.setSem i.val (v.toNat % 65536)))) ∧
    (hostSilent s = false → g.halted = true → exec (.engSemWrite e i v) s = .next (drain (s.setEng e.val (g.setSem i.val (v.toNat % 65536))) e.val)) ∧
    (hostSilent s = true ∨ g.halted = false → exec (.engSemWrite e i v) s = .next s) ∧
    (hostSilent s = false →
      let at' (x : Nat) := BitVec.ofNat 26 (0x1000000 + 0x10000 * e.val + x)
      let reads (x r : Nat) := exec (.rcCounterRead (at' x) 4) s = .next { s with host := { s.host with readData := BitVec.ofNat 64 r } }
      let writes (x : Nat) (h : Engine) := exec (.registerWrite (at' x) 4 ⟨v.setWidth 64, false⟩) s = .next (s.setEng e.val h)
      (∃ r, reads 4 r ∧ r.testBit 31 = g.semSat ∧ r.testBit 30 = g.eccCe ∧ r.testBit 8 = g.bank ∧ r.testBit 7 = g.halted ∧
        r.testBit 6 = decide (g.issue = .faulted) ∧ ∀ q, q < 4 → r.testBit q = !(g.queue q).isEmpty) ∧
      reads 8 (if g.haltReq then 1 else 0) ∧
      reads 0xC ((if g.faultValid then 2 ^ 31 else 0) + g.faultCtx * 2 ^ 16 + g.faultCode) ∧
      reads 0x10 (g.pc / 8 * 8) ∧ reads 0x18 g.flags.toNat ∧ reads 0x20 g.mhz ∧ reads (0x100 + 4 * i.val) (g.sem i.val) ∧
      writes 4 { g with semSat := g.semSat && !bit v.toNat 31, eccCe := g.eccCe && !bit v.toNat 30 } ∧
      writes 8 { g with haltReq := bit v.toNat 0, halted := if bit v.toNat 0 then g.halted else false } ∧
      writes 0xC { g with faultValid := g.faultValid && !bit v.toNat 31 }) ∧
    (hostSilent s = false → g.tileErr = [] → exec (.engDbgDataRead e acc) s = .next (let t := s.setEng e.val { g with dbgAddr := next }
      { t with host := { t.host with readData := BitVec.ofNat 64 (leNat (tileBytes g a n)) } })) ∧
    (hostSilent s = false → g.tileErr = [] → exec (.engDbgDataWrite e acc w) s = .next (s.setEng e.val { putTile g a (leBytes n w.toNat) with dbgAddr := next }))

/-- R35: a write of HUB_BAR2_BASE whose BASE exceeds 800 leaves BASE and sets REJ, whatever its REJ bit; one of at most 800 updates BASE, and clears REJ where its REJ
bit is 1. Every bit of the register is stated, and nothing else of the state changes. -/
def Obligations.Bar2WindowMoves : Prop :=
  ∀ (v : Word32) (s : State), s.writable Off.bar2Base = true →
    (800 < bits v.toNat 9 0 → exec (.hubBar2BaseWrite v) s = .next (s.setFld Off.bar2Base 31 31 1) ∧
      (s.setFld Off.bar2Base 31 31 1).fld Off.bar2Base 9 0 = s.fld Off.bar2Base 9 0) ∧
    (bits v.toNat 9 0 ≤ 800 → ∃ t, exec (.hubBar2BaseWrite v) s = .next t ∧ t.fld Off.bar2Base 9 0 = bits v.toNat 9 0 ∧
      t.fld Off.bar2Base 31 31 = (if bit v.toNat 31 then 0 else s.fld Off.bar2Base 31 31) ∧ t.fld Off.bar2Base 30 10 = s.fld Off.bar2Base 30 10 ∧
      { t with regs := s.regs } = s ∧ ∀ off, off ≠ Off.bar2Base → t.reg off = s.reg off)

/-- R31, R33, R34, R271, R404, R441: BAR2. A request is the access of its device address, BASE times 1 GiB plus its offset, when the memory is ready; a hole reads
as zeros or drops the write and is counted; a read of a poisoned line answers poisoned; a request waits while the memory is not ready; in P2 a read returns
ones and a write is dropped; a write with poisoned data is dropped and reported; in P3, under PERST# and outside D0 nothing is served (R406, R442; the D-state
is log entry 128). -/
def Obligations.Bar2Results : Prop :=
  ∀ (x : BitVec 36) (n : Nat) (bs : List Byte) (s : State),
    let a := s.fld Off.bar2Base 9 0 * 2 ^ 30 + x.toNat
    (hostSilent s = true → exec (.bar2Write x ⟨bs, true⟩) s = .next s ∧ exec (.bar2Write x ⟨bs, false⟩) s = .next s ∧ exec (.bar2Read x n) s = .next s) ∧
    (hostSilent s = false → exec (.bar2Write x ⟨bs, true⟩) s = .next (reportAer s 0)) ∧
    (powerState s = 2 → hostSilent s = false → exec (.bar2Write x ⟨bs, false⟩) s = .next s ∧
      exec (.bar2Read x n) s = .next { s with host := { s.host with readBytes := List.replicate n 0xFF#8, readPoison := false } }) ∧
    (powerState s < 2 → s.fatal = true → hostSilent s = false → exec (.bar2Write x ⟨bs, false⟩) s = .next s) ∧
    (powerState s < 2 → hostSilent s = false → s.fatal = false → s.boot.memReady = true →
      (∀ t bytes, memRead s .bar2 a n = (t, .ok, bytes) →
        exec (.bar2Read x n) s = .next { t with host := { t.host with readBytes := bytes, readPoison := false } }) ∧
      (∀ t, memWrite s .bar2 a bs = (t, .ok) → exec (.bar2Write x ⟨bs, false⟩) s = .next t) ∧
      (∀ t, memRead s .bar2 a n = (t, .ecc, []) → ∃ u, exec (.bar2Read x n) s = .next u ∧ u.mem = t.mem ∧ u.regs = t.regs ∧
        u.host.readBytes.length = n ∧ u.host.readPoison = true) ∧
      ((places s a n).any (fun p => !reaches .bar2 p) = true → ∃ t, exec (.bar2Read x n) s = .next t ∧ t.mem = s.mem ∧ t.engines = s.engines ∧
        t.host.readBytes = List.replicate n 0#8 ∧ t.fld Off.bar2Hole 15 0 = min (s.fld Off.bar2Hole 15 0 + 1) 0xFFFF) ∧
      ((places s a bs.length).any (fun p => !reaches .bar2 p) = true → exec (.bar2Write x ⟨bs, false⟩) s = .next (s.count Off.bar2Hole 15 0 1))) ∧
    (powerState s < 2 → hostSilent s = false → s.fatal = false → s.boot.memReady = false →
      exec (.bar2Read x n) s = .next { s with host := { s.host with held := s.host.held ++ [.read a n] } } ∧
      exec (.bar2Write x ⟨bs, false⟩) s = .next { s with host := { s.host with held := s.host.held ++ [.write a bs] } })

/-! ## Contexts -/

/-- R315, R316, Tables 13-1 and 13-2: the commands of a context and writes of its set, each in the states that allow it and refused with REJ in the
others. -/
def Obligations.ContextCommands : Prop :=
  ∀ (c : CtxId) (k : Fin 3) (v : Word32) (s : State), s.writable (Off.ctxReg c.val 0) = true →
    let st := s.ctxState c.val
    let rej := s.setFld (Off.ctxReg c.val 0) 28 28 1
    let save := s.fld64 (Off.ctxReg c.val 8) 47 12
    (st = 0 → setOf s c.val ≠ [] → save ≠ 0 → exec (.ctxOpen c) s = .next (s.setCtxState c.val 1)) ∧
    (st ≠ 0 ∨ setOf s c.val = [] ∨ save = 0 → exec (.ctxOpen c) s = .next rej) ∧
    (st = 2 → exec (.ctxPreempt c) s = .next ((s.setCtxState c.val 3).modCtx c.val fun x => { x with preempt := true, reqUs := s.us })) ∧
    (st ≠ 2 → exec (.ctxPreempt c) s = .next rej) ∧
    (st = 4 → (setOf s c.val).length = (s.ctx c.val).savedNset → memDown s = false → (∀ n ∈ setOf s c.val, serves s n = true ∧ freeEngine (s.eng n) = true) →
      ∃ t, exec (.ctxResume c) s = .next t ∧ t.ctxState c.val = 5 ∧ (t.ctx c.val).members = setOf s c.val ∧ t.mem = s.mem ∧
        ∀ n ∈ setOf s c.val, (t.eng n).bound = true ∧ (t.eng n).ctx = c.val ∧ (t.eng n).tile = [] ∧ (t.eng n).regs = {} ∧ (t.eng n).started = false) ∧
    (st = 4 → (setOf s c.val).length = (s.ctx c.val).savedNset →
      memDown s = true ∨ (∃ n ∈ setOf s c.val, serves s n = false ∨ freeEngine (s.eng n) = false) →
      exec (.ctxResume c) s = .next (s.modCtx c.val fun x => { x with resuming := true })) ∧
    (st ≠ 4 ∨ (setOf s c.val).length ≠ (s.ctx c.val).savedNset → exec (.ctxResume c) s = .next rej) ∧
    (State.tearable st = true → ∃ t, exec (.ctxTeardown c) s = .next t ∧ t.ctxState c.val = 6 ∧ t.mem = s.mem ∧ (t.ctx c.val).preempt = false) ∧
    (State.tearable st = false → exec (.ctxTeardown c) s = .next rej) ∧
    (st = 1 ∨ st = 7 → ∃ t, exec (.ctxEnd c) s = .next t ∧ t.ctxState c.val = 0) ∧
    (st ≠ 1 → st ≠ 7 → exec (.ctxEnd c) s = .next rej) ∧
    (st = 0 ∨ st = 1 ∨ st = 4 → exec (.ctxSetWrite c k v) s = .next (s.setReg (Off.ctxReg c.val (0x14 + 4 * k.val)) v.toNat)) ∧
    (st ≠ 0 → st ≠ 1 → st ≠ 4 → exec (.ctxSetWrite c k v) s = .next rej)

/-- R317, R318, Table 13-4: one scan of the work ring over its one pending item. A context that is open, with its engines free and in service, gets it:
it is RUNNING, its engines are bound in rank order from zero state with the image and the entry address, and start together; an item of a context
that may not run is refused, and where it was the context's last, its adapter keys go (R294). While the ring is off the waiting RESUMEs alone are served, and nothing happens after containment or before READY. -/
def Obligations.DispatchResults : Prop :=
  (∀ s : State, (s.fatal = true ∨ s.ready = false → exec .dispatch s = .next s) ∧
    (s.fatal = false → s.ready = true → s.fld Off.workCtl 31 31 = 0 → exec .dispatch s = .next (serveResumes s)) ∧
    ((∀ c, c < 64 → (s.ctx c).resuming = false) → serveResumes s = s)) ∧
  ∀ (i : Nat) (bs : List Byte) (s t : State), memDown s = false → s.fld Off.workCtl 31 31 = 1 → s.fatal = false → s.ready = true →
    (∀ c, c < 64 → (s.ctx c).resuming = false) → workPending s = [i] → memRead s .sched (workAddr s i) 64 = (t, .ok, bs) →
    let w := words8 bs
    let c := bits (w.getD 0 0) 63 58
    (t.ctx c).item = none →
    (workRefused t c w = true → exec .dispatch s = .next (workRefuseHead t c i (w.getD 0 0))) ∧
    (workRefused t c w = false → t.ctxState c = 1 → (∀ n ∈ setOf t c, freeEngine (t.eng n) = true) →
      exec .dispatch s = .next (dispatchItem t c i w) ∧
      let it : WorkItem := ⟨i, w, t.us, t.sched.late⟩
      let t1 := ((bindSet t c (setOf t c)).setCtxState c 2).modCtx c fun y => { y with item := some it, preempt := false }
      let t2 := (((t1.setReg (Off.ctxReg c 0x20) 0).setReg (Off.ctxReg c 0x24) 0).setReg (Off.ctxReg c 0x28) 0).setReg (Off.ctxReg c 0x2C) 0
      ∀ img x, memRead t2 .sched (bits (w.getD 1 0) 47 0) (bits (w.getD 2 0) 45 23) = (x, .ok, img) →
        (dispatchItem t c i w).ctxState c = 2 ∧ ((dispatchItem t c i w).ctx c).members = setOf t c ∧
        ∀ n ∈ setOf t c, let g := (dispatchItem t c i w).eng n
          g.bound = true ∧ g.started = true ∧ g.ctx = c ∧ g.pc = bits (w.getD 3 0) 22 0 % tileSize ∧ g.regs = {} ∧ g.issue = .going ∧
          tileBytes g (bits (w.getD 2 0) 22 0) img.length = img)

/-- R82, R319: when every engine of the set has completed DONE the item ends: its engines are unbound and the context is IDLE; before that nothing
changes. R133, R325: a mark that reaches the
deadline monitor of a context with an item: progress adds to PROG, a phase is written to PHASE, and any other SEL is ignored. -/
def Obligations.WorkItemResults : Prop :=
  (∀ (c : CtxId) (s : State),
    (allDone s c.val = false → exec (.workItemComplete c) s = .next s) ∧
    ∀ it, s.fatal = false → s.ctxState c.val = 2 ∨ s.ctxState c.val = 3 → allDone s c.val = true → (s.ctx c.val).item = some it →
      (∀ m ∈ s.sched.marks, m.1 ≠ c.val) →
      ∃ t, exec (.workItemComplete c) s = .next t ∧ t.ctxState c.val = 1 ∧ (t.ctx c.val).item = none ∧ (t.ctx c.val).members = [] ∧
        (∀ n ∈ (s.ctx c.val).members, (t.eng n).bound = false ∧ (t.eng n).queues = []) ∧
        t.reg (Off.ctxReg c.val 0x24) = min (s.us - it.startUs) (2 ^ 32 - 1)) ∧
  ∀ (c sel v : Nat) (rest : List (Nat × Nat × Nat)) (it : WorkItem) (s : State), s.sched.marks = (c, sel, v) :: rest → (s.ctx c).item = some it →
    let t : State := { s with sched := { s.sched with marks := rest } }
    (sel = 0 → bits (it.words.getD 3 0) 63 32 = 0 → exec .deadlineMonitorMark s = .next
      (t.setReg (Off.ctxReg c 0x20) (min (s.reg (Off.ctxReg c 0x20) + v) (2 ^ 32 - 1)))) ∧
    (sel = 0 → exec .deadlineMonitorMark s = .next
      (monitorEval (t.setReg (Off.ctxReg c 0x20) (min (s.reg (Off.ctxReg c 0x20) + v) (2 ^ 32 - 1))) c it)) ∧
    (sel = 1 → exec .deadlineMonitorMark s = .next (t.setReg (Off.ctxReg c 0x2C) v)) ∧
    (2 ≤ sel → exec .deadlineMonitorMark s = .next t)

/-- R96 to R98, R320 to R324: a set that has wholly stopped is saved, but for the ranks that have ended, and unbound, and the context is STOPPED; a record that cannot be written or read
tears it down with its code; a restored set starts together; a set that has not stopped in time goes on, or is torn down under PTOKILL. That a rank past DONE
has no record and that LASTID stays where rank 0 is one of them is the model's choice (log entry 44), as is the trap of a save that meets a double-bit error (log
entry 138). -/
def Obligations.PreemptionResults : Prop :=
  ∀ (c : CtxId) (s t : State),
    (memDown s = true ∨ s.fatal = true → exec (.contextSave c) s = .next s ∧ exec (.contextRestore c) s = .next s) ∧
    (s.fatal = true → exec (.preemptTimeout c) s = .next s) ∧
    (memDown s = false → s.fatal = false →
    (s.ctxState c.val = 3 → allStopped s c.val = true → allDone s c.val = false → saveFits s c.val = true →
      saveRanks c.val (savedRanks s c.val) s = (t, .ok) → ∃ u, exec (.contextSave c) s = .next u ∧ u.ctxState c.val = 4 ∧
        (u.ctx c.val).members = [] ∧ (u.ctx c.val).savedNset = (s.ctx c.val).members.length ∧ u.fld (Off.ctxReg c.val 0x30) 7 0 = (pointId s c.val).getD (t.fld (Off.ctxReg c.val 0x30) 7 0) ∧
        (u.ctx c.val).doneRanks = endedRanks s c.val ∧ u.mem = t.mem ∧ ∀ n ∈ (s.ctx c.val).members, (u.eng n).bound = false) ∧
    (s.ctxState c.val = 3 → allStopped s c.val = true → allDone s c.val = false → saveFits s c.val = true →
      (saveRanks c.val (savedRanks s c.val) s = (t, .error) → exec (.contextSave c) s = .next (saveFailed t c.val 3)) ∧
      ∀ e, saveRanks c.val (savedRanks s c.val) s = (t, .trap e) → exec (.contextSave c) s = .next (t.raiseTrap e 4 (t.eng e).pc 0)) ∧
    (s.ctxState c.val = 3 → allStopped s c.val = true → allDone s c.val = false → saveFits s c.val = false →
      exec (.contextSave c) s = .next (saveFailed s c.val 3)) ∧
    (s.ctxState c.val ≠ 3 → exec (.contextSave c) s = .next s) ∧
    (s.ctxState c.val = 5 → restoreRanks c.val (s.ctx c.val).members.zipIdx s = (t, true) → ∃ u, exec (.contextRestore c) s = .next u ∧
      u.ctxState c.val = 2 ∧ u.mem = t.mem ∧ ∀ n ∈ (t.ctx c.val).members, (u.eng n).started = true ∧ (u.eng n).regs = (t.eng n).regs) ∧
    (s.ctxState c.val = 5 → restoreRanks c.val (s.ctx c.val).members.zipIdx s = (t, false) →
      exec (.contextRestore c) s = .next (saveFailed t c.val 4))) ∧
    (s.fatal = false →
    (s.ctxState c.val = 3 → s.us < (s.ctx c.val).reqUs + max 1 (s.fld (Off.ctxReg c.val 0) 19 0) → exec (.preemptTimeout c) s = .next s) ∧
    (s.ctxState c.val = 3 → (s.ctx c.val).reqUs + max 1 (s.fld (Off.ctxReg c.val 0) 19 0) ≤ s.us → allStopped s c.val = false →
      s.fld (Off.ctxReg c.val 0) 27 27 = 0 → ∃ u, exec (.preemptTimeout c) s = .next u ∧ u.ctxState c.val = 2 ∧ (u.ctx c.val).preempt = false ∧
        u.fld (Off.ctxReg c.val 0x30) 31 31 = 1 ∧ u.errSeq = (s.errSeq + 1) % 2 ^ 32 ∧ u.mem = s.mem) ∧
    (s.ctxState c.val = 3 → (s.ctx c.val).reqUs + max 1 (s.fld (Off.ctxReg c.val 0) 19 0) ≤ s.us → allStopped s c.val = false →
      s.fld (Off.ctxReg c.val 0) 27 27 = 1 → ∃ u, exec (.preemptTimeout c) s = .next u ∧ u.ctxState c.val = 6))

/-- R327, R332, R333: a teardown ends when the transfers of the set have ended: the engines are unbound and the context is TORN; one that lasts 10 ms is
device-fatal; containment sets the fatal state, unbinds every engine and reports an uncorrectable internal error; a further fatal error only counts. -/
def Obligations.TeardownAndContainment : Prop :=
  ∀ (c : CtxId) (k : BitVec 8) (s : State),
    (s.ctxState c.val ≠ 6 ∨ s.fatal = true → exec (.teardown c) s = .next s) ∧
    (s.ctxState c.val = 6 → s.fatal = false → s.coll.steps = [] → s.fabric.reqs = [] →
      (∀ n ∈ (s.ctx c.val).members, (s.eng n).skidderIdle = true ∧ (s.eng n).rebind = false) →
      ∃ t, exec (.teardown c) s = .next t ∧ t.ctxState c.val = 7 ∧ (t.ctx c.val).members = [] ∧ (t.ctx c.val).item = none ∧
        ∀ n ∈ (s.ctx c.val).members, (t.eng n).bound = false) ∧
    (s.ctxState c.val = 6 → transfersEnded s c.val = false → remotePending s c.val = false → (s.ctx c.val).tearUs + 10000 ≤ s.us →
      exec (.teardownStall c) s = .next (contain s 4)) ∧
    (s.us < (s.ctx c.val).tearUs + 10000 → exec (.teardownStall c) s = .next s) ∧
    (s.fatal = false → ∃ t, exec (.fatalContainment k) s = .next t ∧ t.fatal = true ∧ t.reg Off.errFatal = 2 ^ 31 + k.toNat ∧
      (∀ n, n < 96 → (t.eng n).bound = false) ∧ t.host.aer = s.host.aer ++ [(4, s.host.config.severity.getD 4 .nonFatal)] ∧ t.mem = s.mem) ∧
    (s.fatal = true → exec (.fatalContainment k) s = .next (s.count Off.errFatal 15 8 1))

/-- R328: ERR_HEAD takes a value that leaves at most 64 records unacknowledged, and no other. An error record takes the next sequence number and, with
fewer than 64 records unacknowledged, stands at ERR_TAIL with its four words and moves it; else it is counted as lost. Memory and the engines are unchanged. -/
def Obligations.ErrorRecordRing : Prop :=
  (∀ (v : Word32) (s : State), s.writable Off.errHead = true →
    let pend := (s.fld Off.errTail 7 0 + 256 - v.toNat % 256) % 256
    (pend ≤ 64 → exec (.errHeadWrite v) s = .next ((s.setFld Off.errHead 7 0 v.toNat).setFld Off.errStatus 6 0 pend)) ∧
    (64 < pend → exec (.errHeadWrite v) s = .next s)) ∧
  ∀ (src code sev info aux : Nat) (cx eg : Option Nat) (s : State),
    let t := s.appendRecord src code sev cx eg info aux
    let tail := s.fld Off.errTail 7 0
    let pend := (tail + 256 - s.fld Off.errHead 7 0) % 256
    t.errSeq = (s.errSeq + 1) % 2 ^ 32 ∧ t.mem = s.mem ∧ t.engines = s.engines ∧ t.fld Off.irqStat 4 4 = 1 ∧
    (pend < 64 → t.fld Off.errTail 7 0 = (tail + 1) % 256 ∧ t.reg64 (Off.errRec (tail % 64) 0) = State.recordWord0 src code sev cx eg s.errSeq ∧
      t.reg64 (Off.errRec (tail % 64) 1) = info % 2 ^ 64 ∧ t.reg64 (Off.errRec (tail % 64) 2) = aux % 2 ^ 64 ∧
      t.reg64 (Off.errRec (tail % 64) 3) = s.us % 2 ^ 64) ∧
    (64 ≤ pend → t.fld Off.errTail 7 0 = tail ∧ t.reg Off.errOvf = min (s.reg Off.errOvf + 1) (2 ^ 32 - 1))

/-! ## The Ferry -/

/-- R241, R242, R238: a Ferry descriptor of a ready ring. An OP that is neither swap ends with 0x04; an entry that is not as expected ends the swap as
stale; a swap copies its page and commits the new entry by compare-and-swap, deferred while a walk pins it; the deferred commit then follows. The end
of a descriptor advances HEAD and counts; one whose STAT cannot be written ends with error, counts neither and has a record (R271). That a misaligned EADDR answers ERROR with a record and an OP that is neither swap without one is the model's choice
(log entry 42). -/
def Obligations.FerryResults : Prop :=
  (∀ (out : Bool) (bs : List Byte) (v : Nat) (s s1 s2 s3 s4 : State), memDown s = false → ferryReady s = true →
    memRead s .ferry (ferryAddr s) 32 = (s1, .ok, bs) →
    let d := ferryDesc bs
    let cmd : Instr := if out then .ferrySwapOut else .ferrySwapIn
    let e := pte v
    let src := if out then d.unit else d.slot
    let stale := e.v = false ∨ e.loc = out ∨ e.frame ≠ src ∨ e.gen ≠ d.gen
    let new : Pte := { e with loc := out, frame := if out then d.slot else d.unit, gen := (d.gen + 1) % 256 }
    let ed : Edit := { addr := d.eaddr, value := new.word, expect := some v, ctx := d.ctx }
    (d.op ≠ 1 → d.op ≠ 2 → exec .ferryInvalidOp s = .next (ferryEnd s1 d 4 false)) ∧
    (d.op = (if out then 1 else 2) → d.eaddr % 8 ≠ 0 → exec cmd s = .next (ferryEnd s1 d 4 true)) ∧
    (d.op = (if out then 1 else 2) → d.eaddr % 8 = 0 → memReadNat s1 .ferry d.eaddr 8 = (s2, .ok, v) →
      (stale → exec cmd s = .next (ferryEnd s2 d 2 false)) ∧
      (¬stale → e.fmt ≤ 1 → e.size ≤ 6 → ferryPage out src (if out then d.slot else d.unit) (2 ^ e.size * frameUnits e.fmt) s2 = (s3, .ok) →
        (mustDefer s3 d.eaddr = false → writeEdit s3 .ferry ed = (s4, true, .ok) → exec cmd s = .next (ferryEnd s4 d 1 false)) ∧
        (mustDefer s3 d.eaddr = true → s3.kv.edits.length < 64 →
          exec cmd s = .next { s3 with kv := { s3.kv with ferry := true, edits := s3.kv.edits ++ [ed] } })))) ∧
  (∀ (ed : Edit) (bs : List Byte) (s s1 s2 : State), memDown s = false → readyEdit s true = some ed → memRead s .ferry (ferryAddr s) 32 = (s1, .ok, bs) →
    writeEdit (dropEdit s1 ed) .ferry ed = (s2, true, .ok) → exec .ferryCommitDeferred s = .next (ferryEnd s2 (ferryDesc bs) 1 false)) ∧
  ∀ (d : FerryDesc) (stat : Nat) (record : Bool) (s : State),
    let t := ferryEnd s d stat record
    let w := memWrite s .ferry (ferryAddr s + 24) (leBytes 8 (putBits d.w3 63 56 stat))
    t.fld Off.ferryHead 15 0 = (ferryIndex s + 1) % ferrySize s % 65536 ∧ t.kv.ferry = false ∧ t.engines = w.1.engines ∧
    (w.2 = .ok → stat = 2 → t.fld Off.ferryCnt 15 0 = min (s.fld Off.ferryCnt 15 0 + 1) 0xFFFF) ∧
    (w.2 = .ok → stat = 3 → t.fld Off.ferryCnt 31 16 = min (s.fld Off.ferryCnt 31 16 + 1) 0xFFFF) ∧
    (w.2 ≠ .ok → t.reg Off.ferryCnt = s.reg Off.ferryCnt ∧ t.errSeq = (w.1.errSeq + 1) % 2 ^ 32)

/-! ## Flash, keys and the model -/

/-- R285, R287, R288, R289, Table 11-3: the flash command that is next starts, by its OP, where no gate applies: one out of range ends with RANGE, one whose
key slot does not serve it with KEY, one that writes a read-only device with RO, and else it is in progress, with nothing moved; a gated one waits
for its gate word. An NFETCH has one request for each of its logical
blocks. An OP that is not assigned ends with RANGE. The order of the checks, RANGE, KEY, RO and then the gate, and RANGE for a misaligned gate address are the
model's choices (log entry 56), and so is that a command moves nothing before it ends (log entry 58). -/
def Obligations.FlashCommandsStart : Prop :=
  ∀ (i : Nat) (bs : List Byte) (s t : State), memDown s = false → flashReady s = true → flsNext s = some i →
    memRead s .flash (flsAddr s i) 64 = (t, .ok, bs) → s.powerFail = false →
    let c : FlashCmd := { index := i, words := words8 bs }
    let cmd : Instr := if c.op = 1 then .flashRead else if c.op = 2 then .flashWrite else if c.op = 3 then .flashTrim
      else if c.op = 4 then .flashImport else .flashNfetch
    let writes := c.op = 2 ∨ c.op = 3
    (1 ≤ c.op → c.op ≤ 5 → c.gated = false →
      (flashRange t c = true → exec cmd s = .next (flashEnd t c 4 false)) ∧
      (flashRange t c = false → flashKey t c = true → exec cmd s = .next (flashEnd t c 5 false)) ∧
      (flashRange t c = false → flashKey t c = false → writes → t.fld flsStatus 31 31 = 1 → exec cmd s = .next (flashEnd t c 7 false)) ∧
      (flashRange t c = false → flashKey t c = false → (writes → t.fld flsStatus 31 31 = 0) → ∃ u, exec cmd s = .next u ∧
        u.flash = { t.flash with cmds := t.flash.cmds ++ [c] } ∧ u.mem = t.mem ∧ u.regs = t.regs ∧ u.engines = t.engines ∧
        u.fabric.reqs.length = t.fabric.reqs.length + (if c.op = 5 then c.nlb else 0))) ∧
    (1 ≤ c.op → c.op ≤ 5 → c.gated = true → exec cmd s = .next s ∧
      ∀ u v, deviceRegion (c.f 7 47 0) = true → c.f 7 47 0 % 8 = 0 → memReadNat t .flash (c.f 7 47 0) 8 = (u, .ok, v) →
        (v < c.f 5 31 0 → exec .flashGatePoll s = .next u) ∧ (c.f 5 31 0 ≤ v → exec .flashGatePoll s = .next (flashStart u c))) ∧
    (1 ≤ c.op → c.op ≤ 5 → c.gated = true → deviceRegion (c.f 7 47 0) = false ∨ c.f 7 47 0 % 8 ≠ 0 →
      exec .flashGatePoll s = .next (flashEnd t c 4 false)) ∧
    (c.op = 0 ∨ 5 < c.op → exec .flashInvalidOp s = .next (flashEnd t c 4 false))

/-- R286, R289, R290, R293: a flash command in progress moves its units in ascending order and ends with DONE, or with the status of the first that failed; it
waits while an earlier one touches its blocks. An end that signals nothing takes the command from those in progress, moves HEAD in order and raises its interrupt source.
R279 to R281: the logical blocks. A block written reads back from a physical block that is not retired, other blocks unchanged; a trimmed block reads as zeros; a block that decodes is read as it
stands; and relocation and wear levelling move data between physical blocks only: every logical byte, memory and the engines stay. -/
def Obligations.FlashOperations : Prop :=
  (
    (∀ (k : Fin 16) (c : FlashCmd) (s t : State), memDown s = false → s.flash.cmds[k.val]? = some c →
      (flashBehind s c = true → exec (.flashCommandComplete k) s = .next s) ∧
      (flashBehind s c = false → c.op ≠ 5 →
        (flashUnits c c.units 0 s = (t, .done) → exec (.flashCommandComplete k) s = .next (flashEnd (nfDrop t c) c 1 false)) ∧
        (∀ st r, flashUnits c c.units 0 s = (t, .ends st r) → exec (.flashCommandComplete k) s = .next (flashEnd (nfDrop t c) c st r)) ∧
        (flashUnits c c.units 0 s = (t, .wait) → exec (.flashCommandComplete k) s = .next s)) ∧
      (flashBehind s c = false → c.op = 5 →
        ((∀ q ∈ nfReqs s c, q.status = 3) → exec (.flashCommandComplete k) s = .next (flashEnd (nfDrop s c) c 1 false)) ∧
        (∀ q, (nfReqs s c).find? (fun r => r.status != 3) = some q → q.status ≠ 2 → exec (.flashCommandComplete k) s = .next s))) ∧
    ∀ (c : FlashCmd) (st : Nat) (r : Bool) (s : State), st ≠ 1 ∨ c.f 0 37 37 = 0 ∨ c.quiet = true →
      let t := flashEnd s c st r
      t.flash.cmds = s.flash.cmds.filter (fun x => x.index != c.index) ∧ t.flash.blocks = s.flash.blocks ∧ t.flash.keys = s.flash.keys ∧
        t.fld flsHead 15 0 = (ringAdvance (flsSize s) (flsSize s) (s.fld flsHead 15 0) (s.flash.done ++ [c.index])).1 % 65536 ∧
        t.fld Off.irqStat 2 2 = 1) ∧
  (
    (∀ (l m i : Nat) (bs : List Byte) (s : State), i < 4096 →
      SMap.get zeroNat (programBlock s l bs).flash.phys l ∉ s.flash.retired ∧
      (programBlock s l bs).flash.blocks.rdN (4096 * l) 4096 = resize 4096 bs ∧ (trimBlock s l).flash.blocks.rdN (4096 * l) 4096 = List.replicate 4096 0#8 ∧
      (m ≠ l → (programBlock s l bs).flash.blocks.rd (4096 * m + i) = s.flash.blocks.rd (4096 * m + i) ∧
        (trimBlock s l).flash.blocks.rd (4096 * m + i) = s.flash.blocks.rd (4096 * m + i)) ∧
      (SMap.get noMark s.flash.media l ≠ 2 → (readBlock s l).2 = some (s.flash.blocks.rdN (4096 * l) 4096)) ∧
      (SMap.get noMark s.flash.media l = 2 → (readBlock s l).2 = none)) ∧
    ∀ (b : Nat) (retire : Bool) (s : State),
      (s.powerFail = true → exec (.ftlReadDisturbRelocate b) s = .next s ∧ exec (.wearLevelling b retire) s = .next s) ∧
      (s.powerFail = false →
      (SMap.get zeroNat s.flash.reads (b + 1) < max 1 (s.fld flsRdthr 23 0) → exec (.ftlReadDisturbRelocate b) s = .next s) ∧
      (max 1 (s.fld flsRdthr 23 0) ≤ SMap.get zeroNat s.flash.reads (b + 1) → ∃ t, exec (.ftlReadDisturbRelocate b) s = .next t ∧
        SMap.get zeroNat t.flash.reads (b + 1) = 0 ∧ t.fld flsReloc 31 16 = min (s.fld flsReloc 31 16 + 1) 65535 ∧ t.mem = s.mem ∧ t.engines = s.engines ∧
        ∀ a, t.flash.blocks.rd a = s.flash.blocks.rd a) ∧
      ∃ t, exec (.wearLevelling b retire) s = .next t ∧ t.mem = s.mem ∧ t.engines = s.engines ∧ (∀ a, t.flash.blocks.rd a = s.flash.blocks.rd a) ∧
        (retire = true → b + 1 ∈ t.flash.retired ∧
          (b + 1 ∉ s.flash.retired → t.fld flsReloc 15 0 = min (s.fld flsReloc 15 0 + 1) 65535))))

/-- R287, R294 to R297: the key slots and the model. Slots 0 and 1 take no adapter key and are not erased; an erase clears a slot; an install whose blob opens
for the resident model, into a free slot, gives the slot its key and owner; UNLOAD and LOAD are refused in the states that forbid them, and otherwise leave STATE
at BUSY; and a model command ends in EMPTY, RESIDENT or FAILED. That slots 0 and 1 refuse both commands, that UNLOAD clears SEC_MODEL_ID, and which contexts are
active are the model's choices (log entry 61). -/
def Obligations.KeysAndModel : Prop :=
  (∀ (k : Fin 32) (s : State), s.writable secKcmd = true → ∃ t, exec (.keyErase k) s = .next t ∧ t.mem = s.mem ∧ t.engines = s.engines ∧
    (2 ≤ k.val → t.reg (kslot k.val) = 0 ∧ t.flash = { s.flash with keys := SMap.set noBytes s.flash.keys k.val [] }) ∧
    (k.val < 2 → t.fld64 secKcmd 60 60 = 1 ∧ t.flash = s.flash)) ∧
  (∀ (k : Fin 32) (c : CtxId) (blob : DevAddr) (s : State), s.writable secKcmd = true → memDown s = false →
    let s1 := s.setReg64 secKcmd (putBits (putBits (2 ^ 61 + c.val * 2 ^ 54 + k.val * 2 ^ 49 + blob.toNat) 60 60 (s.fld64 secKcmd 60 60)) 63 61 0)
    ∀ u b, memRead s1 .sched blob.toNat 256 = (u, .ok, b) →
      (openBlob 2 b = none → exec (.keyInstall k c blob) s = .next (u.setFld64 secKcmd 60 60 1)) ∧
      ∀ id dg key, openBlob 2 b = some (id, dg, key) →
        (2 ≤ k.val → s.fld secModel 1 0 = 2 → id = s.reg secModelId → bit (s.reg (kslot k.val)) 31 = false → ∃ t, exec (.keyInstall k c blob) s = .next t ∧
          SMap.get noBytes t.flash.keys k.val = key ∧ t.reg (kslot k.val) = 2 ^ 31 + 2 ^ 29 + c.val * 2 ^ 23 ∧ t.mem = u.mem ∧ t.engines = u.engines) ∧
        (k.val < 2 ∨ s.fld secModel 1 0 ≠ 2 ∨ id ≠ s.reg secModelId ∨ bit (s.reg (kslot k.val)) 31 = true →
          exec (.keyInstall k c blob) s = .next (u.setFld64 secKcmd 60 60 1))) ∧
  ∀ s : State,
    (s.writable secModel = true → (∃ c, c < 64 ∧ ctxActive s c = true) → ∃ t, exec .modelUnload s = .next t ∧
      t.fld secModel 28 28 = 1 ∧ t.fld secModel 15 8 = 1 ∧ t.flash = s.flash ∧ t.mem = s.mem ∧ t.engines = s.engines) ∧
    (s.writable secModel = true → (∀ c, c < 64 → ctxActive s c = false) → s.flash.cmds = [] → s.side.opening = none → s.side.armed = none →
      ∃ t, exec .modelUnload s = .next t ∧ t.fld secModel 1 0 = 1 ∧ t.flash.unloading = true ∧ t.mem = s.mem ∧ t.engines = s.engines ∧
        ∀ k, k < 32 → SMap.get noBytes t.flash.keys k = [] ∧ t.reg (kslot k) = 0) ∧
    (s.writable secModel = true → memDown s = false → s.fld secModel 1 0 ≠ 0 → ∃ t, exec .modelLoad s = .next t ∧ t.fld secModel 28 28 = 1 ∧
      t.fld secModel 15 8 = 2 ∧ t.flash = s.flash ∧ t.mem = s.mem ∧ t.engines = s.engines) ∧
    (s.writable secModel = true → memDown s = false → s.fld secModel 1 0 = 0 → ∀ u b, memRead s .sched (s.fld64 secBlob 47 6 * 64) 256 = (u, .ok, b) →
      ∃ t, exec .modelLoad s = .next t ∧ t.fld secModel 1 0 = 1 ∧ t.flash = { u.flash with unloading := false, loading := some (openBlob 1 b) } ∧
        t.mem = u.mem) ∧
    (s.fld secModel 1 0 ≠ 1 → exec .modelCommandComplete s = .next s) ∧
    (s.fld secModel 1 0 = 1 → s.flash.unloading = true → ∃ t, exec .modelCommandComplete s = .next t ∧ t.fld secModel 1 0 = 0 ∧ t.reg secModelId = 0 ∧
      t.flash = { s.flash with unloading := false } ∧ t.mem = s.mem ∧ t.engines = s.engines) ∧
    (s.fld secModel 1 0 = 1 → s.flash.unloading = false → s.flash.loading = some none → ∃ t, exec .modelCommandComplete s = .next t ∧
      t.fld secModel 1 0 = 3 ∧ t.fld secModel 15 8 = 3 ∧ t.flash = { s.flash with loading := none } ∧ t.mem = s.mem ∧ t.engines = s.engines) ∧
    ∀ id dg key, s.fld secModel 1 0 = 1 → s.flash.unloading = false → s.flash.loading = some (some (id, dg, key)) → ∃ t,
      exec .modelCommandComplete s = .next t ∧ t.fld secModel 1 0 = 2 ∧ t.reg secModelId = id % 2 ^ 32 ∧ SMap.get noBytes t.flash.keys 1 = key ∧
        t.reg (kslot 1) = 2 ^ 31 + 2 ^ 30 ∧ t.mem = s.mem ∧ t.engines = s.engines

/-! ## Video coding and motion search -/

/-- R302 to R306, R309, R311: the codec's jobs. The next descriptor of the ring is read and stamped; OPEN takes a slot, or ends with STATE or RANGE; RELEASE drops
the holds of its mask; CLOSE ends the queued jobs of its slot and frees it when no frame is in progress; an OP that is not assigned ends with RANGE; and a
job that has ended moves HEAD in order and raises its source.
R301, R305 to R309, R312: the codec's units. A free unit takes the ready job that is first, or ends one that may not start; a frame that a unit runs ends when
its data can be read and no earlier frame of its slot runs (that frames of a slot end in ring order is the model's, log entry 130), whether it is decoded,
concealed at its time-out, which waits for no data, coded or searched: the unit is free again, and the job holds its end: of a frame that is decoded DONE, or DAMAGED with what stopped
it, of one that is coded the length of its bytes; one whose state area cannot be loaded or saved ends with ERROR (R303, R309; when the area is read and written
is the model's choice, log entry 63). A unit that runs nothing does nothing. That STATE comes before RANGE for an OPEN of a slot that is open, and that a CLOSE ends
the jobs queued before it, are the model's (log entry 65). -/
def Obligations.CodecResults : Prop :=
  let endedWith (u : State) (j : CJob) (st : Nat) : Prop := ∀ y ∈ u.codec.jobs, y.index = j.index → ∃ c, y.ended = some ⟨st, 0, c, false⟩
  (
    (∀ (i : Nat) (bs : List Byte) (s t : State), memDown s = false → s.ready = true → s.fatal = false → s.fld codCtl 31 31 = 1 → s.codec.jobs.length < 64 →
      (ringPending (s.fld codHead 15 0) (s.fld codTail 15 0) (codSize s)).find? (fun i => !s.codec.done.contains i &&
        !s.codec.jobs.any fun j => j.index == i) = some i → memRead s .codec (codAddr s i) 64 = (t, .ok, bs) →
      exec .codecJobRead s = .next { t with codec := { t.codec with jobs := t.codec.jobs ++
        [{ index := i, words := words8 bs, stamp := (s.us + bits ((words8 bs).getD 0 0) 30 15) % 2 ^ 32 }] } }) ∧
    (∀ (j : CJob) (s : State), memDown s = false → headJob s (· == 1) = some j →
      ((cslot s j.slot).open_ = true → exec .codecOpen s = .next (endJob s j.index 4 false)) ∧
      ((cslot s j.slot).open_ = false → ∀ t b, memRead s .codec (j.f 1 47 0) 64 = (t, .ok, b) →
        (openGood (words8 b) = false → exec .codecOpen s = .next (endJob t j.index 3 false)) ∧
        (openGood (words8 b) = true → ∃ u, exec .codecOpen s = .next u ∧ cslot u j.slot = { open_ := true, record := words8 b, ctx := j.ctx } ∧
          (∀ n, n ≠ j.slot → cslot u n = cslot s n) ∧ u.mem = t.mem ∧ u.engines = t.engines ∧ endedWith u j 1))) ∧
    (∀ (j : CJob) (s : State), memDown s = false → headJob s (· == 4) = some j →
      ((cslot s j.slot).open_ = false → exec .codecRelease s = .next (endJob s j.index 4 false)) ∧
      ((cslot s j.slot).open_ = true → ∃ u, exec .codecRelease s = .next u ∧ endedWith u j 1 ∧ u.mem = s.mem ∧ u.engines = s.engines ∧
        (∀ n, n ≠ j.slot → cslot u n = cslot s n) ∧ (cslot u j.slot).refs = (cslot s j.slot).refs ∧
        ∀ b, bit (cslot u j.slot).outs b = (bit (cslot s j.slot).outs b && !bit (j.f 2 31 0) b))) ∧
    (∀ (j : CJob) (s : State), memDown s = false → headJob s (· == 5) = some j →
      ((cslot s j.slot).open_ = false → exec .codecClose s = .next (endJob s j.index 4 false)) ∧
      ((cslot s j.slot).open_ = true → ∃ u, exec .codecClose s = .next u ∧ u.mem = s.mem ∧ u.engines = s.engines ∧
        (∀ n, n ≠ j.slot → cslot u n = cslot s n) ∧
        (∀ y ∈ u.codec.jobs, y.slot = j.slot → y.index ≠ j.index → y.queued = false) ∧ ((cslot s j.slot).infl = 0 → endedWith u j 1) ∧
        cslot u j.slot = (if (cslot s j.slot).infl = 0 then {} else cslot s j.slot))) ∧
    (∀ (j : CJob) (s : State), memDown s = false → headJob s (fun o => o == 0 || decide (6 < o)) = some j →
      exec .codecInvalidOp s = .next (endJob s j.index 3 false)) ∧
    ∀ (k : Fin 64) (j : CJob) (s : State), memDown s = false → s.codec.jobs[k.val]? = some j →
      (j.ended = none → exec (.codecJobComplete k) s = .next s) ∧
      ∀ e, j.ended = some e → (e.stat ≠ 1 ∧ e.stat ≠ 2) ∨ j.f 0 31 31 = 0 ∨ j.quiet = true → ∃ t, exec (.codecJobComplete k) s = .next t ∧
        t.codec.jobs = s.codec.jobs.filter (fun x => x.index != j.index) ∧ t.fld Off.irqStat 3 3 = 1 ∧
        t.fld codHead 15 0 = (ringAdvance (codSize s) (codSize s) (s.fld codHead 15 0) (s.codec.done ++ [j.index])).1 % 65536) ∧
  (
    (∀ (u : Fin 8) (s : State), memDown s = false → s.fatal = false →
      (s.codec.jobs.any (fun j => j.unit == some u.val) = true ∨ pickJob s (unitOp u.val) = none → exec (.codecUnitSchedule u) s = .next s) ∧
      (∀ j, s.codec.jobs.any (fun j => j.unit == some u.val) = false → pickJob s (unitOp u.val) = some j →
        ∃ t, exec (.codecUnitSchedule u) s = .next t ∧ t.mem = s.mem ∧ t.engines = s.engines ∧
          (∀ st, j.op ≠ 6 → refusal (cslot s j.slot) j = some st → endedWith t j st ∧ t.codec.last = s.codec.last) ∧
          (j.op = 6 ∨ refusal (cslot s j.slot) j = none → (∀ y ∈ t.codec.jobs, y.index = j.index → y.unit = some u.val) ∧
            t.codec.last = (if tooLate s j then j.slot else s.codec.last) ∧
            (j.op ≠ 6 → (cslot t j.slot).infl = (cslot s j.slot).infl + 1))) ∧
      (s.codec.jobs.find? (fun j => j.unit == some u.val) = none → exec (.codecDecode u) s = .next s ∧ exec (.codecEncode u) s = .next s ∧
        exec (.msearch u) s = .next s ∧ exec (.frameTimeout u) s = .next s)) ∧
    (∀ (u : Fin 8) (j : CJob) (s : State), memDown s = false → s.fatal = false → s.codec.jobs.find? (fun j => j.unit == some u.val) = some j →
      (frameBehind s j = true → exec (.codecDecode u) s = .next s ∧ exec (.codecEncode u) s = .next s ∧ exec (.frameTimeout u) s = .next s) ∧
      (j.op = 2 → j.ran < frameBound (cslot s j.slot) → exec (.frameTimeout u) s = .next s)) ∧
    (∀ (u : Fin 8) (timeout : Bool) (j : CJob) (s t : State) (m : MemEnd) (au : List Byte), memDown s = false → s.fatal = false →
      s.codec.jobs.find? (fun j => j.unit == some u.val) = some j → j.op = 2 → frameBehind s j = false →
      (timeout = true → frameBound (cslot s j.slot) ≤ j.ran) → memRead s .codec (j.f 1 47 0) (j.f 2 31 0) = (t, m, au) → (m ≠ .wait ∨ timeout = true) →
      let cmd : Instr := if timeout then .frameTimeout u else .codecDecode u
      (∃ v, exec cmd s = .next v ∧ v.ctxs = s.ctxs ∧ v.flash = s.flash ∧
        (∀ y ∈ v.codec.jobs, y.index = j.index → y.unit = none ∧ y.ended.isSome = true) ∧ ∀ n, n ≠ j.slot → cslot v n = cslot s n) ∧
      let x := ((cslot s j.slot).leave j.buf).take (if timeout then 1 else 0) au
      let ps := planes x.record (frameSize x).1 (frameSize x).2
      let stop := if timeout then 0 else stopOf x
      let used := if stop = 2 then 0 else x.used
      let bad := timeout || stop != 0
      (m = .ok ∨ (m = .wait ∧ timeout = true)) → (timeout = false → j.ran ≤ frameBound (cslot s j.slot) ∧ shownBuffer x = none) →
      (∀ p ∈ ps, ∀ y < p.2.2.2, rowOutside x.record (planeAt x.record j.buf p + p.2.1 * y) p.2.2.1 = false) →
      ∀ l q w, loadArea t x = (l, .ok) → readAll (refRows x used) l = (q, .ok) →
        writeFrame x.record j.buf (decodedRow x ps (conceals x stop bad)) ps.zipIdx q = (w, .ok) →
        ∃ v, exec cmd s = .next v ∧ v.mem = (saveArea w x).1.mem ∧ ∀ y ∈ v.codec.jobs, y.index = j.index → y.unit = none ∧ ∃ c, y.ended = some
          (if (saveArea w x).2 = .ok then ⟨if bad then 2 else 1,
            decodeRes x ps j.buf stop false timeout (x.damaged &&& used != 0) (if bad then damagedBlocks x ps stop bad else 0), c, false⟩
           else ⟨5, 0, c, true⟩)) ∧
    (∀ (u : Fin 8) (j : CJob) (s t : State) (m : MemEnd) (src : List Byte), memDown s = false → s.fatal = false →
      s.codec.jobs.find? (fun j => j.unit == some u.val) = some j → j.op = 3 → frameBehind s j = false →
      let r := (cslot s j.slot).record
      let ps := planes r (bits (r.getD 0 0) 47 34 + 1) (bits (r.getD 0 0) 33 20 + 1)
      readFrame (j.f 1 47 0) ps s = (t, m, src) → m ≠ .wait →
      (∃ v, exec (.codecEncode u) s = .next v ∧ v.ctxs = s.ctxs ∧ v.flash = s.flash ∧
        (∀ y ∈ v.codec.jobs, y.index = j.index → y.unit = none ∧ y.ended.isSome = true) ∧ ∀ n, n ≠ j.slot → cslot v n = cslot s n) ∧
      let x := ((cslot s j.slot).leave j.buf).take (2 * j.f 4 8 0) src
      let n := Config.encode r x.hist none
      m = .ok → n ≤ j.f 2 31 0 → ∀ l q w z, loadArea t x = (l, .ok) → readAll (refRows x (if j.f 4 8 8 = 1 then 0 else x.refs)) l = (q, .ok) →
        memWrite q .codec (j.f 3 47 0) ((List.range n).map fun i => BitVec.ofNat 8 (Config.encode r x.hist (some i))) = (w, .ok) →
        writeFrame r j.buf (encodedRow x ps) ps.zipIdx w = (z, .ok) → ∃ v, exec (.codecEncode u) s = .next v ∧ v.mem = (saveArea z x).1.mem ∧
          ∀ y ∈ v.codec.jobs, y.index = j.index → y.unit = none ∧ ∃ c,
            y.ended = some (if (saveArea z x).2 = .ok then ⟨1, 0, c, false⟩ else ⟨5, 0, c, true⟩) ∧
            ((saveArea z x).2 = .ok → c % 2 ^ 32 = n % 2 ^ 32)) ∧
    ∀ (u : Fin 8) (j : CJob) (s t : State) (m : MemEnd) (pb : List Byte), memDown s = false → s.fatal = false →
      s.codec.jobs.find? (fun j => j.unit == some u.val) = some j → j.op = 6 → memRead s .codec (j.f 1 47 0) 64 = (t, m, pb) →
      let f (i hi lo : Nat) := bits ((words8 pb).getD i 0) hi lo
      let w := f 3 63 50 + 1
      let h := f 3 49 36 + 1
      let b := if f 3 35 35 = 1 then 16 else 8
      let bps := if f 3 34 34 = 1 then 2 else 1
      let wx := windowSpan w b (sext 16 (f 5 63 48)) 256 512
      let wy := windowSpan h b (sext 16 (f 5 47 32)) 128 256
      let out := 8192 < w ∨ 4320 < h ∨ f 2 55 32 % 64 ≠ 0 ∨ f 2 23 0 % 64 ≠ 0 ∨ hbmSize < j.f 3 47 0 + 8 * ((w + b - 1) / b * ((h + b - 1) / b))
      (m ≠ .ok → m ≠ .wait → exec (.msearch u) s = .next (endJob t j.index 5 true)) ∧
      (m = .ok → out → exec (.msearch u) s = .next (endJob t j.index 3 false)) ∧
      (m = .ok → ¬out → ∀ c cur r ref z,
        readPlane (f 0 47 0) (f 2 23 0) (w * bps) (List.range h) t = (c, .ok, cur) → 
        readPlane (f 1 47 0 + f 2 55 32 * wy.1 + bps * wx.1) (f 2 55 32) (wx.2 * bps) (List.range wy.2) c = (r, .ok, ref) →
        let q : Search := { words := words8 pb, field := j.f 3 47 0, w := w, h := h, b := b, gx := sext 16 (f 5 63 48), gy := sext 16 (f 5 47 32),
                            lambda := f 3 15 0, cur := cur, rx := wx.1, ry := wy.1, rw := wx.2, ref := ref, bps := bps }
        searchBlocks q (f 4 47 0) (List.range q.blocks) r = (z, .ok) → ∃ v, exec (.msearch u) s = .next v ∧ v.mem = z.mem ∧
          endedWith v j 1 ∧ ∀ y ∈ v.codec.jobs, y.index = j.index → y.unit = none))

/-! ## The fabric -/

/-- R338 to R340, Table 14-2: the training of a slip, each event in the state that it belongs to and without effect in the others. FAILED (6) holds its reason.
CONFIG brings the slip UP (5) at the widest usable width, with the partner's identity, or fails it.
R340, R358, R361: what takes an UP or LP slip down. Its link state is gone, a LINKDOWN record is appended, and it trains again where the cause or RETRAIN on
link-down asks for it; a slip in another state stays. A RETRAIN of a slip that is down begins its training; one that is disabled stays DOWN; the wake pattern leaves on a
slip that is not UP. -/
def Obligations.SlipResults : Prop :=
  (
    ∀ (n : SlipId) (ok : Bool) (s : State),
      let st := slipState s n.val
      let quiet (t : State) : Prop := t.mem = s.mem ∧ t.engines = s.engines ∧ ∀ k, k < 16 → k ≠ n.val → slipState t k = slipState s k
      let failed (t : State) (reason : Nat) : Prop := slipState t n.val = 6 ∧ t.fld (slipReg n.val 4) 3 0 = reason ∧ quiet t
      (st = 1 → s.fld (slipReg n.val 0) 31 31 = 1 → ∃ t, exec (.slipDetect n) s = .next t ∧
        slipState t n.val = (if SMap.get zeroNat s.dcr.slips n.val ≠ 0 then 3 else 2) ∧ quiet t) ∧
      (st ≠ 1 → exec (.slipDetect n) s = .next s ∧ exec (.detectTimeout n) s = .next s) ∧
      (st = 1 → (slipOf s n.val).detectUs + 1000 * max 1 (s.fld (slipReg n.val 0) 15 8) ≤ s.us → ∃ t, exec (.detectTimeout n) s = .next t ∧ failed t 1) ∧
      (st = 1 → s.us < (slipOf s n.val).detectUs + 1000 * max 1 (s.fld (slipReg n.val 0) 15 8) → exec (.detectTimeout n) s = .next s) ∧
      (st = 3 → ∃ t, exec (.fasteqDone n ok) s = .next t ∧ slipState t n.val = (if ok then 4 else 2) ∧ quiet t) ∧
      (st ≠ 3 → exec (.fasteqDone n ok) s = .next s) ∧
      (st = 2 → ok = true → ∃ t, exec (.eqAttemptDone n ok) s = .next t ∧ slipState t n.val = 4 ∧ quiet t) ∧
      (st = 2 → ok = false → (slipOf s n.val).eqTries < 2 → ∃ t, exec (.eqAttemptDone n ok) s = .next t ∧ slipState t n.val = 2 ∧
        (slipOf t n.val).eqTries = (slipOf s n.val).eqTries + 1 ∧ quiet t) ∧
      (st = 2 → ok = false → 2 ≤ (slipOf s n.val).eqTries → ∃ t, exec (.eqAttemptDone n ok) s = .next t ∧ failed t 2) ∧
      (st ≠ 2 → exec (.eqAttemptDone n ok) s = .next s) ∧
      (st = 6 → s.fld (slipReg n.val 0) 7 0 ≠ 0 → (slipOf s n.val).failUs + 1000000 * s.fld (slipReg n.val 0) 7 0 ≤ s.us →
        ∃ t, exec (.redetectTimer n) s = .next t ∧ slipState t n.val = 1 ∧ quiet t) ∧
      (st ≠ 6 ∨ s.fld (slipReg n.val 0) 7 0 = 0 → exec (.redetectTimer n) s = .next s) ∧
      ∀ (mine theirs inv : BitVec 8) (order : Fin 3) (uid : Word64) (pslip : SlipId) (peer : BitVec 24),
        let cfg : Instr := .slipConfig n mine theirs order inv uid pslip peer
        let pass := (mine &&& theirs).toNat
        let known := (slipOf s n.val).fast = false ∨ SMap.get zeroNat s.dcr.slips n.val = 16 * uid.toNat + pslip.val + 1
        (st ≠ 4 → exec cfg s = .next s) ∧
        (st = 4 → order.val = 2 → ∃ t, exec cfg s = .next t ∧ failed t 4) ∧
        (st = 4 → order.val ≠ 2 → ¬known → ∃ t, exec cfg s = .next t ∧ slipState t n.val = 2 ∧ quiet t) ∧
        (st = 4 → order.val ≠ 2 → known → slipWidth pass = none → ∃ t, exec cfg s = .next t ∧ failed t 3) ∧
        (∀ w, st = 4 → order.val ≠ 2 → known → slipWidth pass = some w → w < 2 ^ s.fld (slipReg n.val 0) 25 24 →
          ∃ t, exec cfg s = .next t ∧ failed t 3) ∧
        ∀ w, st = 4 → order.val ≠ 2 → known → slipWidth pass = some w → 2 ^ s.fld (slipReg n.val 0) 25 24 ≤ w →
          ∃ t, exec cfg s = .next t ∧ slipState t n.val = 5 ∧ 2 ^ t.fld (slipReg n.val 4) 27 26 = w ∧ t.fld (slipReg n.val 4) 23 16 = pass ∧
            t.fld (slipReg n.val 4) 15 8 = inv.toNat ∧ t.reg64 (slipReg n.val 0x10) = uid.toNat ∧ t.fld (slipReg n.val 8) 27 24 = pslip.val ∧
            t.fld (slipReg n.val 8) 12 0 = peer.toNat % 2 ^ 13 ∧ quiet t) ∧
  (
    ∀ (n : SlipId) (s : State),
      let st := slipState s n.val
      let up := st = 5 ∨ st = 7
      let again := s.fld (slipReg n.val 0) 30 30 = 1
      let quiet (t : State) : Prop := t.mem = s.mem ∧ t.engines = s.engines ∧ ∀ k, k < 16 → k ≠ n.val → slipState t k = slipState s k
      (∀ i ∈ [Instr.lossOfSignal n, .partnerLinkDown n], (¬up → exec i s = .next s) ∧
        (up → ∃ t, exec i s = .next t ∧ slipState t n.val = (if again then 1 else 0) ∧ (slipOf t n.val).retry = [] ∧ (slipOf t n.val).out = [] ∧
          (slipOf t n.val).parts = [] ∧ t.fld (slipReg n.val 0) 28 28 = 0 ∧ t.errSeq = (s.errSeq + 1) % 2 ^ 32 ∧ quiet t)) ∧
      (s.writable (slipReg n.val 0) = true →
        (s.fld (slipReg n.val 0) 31 31 = 0 → exec (.slipRetrain n) s = .next s) ∧
        (s.fld (slipReg n.val 0) 31 31 = 1 → ∃ t, exec (.slipRetrain n) s = .next t ∧ slipState t n.val = 1 ∧
          t.errSeq = (if st = 5 ∨ st = 7 then (s.errSeq + 1) % 2 ^ 32 else s.errSeq) ∧ quiet t) ∧
        (∃ t, exec (.slipDisable n) s = .next t ∧ slipState t n.val = 0 ∧ t.fld (slipReg n.val 0) 31 31 = 0 ∧ quiet t) ∧
        (st ≠ 5 → exec (.wakePatternSend n) s = .next { s with fabric := { s.fabric with wakes := s.fabric.wakes ++ [n.val] } }) ∧
        (st = 5 → exec (.wakePatternSend n) s = .next s)))

/-- R341, R344, R345, R358, R360: flits that a slip receives. A slip that is not UP takes none; a flit whose CRC is inverted is dropped, and one whose CRC is wrong is
counted; a DATA flit in sequence is accepted: a HEAD brings its message to the router or, source-routed and whole, to this device; one out of sequence is answered with
one NAK and discarded. On a slip with nothing to send: an IDLE flit brings its acknowledgement and credits; a NAK has everything from its SEQ sent again, each SEQ
counted, or where one of them is at the retry limit takes the slip down; a CUT discards the partial message of its channel and is counted; LPREQ and LPACK lead to LP, and an exit back to UP.
That a CUT is counted at the device that receives it is the model's (log entry 67). -/
def Obligations.FlitResults : Prop :=
  ∀ (n : SlipId) (b : List Byte) (s : State),
    let g := slipOf s n.val
    let f := dataOf b
    let quiet (t : State) : Prop := t.mem = s.mem ∧ t.engines = s.engines
    let kept (t : State) : Prop := t.fabric.inbox = s.fabric.inbox ∧ t.fabric.routing = s.fabric.routing ∧ (slipOf t n.val).rxSeq = g.rxSeq ∧ quiet t
    let head := takeHeader s n.val (linkWord b)
    let others := [Instr.idleFlitReceive n b, .nak n b, .cut n b, .lpreq n b, .lpack n b]
    (slipState s n.val ≠ 5 → ∀ i ∈ Instr.dataFlitReceive n b :: others, exec i s = .next s) ∧
    (crcOf b = .inverted → ∀ i ∈ Instr.dataFlitReceive n b :: others, exec i s = .next s) ∧
    (slipState s n.val = 5 → crcOf b = .bad → (∀ i ∈ others, exec i s = .next (s.count (slipReg n.val 0x18) 31 16 1)) ∧
      ∃ t, exec (.dataFlitReceive n b) s = .next t ∧ kept t ∧
        t.fld (slipReg n.val 0x18) 31 16 = min (s.fld (slipReg n.val 0x18) 31 16 + 1) 65535) ∧
    (slipState s n.val = 5 → crcOf b = .good → flitType b = 1 →
      (bits (linkWord b) 59 48 = g.rxSeq → ∃ t, exec (.dataFlitReceive n b) s = .next t ∧ (slipOf t n.val).rxSeq = (g.rxSeq + 1) % 4096 ∧
        (slipOf t n.val).rxAny = true ∧ quiet t ∧
        (f.head = true → (msgOf [f]).sourceRouted = true → t.fabric.routing = s.fabric.routing ∧
          t.fabric.inbox = s.fabric.inbox ++ (if f.tail then [(msgOf [f], n.val)] else [])) ∧
        (f.head = true → (msgOf [f]).sourceRouted = false → t.fabric.inbox = s.fabric.inbox ∧
          t.fabric.routing = s.fabric.routing ++ [{ msg := msgOf [f], slip := n.val, flits := [f], whole := f.tail }]) ∧
        (f.head = false → (ingressOf s n.val f).goes = .waiting → t.fabric.inbox = s.fabric.inbox ∧
          t.fabric.routing = s.fabric.routing.map (joinTransit n.val f)) ∧
        (f.head = false → f.tail = true → (ingressOf s n.val f).goes = .here → t.fabric.routing = s.fabric.routing ∧
          t.fabric.inbox = s.fabric.inbox ++ [(msgOf ((ingressOf s n.val f).flits ++ [f]), n.val)])) ∧
      (bits (linkWord b) 59 48 ≠ g.rxSeq → ∃ t, exec (.dataFlitReceive n b) s = .next t ∧ kept t ∧ (slipOf t n.val).awaiting = true ∧
        t.fld (slipReg n.val 0x18) 15 0 = (if g.awaiting then s.fld (slipReg n.val 0x18) 15 0 else min (s.fld (slipReg n.val 0x18) 15 0 + 1) 65535))) ∧
    (slipState s n.val = 5 → crcOf b = .good → g.out = [] →
      (flitType b = 2 → exec (.idleFlitReceive n b) s = .next head) ∧
      (flitType b = 3 → (slipOf head n.val).retry.dropWhile (fun p => p.1 != bits (linkWord b) 47 36) = [] → exec (.nak n b) s = .next
        (if (slipOf head n.val).txSeq = bits (linkWord b) 47 36 then setSlip head n.val { slipOf head n.val with retry := [], resends := [] } else head)) ∧
      (∀ p rest, flitType b = 3 → (slipOf head n.val).retry.dropWhile (fun p => p.1 != bits (linkWord b) 47 36) = p :: rest →
        let again (r : Nat × Flit) : Nat := SMap.get zeroNat (slipOf head n.val).resends r.1
        ((∃ r ∈ p :: rest, max 1 (s.fld (slipReg n.val 0x20) 7 0) ≤ again r) → exec (.nak n b) s = .next (linkDown head n.val 2)) ∧
        ((∀ r ∈ p :: rest, again r < max 1 (s.fld (slipReg n.val 0x20) 7 0)) → ∃ t, exec (.nak n b) s = .next t ∧ (slipOf t n.val).retry = p :: rest ∧
          t.fabric.flits.length = s.fabric.flits.length + (p :: rest).length ∧ quiet t ∧
          (((p :: rest).map (·.1)).Nodup → ∀ r ∈ p :: rest, SMap.get zeroNat (slipOf t n.val).resends r.1 = again r + 1))) ∧
      (flitType b = 6 → ∃ t, exec (.cut n b) s = .next t ∧ quiet t ∧ (ingressOf t n.val f).goes = .none ∧
        t.fld (slipReg n.val 0x1C) 15 0 = (if (ingressOf s n.val f).goes = .none then s.fld (slipReg n.val 0x1C) 15 0
          else min (s.fld (slipReg n.val 0x1C) 15 0 + 1) 65535)) ∧
      (flitType b = 4 → ∃ t, exec (.lpreq n b) s = .next t ∧ slipState t n.val = 7 ∧ t.fabric.flits.length = s.fabric.flits.length + 1 ∧ quiet t) ∧
      (flitType b = 5 → ∃ t, exec (.lpack n b) s = .next t ∧ slipState t n.val = (if g.lpWait then 7 else 5) ∧ quiet t)) ∧
    ∀ partner : Bool, (slipState s n.val = 7 → partner = true ∨ g.lpOut = true → ∃ t, exec (.lpExit n partner) s = .next t ∧ slipState t n.val = 5 ∧ quiet t) ∧
      (slipState s n.val ≠ 7 ∨ (partner = false ∧ g.lpOut = false) → exec (.lpExit n partner) s = .next s)

/-- R350 to R354, R360, R362: the message whose HEAD is next at the router, by its route entry as it stands then. It is delivered here once it is whole, or leaves on
the slip that R351 picks, UP or else in LP, with its TTL lowered, what still comes in following it; a message that cannot go is discarded and counted, and a request is
then answered with an error: to another device, or at once to the requester of this one (slip 16). A request for a device that has not joined is refused. That a
request of this device is routed by LD0's table is the model's choice (log entry 68), as are a slip in LP as the second choice, no route while FAB_ID.VALID is 0, and
the answer at once to the own requester (log entry 69). -/
def Obligations.RouterResults : Prop :=
  ∀ (x : Transit) (rest : List Transit) (s : State), s.fabric.routing = x :: rest →
    let m := x.msg
    let n := x.slip
    let u : State := { s with fabric := { s.fabric with routing := rest } }
    let e := routeEntry s (dieOf n) m.dst
    let die := ldReg (dieOf n) 0x20
    let quiet (t : State) : Prop := t.mem = s.mem ∧ t.engines = s.engines
    let answered (t : State) (code : Nat) : Prop := quiet t ∧
      if m.rsp then t.fabric.routing = rest ∧ t.fabric.inbox = s.fabric.inbox
      else ∃ r : Msg, r.err = true ∧ r.ecode = code ∧ r.dst = m.src ∧ r.tag = m.tag ∧ r.rq = m.rq ∧
        (if n = 16 then t.fabric.routing = rest ∧ t.fabric.inbox = s.fabric.inbox ++ [(r, 16)]
          else t.fabric.routing = rest ++ [{ msg := r }] ∧ t.fabric.inbox = s.fabric.inbox)
    let lost (t : State) : Prop := answered t 1 ∧ t.fld die 15 0 = min (s.fld die 15 0 + 1) 65535
    let up := pickSlip m (bits e 15 0) (routeMask s 5)
    let lp := pickSlip m (bits e 15 0) (routeMask s 7)
    (s.fld fabId 31 31 = 0 → ∃ t, exec .routeMessage s = .next t ∧ lost t) ∧
    (s.fld fabId 31 31 = 1 → m.dst = ownId s → s.fld fabCtl 30 30 = 1 ∨ m.vc = 0 → exec .routeMessage s = .next (routeHere u x) ∧
      (n = 16 → routeHere u x = { u with fabric := { u.fabric with inbox := s.fabric.inbox ++ [(m, n)] } }) ∧
      (n ≠ 16 → x.whole = true → routeHere u x = { u with fabric := { u.fabric with inbox := s.fabric.inbox ++ [(msgOf x.flits, n)] } })) ∧
    (s.fld fabId 31 31 = 1 → m.dst = ownId s → s.fld fabCtl 30 30 = 0 → m.vc ≠ 0 → ∃ t, exec .routeMessage s = .next t ∧ answered t 5) ∧
    (s.fld fabId 31 31 = 1 → m.dst ≠ ownId s → bit e 31 = false → ∃ t, exec .routeMessage s = .next t ∧ lost t) ∧
    (s.fld fabId 31 31 = 1 → m.dst ≠ ownId s → bit e 31 = true →
      (up = none → lp = none → ∃ t, exec .routeMessage s = .next t ∧ lost t) ∧
      ∀ p, up = some p ∨ (up = none ∧ lp = some p) →
        (m.ttl = 0 → ∃ t, exec .routeMessage s = .next t ∧ answered t 2 ∧ t.fld die 31 16 = min (s.fld die 31 16 + 1) 65535) ∧
        (0 < m.ttl → exec .routeMessage s = .next (routeOut u x p) ∧ (n = 16 → routeOut u x p = sendOn u p { m with ttl := m.ttl - 1 }))) ∧
    ∀ p : Nat, (slipState s p = 7 → p < 16 → ∀ k, (sendOn s p k).fabric.flits = s.fabric.flits ∧ (slipOf (sendOn s p k) p).lpOut = true)

/-- R32, R261, R342, R343, R359: the request that heads the inbox is served on the memory it names and answered to its source; a read, a write and
an add-write that cannot be served are answered with an error, as is every one of these during a compute-only reset. A response ends the request that it
matches and is counted as stale where it matches none; a request whose time is over ends with error.
R292, R293: neighbour fetch. The source answers a request under an established session with its peer by sealed data, and counts the response; without one it refuses.
The requester opens a sealed response that its tag verifies and holds the plaintext for its command; one that matches no request is counted as stale. A request that
waits for a TAG starts when one is free. That a response is sealed with empty associated data, its tag behind the ciphertext, is the model's choice (log entry 60),
as is REFUSED for a misaligned ADDW or ATOM (log entry 71). -/
def Obligations.RemoteRequestsAndFetches : Prop :=
  (
    (∀ (m : Msg) (n : Nat) (rest : List (Msg × Nat)) (s : State), s.fabric.inbox = (m, n) :: rest → s.fatal = false →
      let u := freeBuffers { s with fabric := { s.fabric with inbox := rest } } n m.vc m.rsp m.held
      let w := elemSize m.aty
      let sent (t : State) (op code : Nat) (data : List Byte) : Prop := t.fabric.inbox = rest ∧ ∃ r : Msg, t.fabric.routing = s.fabric.routing ++ [{ msg := r }] ∧
        r.op = op ∧ r.dst = m.src ∧ r.tag = m.tag ∧ r.rq = m.rq ∧ r.err = decide (code ≠ 0) ∧ r.ecode = code ∧ r.data = data
      (s.compReset = true → (m.op = 1 → m.rq ≠ nfRq → ∃ t, exec .rd s = .next t ∧ sent t 2 7 [] ∧ t.mem = s.mem) ∧
        (m.op = 3 → ∃ t, exec .wr s = .next t ∧ sent t 4 7 [] ∧ t.mem = s.mem) ∧ (m.op = 5 → ∃ t, exec .remoteAddw s = .next t ∧ sent t 4 7 [] ∧ t.mem = s.mem) ∧
        (m.op = 6 → ∃ t, exec .remoteAtom s = .next t ∧ sent t 7 7 [] ∧ t.mem = s.mem)) ∧
      (s.compReset = false → memDown s = false →
        (∀ x d, m.op = 1 → m.rq ≠ nfRq → memRead u .remote m.addr m.len = (x, .ok, d) →
          ∃ t, exec .rd s = .next t ∧ sent t 2 0 d ∧ t.mem = x.mem ∧ t.engines = x.engines) ∧
        (m.op = 1 → m.rq ≠ nfRq → (places u m.addr m.len).any (fun p => !reaches .remote p) = true →
          ∃ t, exec .rd s = .next t ∧ sent t 2 3 [] ∧ t.mem = s.mem ∧ t.engines = s.engines) ∧
        (∀ x, m.op = 3 → memWrite u .remote m.addr (m.data.take m.len) = (x, .ok) →
          ∃ t, exec .wr s = .next t ∧ sent t 4 0 [] ∧ t.mem = x.mem ∧ t.engines = x.engines) ∧
        (m.op = 3 → (places u m.addr (m.data.take m.len).length).any (fun p => !reaches .remote p) = true →
          ∃ t, exec .wr s = .next t ∧ sent t 4 3 [] ∧ t.mem = s.mem ∧ t.engines = s.engines) ∧
        (m.op = 5 → m.aty < 4 → m.aop < 3 → m.addr % w = 0 → m.len % w = 0 → allHbm u m.addr m.len = true → ∃ t, exec .remoteAddw s = .next t ∧ sent t 4 0 [] ∧
          t.mem = (addElements u m.aty m.aop m.addr (m.len / w) m.data).mem) ∧
        (m.op = 5 → 4 ≤ m.aty ∨ 3 ≤ m.aop ∨ m.addr % w ≠ 0 ∨ m.len % w ≠ 0 ∨ allHbm u m.addr m.len = false → ∃ t, exec .remoteAddw s = .next t ∧ sent t 4 3 [] ∧
          t.mem = s.mem ∧ t.engines = s.engines) ∧
        (∀ x old, m.op = 6 → m.aty < 4 → m.aop < 3 → m.addr % w = 0 → m.len = w → adderOp u 1 m.addr m.aty m.aop (leNat (m.data.take w)) = (x, .ok, old) →
          ∃ t, exec .remoteAtom s = .next t ∧ sent t 7 0 (leBytes w old) ∧ t.mem = x.mem))) ∧
    (∀ (m : Msg) (n : Nat) (rest : List (Msg × Nat)) (s : State), s.fabric.inbox = (m, n) :: rest → s.fatal = false →
      let u := freeBuffers { s with fabric := { s.fabric with inbox := rest } } n m.vc m.rsp m.held
      ∀ i ∈ (if m.op = 2 ∧ m.rq ≠ nfRq then [Instr.rdrsp] else if m.op = 4 then [Instr.wrack] else if m.op = 7 then [Instr.atomrsp] else []),
        let mine (q : RemoteReq) : Bool := q.tag == m.tag && q.rq == m.rq && q.status == 0 && q.msg.isNone
        let ended (q : RemoteReq) : RemoteReq := if m.err then { q with status := 2, ecode := m.ecode } else { q with status := 1, data := m.data.take q.len }
        let reqs := s.fabric.reqs.map fun q => if mine q then ended q else q
        (s.fabric.reqs.any mine = true → exec i s = .next (tagsFree { u with fabric := { u.fabric with reqs := reqs } } m.rq)) ∧
        (s.fabric.reqs.any mine = false → ∃ t, exec i s = .next t ∧ t.fabric = u.fabric ∧ t.mem = s.mem ∧ t.engines = s.engines ∧
          t.fld (ldReg (dieOf n) 0x24) 15 0 = min (s.fld (ldReg (dieOf n) 0x24) 15 0 + 1) 65535)) ∧
    ∀ (tag : BitVec 16) (s : State),
      (s.fatal = true ∨ s.fabric.reqs.find? (fun q => q.tag == tag.toNat && reqExpired s q) = none → exec (.remoteRequestTimeout tag) s = .next s) ∧
      ∀ q, s.fatal = false → s.fabric.reqs.find? (fun q => q.tag == tag.toNat && reqExpired s q) = some q →
        let u : State := tagsFree { s with fabric := { s.fabric with reqs := s.fabric.reqs.filter (· != q) } } q.rq
        (q.op ≠ 8 → exec (.remoteRequestTimeout tag) s = .next (tagsFree
          { s with fabric := { s.fabric with reqs := s.fabric.reqs.map fun r => if r = q then { r with status := 2 } else r } } q.rq)) ∧
        (q.op = 8 → exec (.remoteRequestTimeout tag) s = .next (match s.coll.steps.find? (fun x => x.id == q.id && 0x60 + x.die == q.rq) with
          | some x => failStep u x 3 0
          | none => u))) ∧
  (
    ∀ (m : Msg) (n : Nat) (rest : List (Msg × Nat)) (s : State), s.fabric.inbox = (m, n) :: rest → s.fatal = false → memDown s = false → m.rq = nfRq →
      let u := freeBuffers { s with fabric := { s.fabric with inbox := rest } } n m.vc m.rsp m.held
      let seq := SMap.get zeroNat s.flash.sessSeq m.sess
      let key := SMap.get noBytes s.flash.sessKeys m.sess
      (m.op = 1 → s.compReset = false → sessValid s m.sess = true → s.fld (sess m.sess) 11 0 = m.src → seq < 2 ^ 40 →
        ∀ x d, memRead u .remote m.addr m.len = (x, .ok, d) → ∃ t, ∃ r : Msg, exec .nfetchRequestServe s = .next t ∧
          t.fabric.routing = s.fabric.routing ++ [{ msg := r }] ∧ r.dst = m.src ∧ r.tag = m.tag ∧ r.seq = seq ∧ r.sess = m.sess ∧ r.data = (gcmSeal key (nfIv m.sess seq) [] d).1 ++ (gcmSeal key (nfIv m.sess seq) [] d).2 ∧
          SMap.get zeroNat t.flash.sessSeq m.sess = seq + 1 ∧ t.mem = x.mem) ∧
      (m.op = 1 → s.compReset = false → sessValid s m.sess = false ∨ s.fld (sess m.sess) 11 0 ≠ m.src ∨ 2 ^ 40 ≤ seq →
        ∃ t, ∃ r : Msg, exec .nfetchRequestServe s = .next t ∧ t.fabric.routing = s.fabric.routing ++ [{ msg := r }] ∧ r.dst = m.src ∧ r.tag = m.tag ∧ r.err = true ∧
          r.ecode = 6 ∧ r.data = [] ∧ t.flash = s.flash ∧ t.mem = s.mem) ∧
      (m.op = 2 → s.fabric.reqs.find? (matches' m) = none → ∃ t, exec .nfetchResponse s = .next t ∧ t.mem = s.mem ∧ t.engines = s.engines ∧
        t.fabric = u.fabric ∧ t.fld (ldReg (dieOf n) 0x24) 15 0 = min (s.fld (ldReg (dieOf n) 0x24) 15 0 + 1) 65535) ∧
      ∀ q c pt x, m.op = 2 → s.fabric.reqs = [q] → matches' m q = true → s.flash.cmds.find? (fun c => c.index == q.id && c.op == 5) = some c →
        m.err = false → m.sess = c.f 4 7 0 → sessValid s m.sess = true →
        gcmOpen key (nfIv m.sess m.seq) [] (m.data.take 4096) ((m.data.drop 4096).take 16) = some pt →
        memWrite { u with fabric := { u.fabric with reqs := [{ q with status := 1, data := pt }] } } .flash (c.daddr + q.pos) pt = (x, .ok) →
        ∃ t, exec .nfetchResponse s = .next t ∧ t.mem = x.mem ∧ t.engines = x.engines ∧ ∀ r ∈ t.fabric.reqs, r.status = 3)

/-- R355 to R357: source-routed messages. One that is not at its end goes on along its PATH on a slip that is UP and is discarded on one that is not; a register read or
write for this device is done and answered along the way it came, and refused while LOCK is 1; a reply at its end stands in the reply buffer while COUNT is below LIMIT;
a probe seen before is dropped, and a new one is recorded; FAB_SR_MSG.GO sends the message in memory. Each hop takes 1 from the TTL of the flits, and a message
that would leave with TTL 0 is discarded and counted (R352; that a CFG request is then answered with ERR is the model's choice, log entry 146). That a reply goes to the
buffer and the count of the die of the slip it came on, and that each sender shifts PATH, are the model's choices (log entry 70). -/
def Obligations.SourceRoutedMessages : Prop :=
  (∀ (m0 : Msg) (n : Nat) (rest : List (Msg × Nat)) (s : State), s.fabric.inbox = (m0, n) :: rest → s.fatal = false →
    let u := freeBuffers { s with fabric := { s.fabric with inbox := rest } } n m0.vc m0.rsp m0.held
    let m := arrive m0 n
    let d := dieOf n
    (∀ i ∈ (if m0.op = 0xA then [Instr.preply] else if m0.op = 0xB then [Instr.cfgrd] else if m0.op = 0xC then [Instr.cfgwr]
        else if m0.op = 0xD then [Instr.cfgrsp] else []), bits m0.path 63 60 ≠ 0 → exec i s = .next (sendPath u m)) ∧
    (m0.op = 9 → s.fabric.probes.contains (m0.ouid, m0.tag) = true → exec .probe s = .next u) ∧
    (m0.op = 9 → s.fabric.probes.contains (m0.ouid, m0.tag) = false → ∃ t, exec .probe s = .next t ∧ t.mem = s.mem ∧ t.engines = s.engines ∧
      t.fabric.probes = ((m0.ouid, m0.tag) :: s.fabric.probes).take 16) ∧
    (m0.op = 0xB → bits m0.path 63 60 = 0 → ∀ o, cfgOffset m0.off = some o →
      exec .cfgrd s = .next (sendPath (plainRead u o).1 (pathReply (plainRead u o).1 m 0xD (leBytes 8 (plainRead u o).2)))) ∧
    (m0.op = 0xB → bits m0.path 63 60 = 0 → cfgOffset m0.off = none → exec .cfgrd s = .next (sendPath u (pathReply u m 0xD (leBytes 8 0)))) ∧
    (m0.op = 0xC → bits m0.path 63 60 = 0 → s.fld fabCtl 31 31 = 0 → cfgOffset m0.off = none →
      exec .cfgwr s = .next (sendPath u (pathReply u m 0xD (leBytes 8 (leNat (m0.data.take 4)))))) ∧
    (m0.op = 0xC → bits m0.path 63 60 = 0 → s.fld fabCtl 31 31 = 1 → exec .cfgwr s = .next
      (let t := u.appendRecord 0x08 0x05 0 none none m0.off m0.ouid
       sendPath t (pathReply t m 0xD (leBytes 8 (2 ^ 63))))) ∧
    (m0.op = 0xC → bits m0.path 63 60 = 0 → s.fld fabCtl 31 31 = 0 → ∀ o, cfgOffset m0.off = some o → exec .cfgwr s = .next
      (let t := linkWrite32 u o (leNat (m0.data.take 4))
       sendPath t (pathReply t m 0xD (leBytes 8 (leNat (m0.data.take 4)))))) ∧
    ∀ i ∈ (if m0.op = 0xA then [Instr.preply] else if m0.op = 0xD then [Instr.cfgrsp] else []), bits m0.path 63 60 = 0 →
      (s.fld (srStat d) 31 16 ≤ s.fld (srStat d) 15 0 → exec i s = .next u) ∧
      ∀ t e, s.fld (srStat d) 15 0 < s.fld (srStat d) 31 16 →
        memWrite u .sched (s.fld64 (srBuf d) 47 6 * 64 + 64 * s.fld (srStat d) 15 0) (resize 64 m.bytes) = (t, e) →
        exec i s = .next (t.setFld (srStat d) 15 0 (s.fld (srStat d) 15 0 + 1))) ∧
  (∀ (m : Msg) (s : State),
    let p := bits m.path 3 0
    (slipUp s p = false → sendPath s m = s) ∧
    (slipUp s p = true → 0 < m.ttl → sendPath s m = sendOn s p { m with
      path := (bits m.path 63 60 + 15) % 16 * 2 ^ 60 + bits m.path 59 4, vc := 0, ttl := m.ttl - 1 }) ∧
    (slipUp s p = true → m.ttl = 0 → m.rsp = true → sendPath s m = s.count (ldReg (dieOf p) 0x20) 31 16 1)) ∧
  ∀ (d : Fin 2) (a : DevAddr) (s t u : State) (b : List Byte), s.writable (ldReg d.val 0x28) = true →
    t = s.setReg64 (ldReg d.val 0x28) (a.toNat / 64 * 64) → memRead t .sched (a.toNat / 64 * 64) 64 = (u, .ok, b) →
    exec (.fabSrMsgGo d a) s = .next (if (Msg.ofBytes b 0 0 0).sourceRouted then sendPath u { Msg.ofBytes b 0 0 0 with rpath := 0, ttl := startTtl u } else u)

/-! ## Collectives -/

/-- R366 to R368, R373: a collective descriptor that heads its queue waits while eight steps run at its engine; it fails where its group is not usable; and an
XRED in a usable group of more than one member begins its step: the step is counted, its range and members are those of the instruction and the member list, and
READY has left for every sender, with CREDIT messages behind it for the credits that its CRED cannot hold (how many credits a sender gets is the model's choice, log
entry 73).
R374, R376, R377: a step whose destination is final and whose messages are acknowledged completes: it is counted, adds its increment and leaves its queue; one that is
not done stays. A step that is not done at its TMO fails with TIMEOUT, and its group entry says so with the rank that is missing. -/
def Obligations.CollectiveSteps : Prop :=
  (
    ∀ (e e' : EngId) (f : Fields) (w : Word64) (x : SkEntry) (s : State), s.fatal = false → nextWaiting (s.eng e.val) false = some x →
      atHead (s.eng e.val) false x = true → x.instr ∈ [Instr.xch e' f w, .xredAllReduce e' f w, .xredReduceScatter e' f w, .xgather e' f w] →
      let g := bits w.toNat 47 40
      let c := (s.eng e.val).ctx
      let busy := (s.coll.steps.filter fun y => y.die == g / 128).length
      let n := grpSize s g
      let len := x.regs.getS (fld f 35 31)
      let src := (x.regs.getA (fld f 51 49) + x.regs.getS (fld f 48 44)) % 2 ^ 48
      let dst := (x.regs.getA (fld f 43 41) + x.regs.getS (fld f 40 36)) % 2 ^ 48
      (8 ≤ busy → s.coll.waiting = [] → ∃ t, exec (.collectiveStepStart e) s = .next t ∧ t.coll = { s.coll with waiting := [(e.val, x.id)] } ∧ t.mem = s.mem ∧
        t.engines = s.engines) ∧
      (busy < 8 → stepOf s g = none → s.coll.waiting = [] → grpUsable s c g = false →
        exec (.collectiveStepStart e) s = .next (showSteps (failStart s e.val x 4))) ∧
      ∀ l bs, x.instr ∈ [Instr.xredAllReduce e' f w, .xredReduceScatter e' f w] → busy < 8 → stepOf s g = none → s.coll.waiting = [] → s.coll.held = [] → grpUsable s c g = true → 1 < n →
        memRead s (.coll true) (grpList s g) (4 * n) = (l, .ok, bs) →
        let ms := (List.range n).map fun i => leNat ((bs.drop (4 * i)).take 4)
        ms.getD (grpRank s g) 0 = ownId s → grpRank s g < n → len % 64 = 0 →
        (places l src (if fld f 15 14 = 1 then n * len else len)).all (reaches (.coll true)) = true → (places l dst len).all (reaches (.coll true)) = true →
        ∃ t y, exec (.collectiveStepStart e) s = .next t ∧ t.coll.steps = s.coll.steps ++ [y] ∧ y.gid = g ∧ y.id = x.id ∧ y.len = len ∧ y.src = src ∧ y.dst = dst ∧
          y.members = ms.map (bits · 11 0) ∧ y.rank = grpRank s g ∧ y.got = 0 ∧ t.fld (colReg g 0x14) 15 0 = (grpStep s g + 1) % 65536 ∧
          t.fld (colReg g 0x10) 31 31 = 1 ∧ t.mem = l.mem ∧
          t.fabric.reqs.length = s.fabric.reqs.length +
            (y.senders.map fun j => (creditPieces (y.grant (stagingRoom s (g / 128)) j)).length).foldl (· + ·) 0) ∧
  (
    (∀ (d : Fin 2) (k : Fin 128) (x : CStep) (s : State), (s.coll.steps.filter fun x => x.die == d.val)[k.val]? = some x → s.fatal = false →
      (stepDone s x = false → exec (.collectiveStepComplete d k) s = .next s) ∧
      (stepDone s x = true ∨ s.us < x.us + 1000 * grpTmo s x.gid → exec (.collectiveStepTimeout d k) s = .next s) ∧
      (stepDone s x = false → x.us + 1000 * grpTmo s x.gid ≤ s.us → exec (.collectiveStepTimeout d k) s = .next (failStep s x 1 (missing x))) ∧
      ∀ y, stepDone s x = true → (s.eng x.eng).spillQ = [y] → y.id = x.id → y.stage = .started → y.quiet = false → (collFields y.instr).isSome = true →
        (s.eng x.eng).queues = [] → (s.eng x.eng).deferred = [] →
        ∃ t, exec (.collectiveStepComplete d k) s = .next t ∧ t.coll.steps = s.coll.steps.filter (fun z => z.gid != x.gid) ∧
          t.fld (colReg x.gid 0x10) 31 31 = 0 ∧ (t.eng x.eng).spillQ = [] ∧ t.mem = s.mem ∧ t.fabric = s.fabric ∧
          t.fld (colDone d.val) 31 0 = min (s.fld (colDone d.val) 31 0 + 1) (2 ^ 32 - 1) ∧
          (t.eng x.eng).sem (skSignal y.instr).1 = min ((s.eng x.eng).sem (skSignal y.instr).1 + (skSignal y.instr).2) 0xFFFF) ∧
    ∀ (g reason missr : Nat) (s : State), g < 256 → 1 ≤ reason → reason ≤ 4 →
      let t := failMarks s g reason missr
      t.fld (colReg g 0x10) 31 31 = 0 ∧ t.fld (colReg g 0x10) 30 27 = 8 + reason ∧ t.mem = s.mem ∧ t.engines = s.engines ∧
        (reason = 1 → t.fld (colReg g 0x10) 23 12 = missr % 4096 ∧ t.fld (colFail (g / 128)) 31 16 = min (s.fld (colFail (g / 128)) 31 16 + 1) 65535) ∧
        (reason ≠ 1 → t.fld (colFail (g / 128)) 15 0 = min (s.fld (colFail (g / 128)) 15 0 + 1) 65535))

/-- R371 to R375: the collective message that heads the inbox. Of another epoch it is counted as stale and acknowledged with this member's rank, epoch and step; for the step that comes next it is
held; ABORT breaks the group, and ends its step with ABORTED; a KIND that is not assigned is counted. In a step with nothing to send: READY and CREDIT give credits, a READY that differs fails
the step, a DATA for this member lands at its offset, and a PARTIAL of a direct exchange is staged while others are awaited. An ACK ends its request. That a message
for an entry that is not valid meets it like any other is the model's choice (log entry 75). -/
def Obligations.CollectiveMessages : Prop :=
  (∀ (m : Msg) (n : Nat) (rest : List (Msg × Nat)) (s : State), s.fabric.inbox = (m, n) :: rest → s.fatal = false → memDown s = false → m.op = 8 →
    m.err = false → 1 ≤ m.kind → m.kind ≤ 5 →
    let u := freeBuffers { s with fabric := { s.fabric with inbox := rest } } n m.vc m.rsp m.held
    let i : Instr := if m.kind = 1 then .readyMsg else if m.kind = 2 then .dataMsg else if m.kind = 3 then .partialMsg else if m.kind = 4 then .creditMsg else .abortMsg
    let isAck (r : Msg) : Prop := r.op = 8 ∧ r.kind = 8 ∧ r.dst = m.src ∧ r.tag = m.tag ∧ r.err = false ∧ r.gid = m.gid ∧ r.frm = grpRank s m.gid ∧
      r.epoch = grpEpoch s m.gid ∧ r.step = (match stepOf s m.gid with
        | some x => x.step
        | none => grpStep s m.gid)
    let acked (t : State) : Prop := ∃ r : Msg, t.fabric = { u.fabric with routing := s.fabric.routing ++ [{ msg := r }] } ∧ isAck r
    let stale := colStale (m.gid / 128)
    (m.epoch ≠ grpEpoch s m.gid → ∃ t, exec i s = .next t ∧ t.coll = s.coll ∧ t.mem = s.mem ∧ t.engines = s.engines ∧
      t.fld stale 31 16 = min (s.fld stale 31 16 + 1) 65535 ∧ t.fabric.inbox = rest ∧ t.fabric.reqs = s.fabric.reqs ∧
      ∃ r : Msg, t.fabric.routing = s.fabric.routing ++ [{ msg := r }] ∧ isAck r) ∧
    (m.epoch = grpEpoch s m.gid → m.kind ≠ 5 → stepOf s m.gid = none → m.step = grpStep s m.gid → ∃ t, exec i s = .next t ∧ acked t ∧
      t.coll = { s.coll with held := s.coll.held ++ [m] } ∧ t.mem = s.mem ∧ t.engines = s.engines ∧ t.regs = s.regs) ∧
    (m.epoch = grpEpoch s m.gid → m.kind ≠ 5 → stepOf s m.gid = none → m.step ≠ grpStep s m.gid → ∃ t, exec i s = .next t ∧ acked t ∧ t.coll = s.coll ∧
      t.mem = s.mem ∧ t.engines = s.engines ∧ t.fld stale 15 0 = min (s.fld stale 15 0 + 1) 65535) ∧
    (m.epoch = grpEpoch s m.gid → m.kind = 5 → stepOf s m.gid = none → ∃ t, exec i s = .next t ∧ acked t ∧ t.coll = s.coll ∧ t.mem = s.mem ∧
      t.engines = s.engines ∧ t.fld (colReg m.gid 0x10) 30 30 = 1) ∧
    (∀ x, m.epoch = grpEpoch s m.gid → m.kind = 5 → stepOf s m.gid = some x →
      exec i s = .next (failStep ((collAck u m).setFld (colReg m.gid 0x10) 30 30 1) x 2 0)) ∧
    ∀ x, m.epoch = grpEpoch s m.gid → m.kind ≠ 5 → s.coll.steps = [x] → x.gid = m.gid → m.step = x.step → x.todo = [] →
      (m.kind = 4 → ∃ t y, exec i s = .next t ∧ acked t ∧ t.coll = { s.coll with steps := [y] } ∧ t.mem = s.mem ∧
        y = { x with credits := SMap.set zeroNat x.credits m.frm (SMap.get zeroNat x.credits m.frm + m.cred) }) ∧
      (m.kind = 1 → readyDiffers x m = false → ∃ t y, exec i s = .next t ∧ acked t ∧ t.coll = { s.coll with steps := [y] } ∧ t.mem = s.mem ∧
        SMap.get zeroNat y.credits m.frm = SMap.get zeroNat x.credits m.frm + m.cred ∧ y.awaitReady = x.awaitReady.filter (· != m.frm)) ∧
      (m.kind = 1 → readyDiffers x m = true →
        exec i s = .next (failStep (collAck u m) x 3 0)) ∧
      (∀ v, m.kind = 2 → m.dest = x.rank → x.ring = false → m.off + m.data.length ≤ x.need →
        memWrite (collAck u m) (x.req (collAck u m)) (x.dst + m.off) m.data = (v, .ok) →
        ∃ t y, exec i s = .next t ∧ acked t ∧ t.mem = v.mem ∧ t.coll = { s.coll with steps := [y] } ∧ y.got = x.got + m.data.length) ∧
      (m.kind = 3 → x.instr = 1 → x.ring = false → (∃ r ∈ x.others, r ≠ m.frm ∧ x.staged.any (fun p => p.1 == r && p.2.1 == m.off) = false) →
        ∃ t y, exec i s = .next t ∧ acked t ∧ t.mem = s.mem ∧ t.coll = { s.coll with steps := [y] } ∧ y.staged = x.staged ++ [(m.frm, m.off, m.data)] ∧
          y.got = x.got)) ∧
  ∀ (m : Msg) (n : Nat) (rest : List (Msg × Nat)) (s : State), s.fabric.inbox = (m, n) :: rest → s.fatal = false → m.op = 8 →
    let u := freeBuffers { s with fabric := { s.fabric with inbox := rest } } n m.vc m.rsp m.held
    (m.err = false → m.kind = 0 ∨ m.kind = 6 ∨ m.kind = 7 ∨ 8 < m.kind → exec .collInvalidKind s = .next (u.count (colStale (m.gid / 128)) 15 0 1)) ∧
    (s.fabric.reqs.find? (matches' m) = none → m.kind = 8 ∨ m.err = true → exec .ackMsg s = .next (u.count (ldReg (dieOf n) 0x24) 15 0 1)) ∧
    ∀ q, s.fabric.reqs.find? (matches' m) = some q → m.kind = 8 → m.err = false →
      exec .ackMsg s = .next (tagsFree { u with fabric := { u.fabric with reqs := u.fabric.reqs.filter fun r => !matches' m r } } m.rq)

/-- R381, R382, R388: writes of the group entries. CFG of an entry that would be too large for a direct exchange or hold a rank outside its group, or that re-declares the
epoch of a running step, is refused; a new epoch clears the status and the step count. MEM is written only while the entry is invalid, and ACTIVE only
while no step runs or waits. -/
def Obligations.GroupEntryWrites : Prop :=
  ∀ (g : Fin 256) (acc : Acc) (v : Word64) (a : Word32) (s : State),
    let rej := s.setFld colCtl 31 31 1
    (s.writable (colReg g.val 0) = true →
      let w := cfgMask (accMerge (s.reg64 (colReg g.val 0)) acc v.toNat)
      let gm1 := s.fld64 (colReg g.val 8) 59 48
      let bad := bit w 63 = true ∧ ((bit w 62 = false ∧ 16 < gm1) ∨ gm1 < bits w 11 0)
      let running := (stepOf s g.val).isSome = true
      (bad → exec (.colGroupCfgWrite g acc v) s = .next rej) ∧
      (¬bad → running → bit w 63 = true → bits w 47 32 = grpEpoch s g.val → exec (.colGroupCfgWrite g acc v) s = .next rej) ∧
      (¬bad → ¬running → ∃ t, exec (.colGroupCfgWrite g acc v) s = .next t ∧ t.reg64 (colReg g.val 0) = w % 2 ^ 64 ∧ t.mem = s.mem ∧ t.engines = s.engines ∧
        (bits w 47 32 ≠ grpEpoch s g.val → t.fld (colReg g.val 0x10) 30 27 = 0 ∧ t.fld (colReg g.val 0x10) 23 12 = 0 ∧ grpStep t g.val = 0) ∧
        (bits w 47 32 = grpEpoch s g.val → t.coll = s.coll ∧ grpStep t g.val = grpStep s g.val)) ∧
      (grpValid s g.val = true → exec (.colGroupMemWrite g acc v) s = .next rej) ∧
      (grpValid s g.val = false → ∃ t, exec (.colGroupMemWrite g acc v) s = .next t ∧ t.mem = s.mem ∧ t.engines = s.engines ∧
        t.fld64 (colReg g.val 8) 59 48 = bits (accMerge (s.reg64 (colReg g.val 8)) acc v.toNat) 59 48 ∧
        t.fld64 (colReg g.val 8) 47 6 = bits (accMerge (s.reg64 (colReg g.val 8)) acc v.toNat) 47 6)) ∧
    (s.writable (colReg 0 0) = true →
      (s.coll.steps ≠ [] ∨ s.coll.waiting ≠ [] → exec (.colActiveWrite a) s = .next rej) ∧
      (s.coll.steps = [] → s.coll.waiting = [] → ∃ t, exec (.colActiveWrite a) s = .next t ∧ t.fld colCtl 1 0 = a.toNat % 4 ∧ t.mem = s.mem ∧
        t.engines = s.engines ∧ t.fld colCtl 31 31 = (if bit a.toNat 31 then 0 else s.fld colCtl 31 31)))

/-! ## Power -/

/-- R393, R395 to R397: the arbiter. With floors that fit the pool, the levels that an interval sets lie between the floors and the requests, within the ceilings, and their
cost is the spend, which lies within the pool. A write of PWR_REQc or PWR_BUDGET whose floors would pass the pool is refused, as is an operating point whose
costs would fall with the level; an interval that is due takes its readings, and of the engines changes no more than their clocks; one with a reading at or above TRIP
is a thermal trip. -/
def Obligations.PowerArbiter : Prop :=
  (∀ (opp : List Nat) (plans : List Plan) (ceils : List Nat) (pool : Nat),
    let act (c : Nat) := (plans.getD c ⟨0, 0, 0, 0⟩).act
    let low (c : Nat) := min (plans.getD c ⟨0, 0, 0, 0⟩).floor (ceils.getD c 0)
    let x := targets opp plans ceils pool
    (∀ c, (plans.getD c ⟨0, 0, 0, 0⟩).floor ≤ (plans.getD c ⟨0, 0, 0, 0⟩).req) → (∀ i j, i ≤ j → opp.getD i 0 ≤ opp.getD j 0 ∨ 10 < j) →
    (∀ c, c < 26 → ceils.getD c 0 ≤ 10) → sumOf (fun c => costOf opp (act c) c (low c)) ≤ pool →
    x.2 ≤ pool ∧ x.2 = sumOf (fun c => costOf opp (act c) c (x.1.getD c 0)) ∧ x.1.length = 40 ∧
      ∀ c, c < 40 → low c ≤ x.1.getD c 0 ∧ x.1.getD c 0 ≤ (plans.getD c ⟨0, 0, 0, 0⟩).req ∧ x.1.getD c 0 ≤ ceils.getD c 0) ∧
  ∀ (c : Fin 40) (l : Fin 11) (v : Word32) (temps : List Nat) (input : Nat) (s : State),
    let rej := s.setFld Off.pwrBudget 31 31 1
    let pool := poolOf (s.fld Off.pwrBudget 10 0)
    let w := bits v.toNat 10 0
    let x := bits v.toNat 15 0
    let sorted := (l.val = 0 ∨ s.fld (Off.pwrOpp (l.val - 1)) 15 0 ≤ x) ∧ (l.val = 10 ∨ x ≤ s.fld (Off.pwrOpp (l.val + 1)) 15 0)
    let intv := max 30 (s.fld Off.pwrCtl 9 0)
    let early := ∃ t, s.power.lastUs = some t ∧ s.us < t + intv
    (s.writable (Off.pwrReq c.val) = true → pool < floorsCost s c.val v.toNat → exec (.pwrReqWrite c v) s = .next rej) ∧
    (s.writable (Off.pwrReq c.val) = true → floorsCost s c.val v.toNat ≤ pool → ∃ t, exec (.pwrReqWrite c v) s = .next t ∧
      plan t c.val = planOf c.val v.toNat ∧ (∀ d, d < 40 → d ≠ c.val → plan t d = plan s d) ∧ t.mem = s.mem ∧ t.engines = s.engines ∧ t.power = s.power) ∧
    (s.writable Off.pwrBudget = true → w < 600 ∨ 1500 < w ∨ poolOf w < floorsCost s 40 0 → exec (.pwrBudgetWrite v) s = .next rej) ∧
    (s.writable Off.pwrBudget = true → 600 ≤ w → w ≤ 1500 → floorsCost s 40 0 ≤ poolOf w → ∃ t, exec (.pwrBudgetWrite v) s = .next t ∧
      t.fld Off.pwrBudget 10 0 = w ∧ t.mem = s.mem ∧ t.engines = s.engines ∧ t.power = s.power) ∧
    (s.writable (Off.pwrOpp l.val) = true → sorted → ∃ t, exec (.pwrOppWrite l v) s = .next t ∧ t.fld (Off.pwrOpp l.val) 15 0 = x ∧
      t.mem = s.mem ∧ t.engines = s.engines ∧ t.power = s.power) ∧
    (s.writable (Off.pwrOpp l.val) = true → ¬sorted → exec (.pwrOppWrite l v) s = .next rej) ∧
    (early ∨ s.fatal = true ∨ powerState s = 3 ∨ s.boot.powered = false → exec (.powerInterval temps input) s = .next s) ∧
    (¬early → s.fatal = false → powerState s ≠ 3 → s.boot.powered = true →
      (s.power.tripped = true ∨ hotSensor s temps = none → ∃ t, exec (.powerInterval temps input) s = .next t ∧ t.power.lastUs = some s.us ∧
        t.fld Off.pwrInput 20 0 = min (2 ^ 21 - 1) input ∧ t.fld Off.pwrTherm 31 24 = min 255 (largest temps) ∧ t.mem = s.mem ∧
        (∀ n, t.eng n = { s.eng n with mhz := (t.eng n).mhz }) ∧ ∀ c, levelOf t c = levelOf s c) ∧
      (s.power.tripped = false → hotSensor s temps ≠ none → ∃ t, exec (.powerInterval temps input) s = .next t ∧ t.power.tripped = true ∧
        t.fld Off.pwrStatus 25 25 = 1 ∧ t.mem = s.mem))

/-- R398 to R403, R418, R422: changes of level and protection. A lowering that starts sets the ECLK of an engine group at once; a change that ends sets the level, and a
raise the frequency of the group's engines; a raise that fails reverts; overdraw drops every group to level 0; a trip at or above TRIP, of any die, begins the entry to P2, also when P3
is being entered; an inlet outside 15 to 45 degrees is noted; a brown-out takes the rail's engines out of service, but only counts in a known-answer run; a restart holds
the rail's groups at level 0, and a restarted rail leaves low-power mode. That a lowering sets the ECLK at its start (log entry 127), that RESTART puts the groups at
level 0 and that the run of a compute-only reset counts brown-outs too (log entry 80) are the model's choices. -/
def Obligations.PowerProtection : Prop :=
  ∀ (c : Fin 40) (g : Fin 26) (sensor : Fin 25) (v : Fin 8) (tj mw run amps : Nat) (inlet : BitVec 8) (pass : BitVec 104) (s : State),
    let m := movingOf s c.val
    let clocks (t : State) : Prop := t.mem = s.mem ∧ ∀ n, t.eng n = { s.eng n with mhz := (t.eng n).mhz }
    let excess := 1600000 < mw ∨ (1000 * s.fld Off.pwrBudget 10 0 < mw ∧ 20 ≤ run)
    (m = 0 → targetOf s c.val < levelOf s c.val → let t := advance s c.val
      movingOf t c.val = targetOf s c.val + 1 ∧ levelOf t c.val = levelOf s c.val ∧ clocks t ∧
        (c.val < 26 → SMap.get zeroNat t.power.clock c.val = targetOf s c.val)) ∧
    (m = 0 ∨ s.fatal = true → exec (.levelChangeComplete c) s = .next s) ∧
    (m ≠ 0 → s.fatal = false → ∃ t, exec (.levelChangeComplete c) s = .next t ∧ levelOf t c.val = m - 1 ∧ clocks t ∧
      (∀ d, d ≠ c.val → levelOf t d = levelOf s d) ∧
      ∀ n, n < 96 → c.val < 26 → levelOf s c.val < m - 1 → m - 1 ≤ targetOf s c.val → (s.eng n).online = true → groupOf (s.eng n).slot = c.val → (t.eng n).mhz = 600 + 100 * (m - 1)) ∧
    (movingOf s g.val ≤ levelOf s g.val + 1 ∨ s.fatal = true → exec (.vfail g) s = .next s) ∧
    (levelOf s g.val + 1 < movingOf s g.val → s.fatal = false → ∃ t, exec (.vfail g) s = .next t ∧ movingOf t g.val = 0 ∧ targetOf t g.val = levelOf s g.val ∧
      (∀ d, levelOf t d = levelOf s d) ∧ t.errSeq = (s.errSeq + 1) % 2 ^ 32 ∧ clocks t) ∧
    (s.fatal = true ∨ powerState s ≠ 0 ∨ ¬excess → exec (.overdraw mw run) s = .next s) ∧
    (s.fatal = false → powerState s = 0 → excess → ∃ t, exec (.overdraw mw run) s = .next t ∧ (∀ d, d < 26 → levelOf t d = 0 ∧ targetOf t d = 0 ∧ movingOf t d = 0) ∧
      (∀ d, 26 ≤ d → levelOf t d = levelOf s d) ∧ t.fld Off.pwrStatus 27 27 = 1 ∧ t.errSeq = (s.errSeq + 1) % 2 ^ 32 ∧ t.mem = s.mem) ∧
    (s.fatal = true ∨ powerState s = 3 → exec (.coolant inlet) s = .next s) ∧
    (s.fatal = false → powerState s ≠ 3 → ∃ t, exec (.coolant inlet) s = .next t ∧ t.fld Off.pwrTherm 7 0 = inlet.toNat ∧ t.mem = s.mem ∧
      t.engines = s.engines ∧ t.fld Off.pwrStatus 24 24 = (if 15 ≤ inlet.toNat ∧ inlet.toNat ≤ 45 then s.fld Off.pwrStatus 24 24 else 1)) ∧
    (tj < tripOf s ∨ s.fatal = true ∨ powerState s = 3 → exec (.thermtrip sensor tj) s = .next s) ∧
    (tripOf s ≤ tj → s.fatal = false → powerState s = 0 → powerPhase s = 0 → (∀ c, c < 64 → (s.ctx c).members = []) →
      ∃ t, exec (.thermtrip sensor tj) s = .next t ∧ powerPhase t = 1 ∧ t.power.entry = 2 ∧ t.power.tripped = true ∧ t.fld Off.pwrStatus 25 25 = 1 ∧
        t.mem = s.mem ∧ t.engines = s.engines) ∧
    (tripOf s ≤ tj → s.fatal = false → powerState s = 0 → powerPhase s = 1 → (∀ c, c < 64 → (s.ctx c).members = []) →
      ∃ t, exec (.thermtrip sensor tj) s = .next t ∧ powerPhase t = 1 ∧ t.power.entry = 2 ∧ t.power.tripped = true ∧ t.fld Off.pwrStatus 25 25 = 1 ∧
        t.mem = s.mem ∧ t.engines = s.engines) ∧
    (s.fatal = true ∨ powerState s ≠ 0 ∨ s.fld (Off.pwrIvr v.val) 31 31 = 0 ∨ amps ≤ s.fld (Off.pwrIvr v.val) 7 0 ∨ s.power.dead.contains v.val = true →
      exec (.brownout v amps) s = .next s) ∧
    (s.fatal = false → powerState s = 0 → s.fld (Off.pwrIvr v.val) 31 31 = 1 → s.fld (Off.pwrIvr v.val) 7 0 < amps → s.power.dead.contains v.val = false →
      answerRun s = true → ∃ t, exec (.brownout v amps) s = .next t ∧ SMap.get zeroNat t.boot.brown v.val = SMap.get zeroNat s.boot.brown v.val + 1 ∧
        t.power = s.power ∧ t.fld (Off.pwrIvr v.val) 30 30 = 1 ∧ t.mem = s.mem ∧ t.engines = s.engines) ∧
    (s.fatal = false → powerState s = 0 → s.fld (Off.pwrIvr v.val) 31 31 = 1 → s.fld (Off.pwrIvr v.val) 7 0 < amps → s.power.dead.contains v.val = false →
      answerRun s = false → ∃ t, exec (.brownout v amps) s = .next t ∧ t.power.dead = s.power.dead ++ [v.val] ∧ t.fld (Off.pwrIvr v.val) 30 30 = 1 ∧
        t.mem = s.mem ∧ ∀ n ∈ regulatorEngines s v.val, (t.eng n).online = false) ∧
    (s.writable (Off.pwrIvr v.val) = true → s.power.restarting.contains v.val = false → ∃ t, exec (.ivrRestart v) s = .next t ∧
      t.power.restarting = s.power.restarting ++ [v.val] ∧ t.fld (Off.pwrIvr v.val) 31 31 = 1 ∧ t.fld (Off.pwrIvr v.val) 7 0 = s.fld (Off.pwrIvr v.val) 7 0 ∧
      clocks t ∧ ∀ d, d < 26 → regulatorOf d = v.val → levelOf t d = 0 ∧ movingOf t d = 0) ∧
    (s.power.restarting.contains v.val = false ∨ s.fatal = true → exec (.ivrRestartComplete v pass) s = .next s) ∧
    (s.power.restarting.contains v.val = true → s.fatal = false → ∃ t, exec (.ivrRestartComplete v pass) s = .next t ∧
      t.power.restarting = s.power.restarting.filter (· != v.val) ∧ t.power.dead = s.power.dead.filter (· != v.val) ∧ t.fld (Off.pwrIvr v.val) 31 31 = 0 ∧ t.mem = s.mem)

/-- R404 to R409, R442: the power states. MOOR and LAYUP are refused while the device changes state or is not idle, and LAYUP while the link is not in L2; an entry ends in
P2, with the Landing lost, or in P3, where the sideband keeps its address; EXIT and a wake begin the exit, or are latched during an entry, which then goes on to the
exit; its four steps end in P0 or P1 (which the stored value 0 both stands for, log entry 82); a step that fails twice leaves the device asleep; PME_TURN_OFF arms L2
from D3hot only. The order of the refusals 5, 1 and 2, a MOOR in P2 without effect and an EXIT that is too hot during an entry (log entries 79 and 80), and a PME_TURN_OFF
outside D3hot that changes nothing (log entry 128), are the model's choices. -/
def Obligations.PowerStates : Prop :=
  ∀ (n : SlipId) (s : State),
    let rej (err : Nat) : State := (s.setFld Off.pwrState 28 28 1).setFld Off.pwrState 27 24 err
    let quiet (t : State) : Prop := t.mem = s.mem ∧ t.engines = s.engines
    let k := s.power.exitStep
    (s.writable Off.pwrState = true →
      (changing s = true → exec .moor s = .next (rej 5) ∧ exec .layup s = .next (rej 5)) ∧
      (changing s = false → idleDevice s = false → exec .moor s = .next (rej 1) ∧ exec .layup s = .next (rej 1)) ∧
      (changing s = false → idleDevice s = true → powerState s = 2 → exec .moor s = .next s) ∧
      (changing s = false → idleDevice s = true → powerState s ≠ 2 → ∃ t, exec .moor s = .next t ∧ powerPhase t = 1 ∧ t.power.entry = 2 ∧ quiet t) ∧
      (changing s = false → idleDevice s = true → s.power.l2 = false → exec .layup s = .next (rej 2)) ∧
      (changing s = false → idleDevice s = true → s.power.l2 = true → ∃ t, exec .layup s = .next t ∧ powerPhase t = 1 ∧ t.power.entry = 3 ∧ quiet t) ∧
      (powerPhase s = 2 ∨ s.boot.running = true → exec .exitMoored s = .next (rej 5)) ∧
      (powerPhase s = 0 → s.boot.running = false → powerState s = 2 → s.fld Off.pwrTherm 31 24 < thrOf s → ∃ t, exec .exitMoored s = .next t ∧
        powerPhase t = 2 ∧ t.power.exitStep = 1 ∧ quiet t) ∧
      (powerPhase s = 0 → s.boot.running = false → powerState s = 2 → thrOf s ≤ s.fld Off.pwrTherm 31 24 → exec .exitMoored s = .next (rej 3)) ∧
      (powerPhase s = 0 → s.boot.running = false → powerState s ≠ 2 → exec .exitMoored s = .next (rej 4)) ∧
      (powerPhase s = 1 → s.boot.running = false → thrOf s ≤ s.fld Off.pwrTherm 31 24 → exec .exitMoored s = .next (rej 3)) ∧
      (powerPhase s = 1 → s.boot.running = false → s.fld Off.pwrTherm 31 24 < thrOf s → ∃ t, exec .exitMoored s = .next t ∧ t.power.exitAsked = true ∧
        t.fld Off.pwrWake 31 31 = 1 ∧ quiet t)) ∧
    (powerPhase s ≠ 1 ∨ s.fatal = true ∨ (∃ c, c < 64 ∧ s.ctxState c = 6) → exec .powerEntryComplete s = .next s) ∧
    (powerPhase s = 1 → s.fatal = false → (∀ c, c < 64 → s.ctxState c ≠ 6) → s.fld Off.pwrWake 31 31 = 0 → s.power.entry = 2 →
      ∃ t, exec .powerEntryComplete s = .next t ∧ powerState t = 2 ∧ powerPhase t = 0 ∧ t.boot.memReady = false ∧ t.mem.landing = [] ∧ t.mem.cached = [] ∧
        t.mem.hbm = s.mem.hbm ∧ ∀ n, n < 96 → (t.eng n).tile = [] ∧ (t.eng n).bound = false) ∧
    (powerPhase s = 1 → s.fatal = false → (∀ c, c < 64 → s.ctxState c ≠ 6) → s.fld Off.pwrWake 31 31 = 0 → s.power.entry = 3 →
      ∃ t, exec .powerEntryComplete s = .next t ∧ powerState t = 3 ∧ t.engines = [] ∧ t.mem = { host := s.mem.host } ∧ t.side.i3c = s.side.i3c ∧
        t.side.eid = s.side.eid) ∧
    (powerPhase s = 1 → s.fatal = false → (∀ c, c < 64 → s.ctxState c ≠ 6) → s.fld Off.pwrWake 31 31 = 1 →
      s.power.tripped = false ∨ s.power.exitAsked = true →
      (s.power.entry = 2 → ∃ t, exec .powerEntryComplete s = .next t ∧ powerPhase t = 2 ∧ t.power.exitStep = 1 ∧ t.fld Off.pwrWake 31 31 = 0 ∧
        t.mem.landing = [] ∧ t.mem.hbm = s.mem.hbm) ∧
      (s.power.entry = 3 → ∃ t, exec .powerEntryComplete s = .next t ∧ t.boot.running = true ∧ t.boot.kind = 0 ∧ t.power.wakePin = s.power.l2)) ∧
    (∀ src : Fin 4, wakeEnabled s src.val n.val = false ∨ s.boot.powered = false → exec (.wakeEvent src n) s = .next s) ∧
    (∀ src : Fin 4, wakeEnabled s src.val n.val = true → s.boot.powered = true → s.fatal = false → powerState s = 2 → powerPhase s = 0 → s.power.tripped = false →
      ∃ t, exec (.wakeEvent src n) s = .next t ∧ powerPhase t = 2 ∧ t.power.exitStep = 1 ∧ t.fld Off.pwrWake src.val src.val = 1 ∧ quiet t) ∧
    (∀ src : Fin 4, wakeEnabled s src.val n.val = true → s.boot.powered = true → s.fatal = false → powerState s ≤ 1 → powerPhase s ≤ 1 →
      ∃ t, exec (.wakeEvent src n) s = .next t ∧ t.fld Off.pwrWake src.val src.val = 1 ∧ t.power = s.power ∧ quiet t ∧
        t.fld Off.pwrWake 31 31 = (if powerPhase s = 1 then 1 else s.fld Off.pwrWake 31 31)) ∧
    (powerPhase s ≠ 2 ∨ k = 0 ∨ s.fatal = true → exec .exitStepDone s = .next s ∧ exec .exitfail s = .next s) ∧
    (powerPhase s = 2 → 1 ≤ k → k ≤ 3 → s.fatal = false → ∃ t, exec .exitStepDone s = .next t ∧ t.power.exitStep = k + 1 ∧ powerPhase t = 2 ∧
      t.boot.memReady = (s.boot.memReady || decide (k = 3)) ∧ quiet t) ∧
    (powerPhase s = 2 → k = 4 → s.fatal = false → s.host.held = [] → s.dcr.cmds = [] → ∃ t, exec .exitStepDone s = .next t ∧ powerState t = 0 ∧ powerPhase t = 0 ∧
      t.power.exitStep = 0 ∧ t.mem = s.mem ∧ ∀ n, t.eng n = { s.eng n with mhz := (t.eng n).mhz }) ∧
    (powerPhase s = 2 → 1 ≤ k → s.fatal = false → s.power.repeated = false → ∃ t, exec .exitfail s = .next t ∧ t.power.repeated = true ∧ t.regs = s.regs ∧ quiet t) ∧
    (powerPhase s = 2 → 1 ≤ k → k ≤ 4 → s.fatal = false → s.power.repeated = true → ∃ t, exec .exitfail s = .next t ∧ powerPhase t = 0 ∧
      t.fld Off.pwrState 27 24 = 7 + k ∧ t.power.exitStep = 0 ∧ t.errSeq = (s.errSeq + 1) % 2 ^ 32 ∧ quiet t) ∧
    (s.power.perst = false → s.boot.powered = true →
      (s.host.dState = .d3hot → exec .pmeTurnOff s = .next { s with power := { s.power with pmeAck := true } }) ∧
      (s.host.dState ≠ .d3hot → exec .pmeTurnOff s = .next s)) ∧
    (s.power.perst = true ∨ s.boot.powered = false → exec .pmeTurnOff s = .next s)

/-! ## Bring-up, reset, slots and the configuration record -/

/-- R413 to R426, R434, R442, Table 17-1: how starts begin and go on. Power and the deassertion of PERST# begin a cold start, or the warm one that HUB_RSTCTL selects; a
reset command begins its start unless one runs or the device may not; a start begins with READY 0; a step that sets its signal is followed by the next, one that
fails is repeated once and then ends the start with its step and code; the last step sets READY, and ends at its bound too. A compute-only reset holds the memory back
until its fourth step and resets the engines in its second. A loss of input power while nothing is being
written leaves the media, the record and the fuses; without power a reset command does nothing. A compute-only reset that follows a failed start (log entry 93), the microseconds that a
cold start counts anew (log entry 87), and the memories that are emptied with the copies and the boot area kept (log entries 10 and 86) are the model's choices. -/
def Obligations.StartsAndResets : Prop :=
  ∀ (mid : BitVec 5) (k : Fin 12) (pass : BitVec 104) (code : BitVec 8) (s : State),
    let starts (t : State) (kind step : Nat) : Prop := t.boot.running = true ∧ t.boot.kind = kind ∧ t.boot.step = step ∧ t.ready = false ∧ t.boot.memReady = false
    let clean (t : State) : Prop := t.engines = [] ∧ t.ctxs = [] ∧ t.mem = { host := s.mem.host } ∧ t.flash.blocks = s.flash.blocks ∧ t.flash.keys = [] ∧
      t.dcr.copies = s.dcr.copies ∧ t.boot.fuses = s.boot.fuses ∧ t.boot.area = s.boot.area
    let warm (t : State) : Prop := (if fastAllowed s then starts t 1 1 else starts t 2 3) ∧ clean t ∧ t.reg Off.hubRstctl = s.reg Off.hubRstctl ∧
      t.us = s.us ∧ t.errSeq = s.errSeq
    let rej (err : Nat) : State := (s.setFld Off.hubReset 28 28 1).setFld Off.hubReset 27 24 err
    let b := s.boot
    let now := b.running = true ∧ b.step = k.val ∧ s.fatal = false
    (b.powered = true → exec (.powerGood mid) s = .next s) ∧
    (b.powered = false → ∃ t, exec (.powerGood mid) s = .next t ∧ starts t 0 1 ∧ t.boot.powered = true ∧ t.boot.mid = mid.toNat ∧ clean t) ∧
    (s.power.perst = false → exec .perstDeassert s = .next s) ∧
    (s.power.perst = true → b.powered = true → powerState s ≠ 3 → ∃ t, exec .perstDeassert s = .next t ∧ t.power.perst = false ∧
      (s.fld Off.hubRstctl 31 31 = 1 → warm t) ∧ (s.fld Off.hubRstctl 31 31 = 0 → starts t 0 1 ∧ clean t)) ∧
    (s.power.perst = true → exec .perstAssert s = .next s) ∧
    (s.power.perst = false → s.power.pmeAck = true → b.running = false → s.fld Off.recov 2 0 ≠ 2 → ∃ t, exec .perstAssert s = .next t ∧ t.power.perst = true ∧
      t.power.l2 = true ∧ t.regs = s.regs ∧ t.engines = s.engines ∧ t.mem = s.mem) ∧
    (s.power.perst = false → s.power.pmeAck = true → b.running = false → s.fld Off.recov 2 0 = 2 → ∃ t, exec .perstAssert s = .next t ∧ t.power.perst = true ∧
      t.boot.push = [] ∧ t.fld Off.recov 2 0 = 1 ∧ t.engines = s.engines ∧ t.mem = s.mem) ∧
    (powerState s ≠ 3 → b.powered = true → b.running = true → s.fatal = false → ∀ i ∈ [Instr.warmReset, .computeReset, .coldReset], exec i s = .next (rej 1)) ∧
    (powerState s ≠ 3 → b.powered = true → s.fatal = true → exec .computeReset s = .next (rej 2)) ∧
    (b.powered = false → ∀ i ∈ [Instr.warmReset, .computeReset, .coldReset], exec i s = .next s) ∧
    (powerState s ≠ 3 → b.powered = true → b.running = false → ∃ t, exec .warmReset s = .next t ∧ warm t) ∧
    (powerState s ≠ 3 → b.powered = true → b.running = false → ∃ t, exec .coldReset s = .next t ∧ starts t 0 1 ∧ clean t ∧ t.us = 0) ∧
    (powerState s ≠ 3 → b.powered = true → b.running = false → s.fatal = false → (∀ c, c < 64 → (s.ctx c).members = []) → ∃ t, exec .computeReset s = .next t ∧
      t.boot.running = true ∧ t.boot.kind = 3 ∧ t.boot.step = 1 ∧ t.ready = false ∧ t.boot.memReady = false ∧ t.boot.topoSaid = false ∧
      t.compReset = true ∧ t.mem = s.mem ∧ t.engines = s.engines) ∧
    (¬now → exec (.startStepDone k pass) s = .next s) ∧
    (now → b.kind ≠ 3 → k.val = 1 ∨ k.val = 2 ∨ k.val = 3 ∨ k.val = 5 ∨ k.val = 7 →
      let next := if b.kind = 1 ∧ (k.val = 1 ∨ k.val = 7) then k.val + 2 else k.val + 1
      ∃ t, exec (.startStepDone k pass) s = .next t ∧ t.boot = { b with step := next, repeated := false } ∧
        t.fld Off.hubStatus 23 20 = next ∧ t.mem = s.mem ∧ t.engines = s.engines) ∧
    (now → b.kind ≠ 3 → k.val = 6 → s.host.held = [] → s.dcr.cmds = [] → ∃ t, exec (.startStepDone k pass) s = .next t ∧ t.boot.step = 7 ∧ t.boot.memReady = true ∧
      t.mem = { s.mem with hbm := [], hbmErr := [], landing := [], landErr := [], cached := [] } ∧ t.engines = s.engines) ∧
    (now → b.kind = 3 → k.val = 2 → ∃ t, exec (.startStepDone k pass) s = .next t ∧ t.boot.step = 3 ∧ t.mem = s.mem ∧
      ∀ n, n < 96 → (t.eng n).tile = [] ∧ (t.eng n).bound = false ∧ (t.eng n).slot = (s.eng n).slot ∧ (t.eng n).online = (s.eng n).online) ∧
    (now → b.kind = 3 → k.val = 4 → s.host.held = [] → s.dcr.cmds = [] → ∃ t, exec (.startStepDone k pass) s = .next t ∧ t.boot.step = 5 ∧ t.boot.memReady = true ∧
      t.mem = { s.mem with landing := [], landErr := [], cached := [] } ∧ t.engines = s.engines) ∧
    (now → b.kind ≠ 3 → k.val = 10 → ∃ t, exec (.startStepDone k pass) s = .next t ∧ t.ready = true ∧
      t.boot.running = false ∧ t.fld Off.hubStatus 23 20 = 11 ∧ t.mem = s.mem ∧ t.engines = s.engines) ∧
    (b.running = false ∨ s.fatal = true → exec (.startStepTimeout code) s = .next s) ∧
    (b.running = true → s.fatal = false → b.kind ≠ 3 → b.step = 10 → ∃ t, exec (.startStepTimeout code) s = .next t ∧ t.ready = true ∧ t.boot.running = false ∧
      t.mem = s.mem ∧ t.engines = s.engines) ∧
    (b.running = true → s.fatal = false → ¬(b.kind ≠ 3 ∧ b.step = 10) → ¬(b.kind = 1 ∧ b.step = 4 ∧ code.toNat = 2) → b.repeated = false →
      exec (.startStepTimeout code) s = .next { s with boot := { b with repeated := true } }) ∧
    (b.running = true → s.fatal = false → ¬(b.kind ≠ 3 ∧ b.step = 10) → ¬(b.kind = 1 ∧ b.step = 4 ∧ code.toNat = 2) → b.repeated = true → ∃ t, exec (.startStepTimeout code) s = .next t ∧
      t.boot = { b with running := false } ∧ t.fld Off.hubStatus 19 16 = b.step % 16 ∧ t.fld Off.hubStatus 15 8 = code.toNat ∧ t.mem = s.mem ∧ t.engines = s.engines) ∧
    (s.dcr.writing = none → s.flash.cmds = [] → ∃ t, exec .inputPowerLoss s = .next t ∧ t.boot.powered = false ∧ t.boot.running = false ∧ t.ready = false ∧ clean t)

/-- R419 to R423: the lowest 48 slots of each die that passed the known-answer run get logical numbers, and the rest are spares. A late failure needs a second uncorrectable
trap of its slot; a failed slot is retired, and its engine leaves service until a spare that passes is bound under its number. HUB_RETIRE of an engine that does not exist
is refused. -/
def Obligations.SlotsAndSpares : Prop :=
  (∀ (d base : Nat) (s : State), d < 2 → base ≤ 48 →
    let good := (dieSlots d).filter fun k => slotState s k == 0
    let x := numberDie s base d
    x.2 = min 48 good.length ∧ (∀ k, k < 104 → k ∉ good → slotState x.1 k = slotState s k) ∧
    ∀ i (h : i < good.length), slotState x.1 good[i] = (if i < 48 then 1 else 2) ∧ (i < 48 → slotLogical x.1 good[i] = base + i ∧
      (x.1.eng (base + i)).slot = good[i] ∧ (x.1.eng (base + i)).online = true ∧ (x.1.eng (base + i)).tile = [])) ∧
  ∀ (e : EngId) (pass : Bool) (n : BitVec 7) (s : State),
    let g := s.eng e.val
    (g.online = false ∨ s.fatal = true ∨ SMap.get zeroNat s.boot.ueTraps g.slot < 2 → exec (.lateEngineFailure e) s = .next s) ∧
    (g.online = true → s.fatal = false → 2 ≤ SMap.get zeroNat s.boot.ueTraps g.slot → g.slot < 104 → g.bound = false → ∃ t, exec (.lateEngineFailure e) s = .next t ∧
      slotState t g.slot = 4 ∧ (t.eng e.val).online = false ∧ bit t.dcr.next.retired g.slot = true ∧ t.mem = s.mem ∧ ∀ m, m ≠ e.val → t.eng m = s.eng m) ∧
    (g.rebind = false ∨ g.spare = 0 ∨ slotState s (g.spare - 1) ≠ 5 → exec (.spareTestDone e pass) s = .next s) ∧
    (g.rebind = true → g.spare ≠ 0 → g.spare ≤ 104 → slotState s (g.spare - 1) = 5 → pass = true → ∃ t, exec (.spareTestDone e pass) s = .next t ∧
      slotState t (g.spare - 1) = 1 ∧ slotLogical t (g.spare - 1) = e.val ∧ (t.eng e.val).slot = g.spare - 1 ∧ (t.eng e.val).online = true ∧
      (t.eng e.val).tile = [] ∧ (t.eng e.val).rebind = false ∧ t.mem = s.mem ∧ ∀ m, m ≠ e.val → t.eng m = s.eng m) ∧
    (g.rebind = true → g.spare ≠ 0 → g.spare ≤ 104 → slotState s (g.spare - 1) = 5 → pass = false → ∃ t, exec (.spareTestDone e pass) s = .next t ∧
      slotState t (g.spare - 1) = 4 ∧ bit t.dcr.next.retired (g.spare - 1) = true ∧ t.mem = s.mem ∧ ∀ m, m ≠ e.val → t.eng m = s.eng m) ∧
    (s.writable Off.hubRetire = true → s.fld Off.engCount 22 16 ≤ n.toNat ∨ (s.eng n.toNat).online = false → ∃ t, exec (.hubRetire n) s = .next t ∧
      t.fld Off.hubRetire 30 30 = 1 ∧ t.engines = s.engines ∧ t.mem = s.mem ∧ t.dcr = s.dcr) ∧
    (s.writable Off.hubRetire = true → n.toNat < s.fld Off.engCount 22 16 → (s.eng n.toNat).online = true → (s.eng n.toNat).slot < 104 → (s.eng n.toNat).bound = false →
      ∃ t, exec (.hubRetire n) s = .next t ∧ slotState t (s.eng n.toNat).slot = 4 ∧ (t.eng n.toNat).online = false ∧
        bit t.dcr.next.retired (s.eng n.toNat).slot = true ∧ t.mem = s.mem)

/-- R427 to R434: the configuration record. A copy as it is written has the layout of Table 17-6 and is intact. Two intact copies that agree are selected, else the only one of the highest generation. A write that is due begins with one more than
the largest generation; each copy is written in turn, and the third ends the write, committed when all verified; an LMS reservation grows by 1,024 near its end; and the
commands of HUB_DCRCMD change what the next write holds, after the write in progress where there is one, and in the order in which they came. One copy for each DCR_WRITE, the
raise of LMS_RSV from the larger of LMS_RSV and LMS_NEXT, and the set of a topology that waits for the memory are the model's choices (log entry 91). -/
def Obligations.ConfigurationRecord : Prop :=
  (∀ r : Record, r.slips.length ≤ 16 →
    let b := recordBytes r
    intactBytes b = true ∧ b.take 8 = dcrMagic ∧ fieldAt b 8 8 = r.gen % 2 ^ 64 ∧ fieldAt b 16 4 = b.length ∧ fieldAt b 20 4 = 1 ∧
      fieldAt b 24 4 = r.lmsRsv % 2 ^ 32 ∧ fieldAt b 32 14 = r.retired % 2 ^ 112 ∧ fieldAt b (b.length - 4) 4 = crc32c (b.take (b.length - 4))) ∧
  (∀ a b c : List Byte,
    let x := selectRecord [some a, some b, some c]
    let gen (l : List Byte) : Nat := (parseRecord l).gen
    let good (l : List Byte) : Prop := intactBytes l = true
    (good a → b = a ∨ c = a → x.sel = some (parseRecord a) ∧ x.src = 1) ∧
    (¬good a → ¬good b → ¬good c → x.sel = none ∧ x.src = 0 ∧ x.lmsNext = 1048576) ∧
    (¬good a → good b → ¬good c → x.sel = some (parseRecord b) ∧ x.src = 2) ∧
    (good a → good b → ¬good c → gen a < gen b → x.sel = some (parseRecord b) ∧ x.src = 2 ∧
      x.lmsNext = max (parseRecord a).lmsRsv (parseRecord b).lmsRsv) ∧
    (good a → good b → ¬good c → gen a = gen b → a.take (recordLen32 a) ≠ b.take (recordLen32 b) → x.sel = none ∧ x.src = 3)) ∧
  ∀ (bad : Bool) (a : DevAddr) (s : State),
    let idle := s.dcr.writing = none ∧ s.powerFail = false ∧ s.ready = true ∧ s.fatal = false
    let gen := 1 + s.dcr.topGen
    let quiet (t : State) : Prop := t.mem = s.mem ∧ t.engines = s.engines
    let begun (t : State) (p : Record → Prop) : Prop := t.fld Off.hubDcr 31 31 = 1 ∧ t.dcr.copies = s.dcr.copies ∧ ∃ w, t.dcr.writing = some w ∧ w.gen = gen ∧ p w
    (s.dcr.writing = none → writeDue s = false → exec (.dcrWrite bad) s = .next s) ∧
    (idle → writeDue s = true → ∃ t, exec (.dcrWrite bad) s = .next t ∧ begun t (fun w => w.topo = s.dcr.next.topo) ∧ quiet t) ∧
    (∀ w, s.dcr.writing = some w → s.fatal = false → s.dcr.at_ < 2 → ∃ t, exec (.dcrWrite bad) s = .next t ∧ t.dcr.at_ = s.dcr.at_ + 1 ∧ t.dcr.writing = some w ∧
      t.dcr.copies = s.dcr.copies.set s.dcr.at_ (some (if bad then [] else recordBytes w)) ∧ quiet t) ∧
    (∀ w, s.dcr.writing = some w → s.fatal = false → s.dcr.at_ = 2 → s.dcr.failed = false → bad = false → s.dcr.cmds = [] → ∃ t, exec (.dcrWrite bad) s = .next t ∧
      t.dcr.writing = none ∧ t.dcr.copies = s.dcr.copies.set 2 (some (recordBytes w)) ∧ t.reg64 Off.hubDcrgen = w.gen % 2 ^ 64 ∧ t.fld Off.hubDcr 31 31 = 0 ∧ quiet t) ∧
    (lmsRsv s ≤ lmsNext s + 256 → lmsRsv s < 1048576 → idle → ∃ t, exec .lmsReservationCommit s = .next t ∧
      begun t (fun w => w.lmsRsv = min 1048576 (max (lmsRsv s) (lmsNext s) + 1024)) ∧ quiet t) ∧
    (s.ready = false ∨ lmsNext s + 256 < lmsRsv s ∨ 1048576 ≤ lmsRsv s ∨ s.dcr.writing ≠ none → exec .lmsReservationCommit s = .next s) ∧
    (∀ w, s.dcr.writing = some w → s.writable Off.hubDcrcmd = true → ∃ t, exec .dcrcmdClearRetired s = .next t ∧
      t.dcr = { s.dcr with cmds := s.dcr.cmds ++ [(3, s.fld64 Off.hubDcrcmd 47 6 * 64)] } ∧ quiet t) ∧
    (s.writable Off.hubDcrcmd = true → s.dcr.writing ≠ none ∨ s.dcr.cmds ≠ [] ∨ memDown s = true ∨ s.boot.memReady = false → ∃ t, exec (.dcrcmdSetTopology a) s = .next t ∧
      t.reg64 Off.hubDcrcmd = a.toNat / 64 * 64 ∧ t.dcr = { s.dcr with cmds := s.dcr.cmds ++ [(2, a.toNat / 64 * 64)] } ∧ quiet t) ∧
    (s.writable Off.hubDcrcmd = true → idle → s.dcr.cmds = [] →
      (∃ t, exec .dcrcmdWrite s = .next t ∧ begun t (fun w => w.topo = s.dcr.next.topo ∧ w.retired = s.dcr.next.retired) ∧ quiet t) ∧
      (∃ t, exec .dcrcmdClearRetired s = .next t ∧ begun t (fun w => w.retired = 0 ∧ w.topo = s.dcr.next.topo) ∧ quiet t) ∧
      (∃ t, exec .dcrcmdClearTopology s = .next t ∧ begun t (fun w => w.topo = [] ∧ w.retired = s.dcr.next.retired) ∧ quiet t) ∧
      ∀ t bs, memDown s = false → s.boot.memReady = true → memRead (s.setReg64 Off.hubDcrcmd (a.toNat / 64 * 64)) .sched (a.toNat / 64 * 64) 256 = (t, .ok, bs) →
        ∃ u, exec (.dcrcmdSetTopology a) s = .next u ∧ u.mem = t.mem ∧ u.engines = t.engines ∧
          begun u (fun w => w.topo = topoTable bs))

/-! ## The host interface and the security engine -/

/-- R449 to R452: firmware. An update is refused while one runs, a record is written or power-fail is signalled; it ends with the image in the boot area, or rejected with its error and a record;
COMMITSVN raises MINSVN to the running SVN and never lowers it, but is refused while a
record is written. A recovery push takes chunks in order up to its length, and its image, once verified, stands in the
boot area and the start goes on at step 4; an image that fails its verification or its write leaves its error. REJ of an update and ERR 6 of a push after power-fail, and
the order of the checks, are the model's choices (log entry 98). -/
def Obligations.FirmwareResults : Prop :=
  ∀ (a : DevAddr) (len off : BitVec 23) (bad : Bool) (s : State),
    let quiet (t : State) : Prop := t.mem = s.mem ∧ t.engines = s.engines
    let b := s.boot
    let busy := s.fld64 Off.fwUpd 55 54 = 1 ∨ s.dcr.writing ≠ none ∨ s.powerFail = true
    let rejR := (s.setReg Off.recovArg off.toNat).setFld Off.recov 28 28 1
    (s.writable Off.fwUpd = true → busy → exec (.fwUpdate a) s = .next (s.setFld64 Off.fwUpd 60 60 1)) ∧
    (s.writable Off.fwUpd = true → ¬busy → ∃ t, exec (.fwUpdate a) s = .next t ∧ t.fld64 Off.fwUpd 55 54 = 1 ∧ t.fld64 Off.fwUpd 47 6 = a.toNat / 64 ∧
      t.boot = s.boot ∧ quiet t) ∧
    (s.writable Off.fwUpd = true → s.dcr.writing ≠ none → exec .commitsvn s = .next (s.setFld64 Off.fwUpd 60 60 1)) ∧
    (s.writable Off.fwUpd = true → s.dcr.writing = none → ∃ t, exec .commitsvn s = .next t ∧ minSvn t = max (minSvn s) (s.fld 0x400000 31 24) ∧ t.boot.fuses = some (minSvn t) ∧ quiet t) ∧
    (s.fld64 Off.fwUpd 55 54 ≠ 1 ∨ memDown s = true ∨ s.fatal = true ∨ s.powerFail = true → exec (.fwUpdateComplete bad) s = .next s) ∧
    (∀ t u h bs, s.fld64 Off.fwUpd 55 54 = 1 → memDown s = false → s.fatal = false → s.powerFail = false →
      memRead s .sched (s.fld64 Off.fwUpd 47 6 * 64) 4096 = (t, .ok, h) →
      fwLen h ≤ 8384512 → memRead t .sched (s.fld64 Off.fwUpd 47 6 * 64) (4096 + fwLen h) = (u, .ok, bs) →
      (∀ i, verifyImage (minSvn s) bs = .inl i → bad = false → ∃ v, exec (.fwUpdateComplete bad) s = .next v ∧ v.boot = { u.boot with area := some i, areaBad := false, retained := false } ∧
        v.fld64 Off.fwUpd 55 54 = 2 ∧ v.fld64 Off.fwUpd 59 56 = 0 ∧ v.mem = u.mem ∧ v.engines = u.engines) ∧
      (∀ e, verifyImage (minSvn s) bs = .inr e → ∃ v, exec (.fwUpdateComplete bad) s = .next v ∧ v.boot = u.boot ∧ v.fld64 Off.fwUpd 55 54 = 3 ∧
        v.fld64 Off.fwUpd 59 56 = e % 16 ∧ v.errSeq = (u.errSeq + 1) % 2 ^ 32 ∧ v.mem = u.mem ∧ v.engines = u.engines)) ∧
    (s.writable Off.recov = true →
      (s.fld Off.recov 2 0 = 1 → ∃ t, exec (.recovStart len) s = .next t ∧ t.fld Off.recov 2 0 = 2 ∧ t.boot = { b with push := [], pushLen := len.toNat } ∧ quiet t) ∧
      (s.fld Off.recov 2 0 ≠ 1 → exec (.recovStart off) s = .next rejR) ∧
      (s.fld Off.recov 2 0 ≠ 2 ∨ off.toNat ≠ b.push.length ∨ b.pushLen ≤ b.push.length ∨ b.push.length % 65536 ≠ 0 → exec (.recovChunk off) s = .next rejR) ∧
      (s.fld Off.recov 2 0 = 2 → off.toNat = b.push.length → b.push.length < b.pushLen → b.push.length % 65536 = 0 → ∃ t, exec (.recovChunk off) s = .next t ∧
        t.boot.push.length = b.push.length + min 65536 (b.pushLen - b.push.length) ∧ b.push <+: t.boot.push ∧ t.boot.pushLen = b.pushLen ∧ quiet t) ∧
      (s.fld Off.recov 2 0 ≠ 2 ∨ b.push.length ≠ b.pushLen → exec (.recovDone bad) s = .next (s.setFld Off.recov 28 28 1)) ∧
      (∀ e, s.fld Off.recov 2 0 = 2 → b.push.length = b.pushLen → verifyImage (fuseSvn s) b.push = .inr e ∨
        (e = 6 ∧ (∃ i, verifyImage (fuseSvn s) b.push = .inl i) ∧ (bad = true ∨ s.powerFail = true)) →
        ∃ t, exec (.recovDone bad) s = .next t ∧ t.boot = { b with push := [] } ∧ t.fld Off.recov 2 0 = 1 ∧ t.fld Off.recov 27 24 = e % 16 ∧ quiet t) ∧
      ∀ i, s.fld Off.recov 2 0 = 2 → b.push.length = b.pushLen → verifyImage (fuseSvn s) b.push = .inl i → bad = false → s.powerFail = false →
        ∃ t, exec (.recovDone bad) s = .next t ∧ t.boot.area = some i ∧ t.boot.areaBad = false ∧ t.boot.running = true ∧ t.boot.step = 4 ∧
          t.fld Off.recov 2 0 = 4 ∧ t.fld Off.hubStatus 23 20 = 4 ∧ quiet t)

/-- R453 to R458: the SPDM responder and the LMS index. Nothing is answered before Olmup runs. Otherwise one answer leaves for each request: a signed report takes
the next index, which never comes twice, and is refused when the key is exhausted or the index not yet reserved; measurements without a signature take none. The capabilities, the algorithms
and the version 1.3 are those of R453 and no others, and an object above 64 KiB is none. The request codes (log entry 131), ERROR 0x01 for an invalid index or slot and the
LMS index that any signed GET_MEASUREMENTS takes (log entry 96), and the silence before Olmup runs (log entry 102) are the model's. -/
def Obligations.SpdmResults : Prop :=
  ∀ (i code : BitVec 8) (nonce payload : List Byte) (signed : Bool) (slot : Fin 8) (s : State),
    let quiet (t : State) : Prop := t.mem = s.mem ∧ t.engines = s.engines
    let sent (t : State) (x : Answer) : Prop := t.side.answers = s.side.answers ++ [x]
    let req := [Instr.getMeasurements i signed nonce, .challenge, .getCertificate slot, .spdmRequest code payload]
    (olmup s = false → ∀ c ∈ req, exec c s = .next s) ∧
    (olmup s = true →
      (signed = false ∨ lmsExhausted s = false → askedBlocks i.toNat signed = none → ∃ t, exec (.getMeasurements i signed nonce) s = .next t ∧ sent t (.error 1 0) ∧ t.regs = s.regs ∧ quiet t) ∧
      (∀ bs, askedBlocks i.toNat signed = some bs → signed = false → ∃ t l, exec (.getMeasurements i signed nonce) s = .next t ∧
        sent t (.measurements l false) ∧ l.map (·.1) = bs ∧ t.regs = s.regs ∧ quiet t) ∧
      (signed = true → lmsExhausted s = true → ∃ t, exec (.getMeasurements i signed nonce) s = .next t ∧
        sent t (.error 0xFF 1) ∧ lmsNext t = lmsNext s ∧ quiet t) ∧
      (∀ bs, askedBlocks i.toNat signed = some bs → signed = true → lmsExhausted s = false → lmsRsv s ≤ lmsNext s →
        ∃ t, exec (.getMeasurements i signed nonce) s = .next t ∧ sent t (.error 3 0) ∧ lmsNext t = lmsNext s ∧ quiet t) ∧
      (∀ bs, askedBlocks i.toNat signed = some bs → signed = true → lmsExhausted s = false → lmsNext s < lmsRsv s →
        ∃ t l, exec (.getMeasurements i signed nonce) s = .next t ∧ sent t (.measurements l true) ∧ l.map (·.1) = bs ∧ lmsNext t = lmsNext s + 1 ∧
          (lmsRsv t = lmsRsv s) ∧ quiet t) ∧
      (lmsExhausted s = true → ∃ t, exec .challenge s = .next t ∧ sent t (.error 0xFF 1) ∧ quiet t) ∧
      (lmsExhausted s = false → ∃ t, exec .challenge s = .next t ∧ sent t .challenge ∧ t.regs = s.regs ∧ quiet t) ∧
      (slot.val ≤ 1 → ∃ t, exec (.getCertificate slot) s = .next t ∧ sent t (.certificate slot.val (Config.certChain slot.val)) ∧ t.regs = s.regs ∧ quiet t) ∧
      (2 ≤ slot.val → ∃ t, exec (.getCertificate slot) s = .next t ∧ sent t (.error 1 0) ∧ t.regs = s.regs ∧ quiet t) ∧
      (65536 < payload.length → exec (.spdmRequest code payload) s = .next s) ∧
      (payload.length ≤ 65536 → ∃ t x, exec (.spdmRequest code payload) s = .next t ∧ sent t x ∧ quiet t ∧
        (code.toNat = 0x84 → x = .version 1 3) ∧ (code.toNat = 0xE1 → x = .capabilities spdmCapabilities) ∧ (code.toNat = 0xE3 → x = .algorithms spdmAlgorithms)))

/-- R459, R460: sessions between devices. A request starts an open with a message to relay, and RESPOND arms the device, each refused while an open is under way; what the
host relays back goes to the open; a close erases the session's key; and an open that has not completed in 10 s ends with its error. That an armed device counts as an open under way, and that the
time-out concerns the requester alone, are the model's choices (log entry 99). -/
def Obligations.SessionResults : Prop :=
  ∀ (k : Fin 16) (peer : BitVec 12) (len : BitVec 12) (s : State),
    let quiet (t : State) : Prop := t.mem = s.mem ∧ t.engines = s.engines
    let busy := s.side.opening ≠ none ∨ s.side.armed ≠ none
    (s.writable Off.scmd = true →
      (busy → ∀ i ∈ [Instr.sessionRequest k peer, .sessionRespond k peer], ∃ t, exec i s = .next t ∧ t.fld64 Off.scmd 60 60 = 1 ∧ t.side = s.side ∧ quiet t) ∧
      (¬busy → ∃ t, exec (.sessionRequest k peer) s = .next t ∧ t.side.opening = some ⟨k.val, peer.toNat, s.us, []⟩ ∧ t.fld Off.relayCtl 31 31 = 1 ∧ quiet t) ∧
      (¬busy → ∃ t, exec (.sessionRespond k peer) s = .next t ∧ t.side.armed = some ⟨k.val, peer.toNat, s.us, []⟩ ∧ quiet t) ∧
      (∃ t, exec (.sessionClose k) s = .next t ∧ SMap.get noBytes t.flash.sessKeys k.val = [] ∧ t.reg (sess k.val) = 0 ∧ quiet t ∧
        (∀ j, j ≠ k.val → SMap.get noBytes t.flash.sessKeys j = SMap.get noBytes s.flash.sessKeys j))) ∧
    (s.writable Off.relayCtl = true → s.side.opening = none → ∃ t, exec (.relayIngo len) s = .next t ∧ t.fld Off.relayCtl 31 31 = 0 ∧ t.side = s.side ∧ quiet t) ∧
    (∀ o, s.writable Off.relayCtl = true → s.side.opening = some o → ∃ t, exec (.relayIngo len) s = .next t ∧ quiet t ∧ t.side.armed = s.side.armed ∧
      (t.side.opening = none ∨ ∃ m, t.side.opening = some { o with msgs := o.msgs ++ [m] })) ∧
    (s.side.opening = none → exec .sessionOpenTimeout s = .next s) ∧
    ∀ o, s.side.opening = some o →
      (s.us < o.us + 10000000 → exec .sessionOpenTimeout s = .next s) ∧
      (o.us + 10000000 ≤ s.us → ∃ t, exec .sessionOpenTimeout s = .next t ∧ t.side.opening = none ∧ t.fld64 Off.scmd 59 56 = 1 ∧
        t.errSeq = (s.errSeq + 1) % 2 ^ 32 ∧ quiet t)

/-- R437, R440, R443, R446, R447, R453: the sideband, the host's completions and its interrupts. A sideband read returns the word and a sideband write acts as the host's; each PLDM, control
and discovery request has its answer, with ALERT# on the sideband, but nothing answers there before Olmup runs; the bus address is the assigned one, else 0x40 + MID; a completion gives the host bytes what it brought, and one that failed marks them and is reported with its severity; bits of HUB_IRQSTAT written as 1 clear. The sensor
numbers (log entry 100), ALERT# with each answer, the silence before Olmup runs and the end of ALERT# with a target reset (log entry 102), and the numbers of the
reports (log entry 52) are the model's, and so is a discovery list that ends at index 2 (log entry 96). -/
def Obligations.HostPortResults : Prop :=
  ∀ (off v : Word32) (a : Word64) (n : Nat) (bs : List Byte) (cmd eid index : BitVec 8) (addr : Option (BitVec 7)) (s : State),
    let rest (t : State) : Prop := t.regs = s.regs ∧ t.engines = s.engines ∧ t.mem = s.mem
    let sent (t : State) (x : Answer) : Prop := t.side.answers = s.side.answers ++ [x]
    let hostAt (t : State) (p : Nat) : HostByte := SMap.get hostUnread t.mem.host p
    (olmup s = false → exec (.pldmRequest n) s = .next s ∧ exec (.mctpControl cmd eid) s = .next s) ∧
    (olmup s = true → ∃ t x, exec (.pldmRequest n) s = .next t ∧ sent t (.sensor x) ∧ t.side.alert = true ∧ rest t ∧ (n = 4 → x = s.fld Off.pwrInput 20 0) ∧ (n = 31 → x = s.fld Off.hubStatus 31 31)) ∧
    (olmup s = true → ∃ t, exec (.mctpControl cmd eid) s = .next t ∧ t.side.alert = true ∧ t.side.eid = (if cmd.toNat = 1 then eid.toNat else s.side.eid) ∧ sent t (.control cmd.toNat t.side.eid) ∧ rest t) ∧
    (s.boot.powered = false → exec (.i3cAddressAssignment addr) s = .next s) ∧
    (s.boot.powered = true → ∃ t, exec (.i3cAddressAssignment addr) s = .next t ∧ t.side = { s.side with i3c := addr.map (·.toNat), alert := s.side.alert && addr.isSome } ∧
      busAddress t = (addr.map (·.toNat)).getD (0x40 + s.boot.mid) ∧ rest t) ∧
    (∃ t, exec .mateOpen s = .next t ∧ t.powerFail = true ∧ t.side = s.side ∧ rest t) ∧
    (olmup s = false ∨ s.power.perst = true → exec (.doeDiscovery index) s = .next s) ∧
    (olmup s = true → s.power.perst = false → ∃ t x, exec (.doeDiscovery index) s = .next t ∧ sent t x ∧ t.side.alert = s.side.alert ∧ rest t ∧
      (2 < index.toNat → x = .discovery 0xFFFF 0 0)) ∧
    (s.writable Off.irqStat = true → ∃ t, exec (.hubIrqstatWrite v) s = .next t ∧ t.engines = s.engines ∧ t.mem = s.mem ∧
      ∀ i, i < 32 → t.fld Off.irqStat i i = (if i < 12 ∧ bit v.toNat i = true then 0 else s.fld Off.irqStat i i)) ∧
    (a.toNat + bs.length < 2 ^ 64 → ∀ st : Fin 4, ∃ t, exec (.pcieReadCompletion a st bs) s = .next t ∧ t.regs = s.regs ∧ t.engines = s.engines ∧
      t.mem = { s.mem with host := t.mem.host } ∧ (∀ i (h : i < bs.length), hostAt t (a.toNat + i) = (if st.val = 0 then .data bs[i] else .failed)) ∧
      (∀ p, p < a.toNat ∨ a.toNat + bs.length ≤ p → hostAt t p = hostAt s p) ∧
      t.host.aer = s.host.aer ++ (if st.val = 1 then [(2, s.host.config.severity.getD 2 .nonFatal)] else if st.val = 2 then [(3, s.host.config.severity.getD 3 .nonFatal)] else [])) ∧
    (a.toNat + n < 2 ^ 64 → ∃ t, exec (.pcieCompletionTimeout a n) s = .next t ∧ t.regs = s.regs ∧ t.engines = s.engines ∧
      t.mem = { s.mem with host := t.mem.host } ∧ (∀ i, i < n → hostAt t (a.toNat + i) = .failed) ∧ (∀ p, p < a.toNat ∨ a.toNat + n ≤ p → hostAt t p = hostAt s p) ∧
      t.host.aer = s.host.aer ++ [(1, s.host.config.severity.getD 1 .nonFatal)]) ∧
    (powerState s = 3 ∨ s.boot.powered = false → exec (.mctpRead32 off) s = .next s) ∧
    (powerState s ≠ 3 → s.boot.powered = true → ∃ t x, exec (.mctpRead32 off) s = .next t ∧ t.side.answers = s.side.answers ++ [.word x] ∧ t.side.alert = true ∧ t.mem = s.mem ∧
      (0x300000 ≤ off.toNat ∨ off.toNat % 4 ≠ 0 → x = 0)) ∧
    (powerState s = 3 ∨ s.boot.powered = false → exec (.mctpWrite32 off v) s = .next s) ∧
    (0x300000 ≤ off.toNat ∨ off.toNat % 4 ≠ 0 → exec (.mctpWrite32 off v) s = .next s) ∧
    (0x200000 ≤ off.toNat → off.toNat < 0x300000 → off.toNat ≠ Off.errHead → off.toNat % 4 = 0 → s.boot.powered = true → s.writable off.toNat = true →
      exec (.mctpWrite32 off v) s = .next (plainWrite s off.toNat v.toNat)) ∧
    (off.toNat < 0x300000 → off.toNat % 4 = 0 → s.boot.powered = true → hostSilent s = false →
      exec (.mctpWrite32 off v) s = exec (.registerWrite (BitVec.ofNat 26 off.toNat) 4 ⟨BitVec.ofNat 64 v.toNat, false⟩) s)
end

