-- ==== Sys2Proof/Laws/SMap.lean ====
section
/-! SUPPORT. Laws of sparse maps: reading after writing, writing twice, and that every operation keeps the canonical form. -/

namespace Sys2Proof.SMap

variable {α : Type}

theorem get_put_same (d : Nat → α) (m : SMap α) (k : Nat) (v : α) : get d (put m k v) k = v := by
  induction m with
  | nil => simp [put, get]
  | cons p t ih =>
    obtain ⟨k', v'⟩ := p
    simp only [put]
    split
    · simp [get]
    · split
      · simp [get]
      · have : k' ≠ k := fun h => ‹¬k = k'› h.symm
        simp [get, this, ih]

theorem get_put_other (d : Nat → α) (m : SMap α) (k j : Nat) (v : α) (h : j ≠ k) : get d (put m k v) j = get d m j := by
  induction m with
  | nil => simp [put, get, Ne.symm h]
  | cons p t ih =>
    obtain ⟨k', v'⟩ := p
    simp only [put]
    split
    · simp [get, Ne.symm h]
    · split
      · next _ hk => subst hk; simp [get, Ne.symm h]
      · simp [get, ih]

theorem get_filter_same (d : Nat → α) (m : SMap α) (k : Nat) : get d (m.filter fun p => p.1 != k) k = d k := by
  induction m with
  | nil => simp [get]
  | cons p t ih =>
    obtain ⟨k', v'⟩ := p
    by_cases h : k' = k
    · simp [h, ih]
    · simp [get, h, ih]

theorem get_filter_other (d : Nat → α) (m : SMap α) (k j : Nat) (h : j ≠ k) :
    get d (m.filter fun p => p.1 != k) j = get d m j := by
  induction m with
  | nil => simp [get]
  | cons p t ih =>
    obtain ⟨k', v'⟩ := p
    by_cases hk : k' = k
    · subst hk; simp [get, Ne.symm h, ih]
    · simp [get, hk, ih]

/-- A read after a write to the same key gives the value written. -/
theorem get_set_same [DecidableEq α] (d : Nat → α) (m : SMap α) (k : Nat) (v : α) : get d (set d m k v) k = v := by
  unfold set
  split
  · next h => rw [get_filter_same, h]
  · exact get_put_same d m k v

/-- A write leaves every other key alone. -/
theorem get_set_other [DecidableEq α] (d : Nat → α) (m : SMap α) (k j : Nat) (v : α) (h : j ≠ k) : get d (set d m k v) j = get d m j := by
  unfold set
  split
  · exact get_filter_other d m k j h
  · exact get_put_other d m k j v h

theorem get_set [DecidableEq α] (d : Nat → α) (m : SMap α) (k j : Nat) (v : α) :
    get d (set d m k v) j = if j = k then v else get d m j := by
  split
  · next h => subst h; exact get_set_same d m j v
  · next h => exact get_set_other d m k j v h

theorem put_put (m : SMap α) (k : Nat) (v w : α) : put (put m k v) k w = put m k w := by
  induction m with
  | nil => simp [put]
  | cons p t ih =>
    obtain ⟨k', v'⟩ := p
    simp only [put]
    split
    · simp [put]
    · split
      · simp [put]
      · simp [put, *]

/-- Writing twice at a key is writing once, where neither value is what an unlisted key reads as. -/
theorem set_set [DecidableEq α] (d : Nat → α) (m : SMap α) (k : Nat) (v w : α) (hv : v ≠ d k) (hw : w ≠ d k) :
    set d (set d m k v) k w = set d m k w := by simp [set, hv, hw, put_put]

theorem all_filter {m : SMap α} {p q : Nat × α → Bool} (h : m.all p = true) : (m.filter q).all p = true := by
  simp only [List.all_eq_true, List.mem_filter] at *
  exact fun x hx => h x hx.1

/-- Removing entries keeps the canonical form. -/
theorem wf_filter [DecidableEq α] (d : Nat → α) (q : Nat × α → Bool) (m : SMap α) (h : wf d m = true) : wf d (m.filter q) = true := by
  induction m with
  | nil => simp [wf]
  | cons p t ih =>
    obtain ⟨k', v'⟩ := p
    simp only [wf, Bool.and_eq_true] at h
    simp only [List.filter]
    split
    · simp only [wf, Bool.and_eq_true]
      exact ⟨⟨h.1.1, all_filter h.1.2⟩, ih h.2⟩
    · exact ih h.2

theorem mem_put {m : SMap α} {k : Nat} {v : α} {x : Nat × α} (h : x ∈ put m k v) : x = (k, v) ∨ x ∈ m := by
  induction m with
  | nil => simp [put] at h; exact .inl h
  | cons p t ih =>
    obtain ⟨k', v'⟩ := p
    simp only [put] at h
    split at h
    · simpa using h
    · split at h
      · next _ hk =>
        rcases List.mem_cons.mp h with h | h
        · exact .inl h
        · exact .inr (List.mem_cons_of_mem _ h)
      · rcases List.mem_cons.mp h with h | h
        · exact .inr (h ▸ List.mem_cons_self ..)
        · exact (ih h).imp id (List.mem_cons_of_mem _)

theorem wf_put [DecidableEq α] (d : Nat → α) (m : SMap α) (k : Nat) (v : α) (hv : v ≠ d k) (h : wf d m = true) : wf d (put m k v) = true := by
  induction m with
  | nil => simp [put, wf, hv]
  | cons p t ih =>
    obtain ⟨k', v'⟩ := p
    have h0 := h
    simp only [wf, Bool.and_eq_true, List.all_eq_true, decide_eq_true_eq] at h
    obtain ⟨⟨h1, h2⟩, h3⟩ := h
    simp only [put]
    split
    · next hk =>
      simp only [wf, Bool.and_eq_true, List.all_eq_true, decide_eq_true_eq]
      refine ⟨⟨hv, fun x hx => ?_⟩, ⟨⟨h1, h2⟩, h3⟩⟩
      rcases List.mem_cons.mp hx with hx | hx
      · subst hx; exact hk
      · exact Nat.lt_trans hk (h2 x hx)
    · split
      · next _ hk =>
        subst hk
        simp only [wf, Bool.and_eq_true, List.all_eq_true, decide_eq_true_eq]
        exact ⟨⟨hv, h2⟩, h3⟩
      · next hk hk' =>
        simp only [wf, Bool.and_eq_true, List.all_eq_true, decide_eq_true_eq]
        refine ⟨⟨h1, fun x hx => ?_⟩, ih h3⟩
        rcases mem_put hx with hx | hx
        · subst hx; simp only; omega
        · exact h2 x hx

/-- Every write keeps the canonical form. -/
theorem wf_set [DecidableEq α] (d : Nat → α) (m : SMap α) (k : Nat) (v : α) (h : wf d m = true) : wf d (set d m k v) = true := by
  unfold set
  split
  · exact wf_filter d _ m h
  · exact wf_put d m k v ‹_› h

end Sys2Proof.SMap

namespace Sys2Proof.ByteMap

/-- One byte after a write of one byte. -/
theorem rd_wr (m : ByteMap) (a b : Nat) (v : Byte) : (m.wr a v).rd b = if b = a then v else m.rd b := SMap.get_set ..

theorem wf_wr (m : ByteMap) (a : Nat) (v : Byte) (h : m.wf) : (m.wr a v).wf := SMap.wf_set _ _ _ _ h

theorem wf_wrN (bs : List Byte) : ∀ (m : ByteMap) (a : Nat), m.wf → (m.wrN a bs).wf := by
  induction bs with
  | nil => intro m a h; exact h
  | cons b t ih => intro m a h; exact ih _ _ (wf_wr m a b h)

/-- A byte outside the bytes written reads as before. -/
theorem rd_wrN_outside (bs : List Byte) : ∀ (m : ByteMap) (a b : Nat), (b < a ∨ a + bs.length ≤ b) →
    (m.wrN a bs).rd b = m.rd b := by
  induction bs with
  | nil => intro m a b _; rfl
  | cons v t ih =>
    intro m a b h
    simp only [List.length_cons] at h
    rw [wrN, ih _ _ _ (by omega), rd_wr, if_neg (by omega)]

/-- A byte among those written reads as written. -/
theorem rd_wrN_inside (bs : List Byte) : ∀ (m : ByteMap) (a i : Nat) (h : i < bs.length), (m.wrN a bs).rd (a + i) = bs[i] := by
  induction bs with
  | nil => intro m a i h; simp at h
  | cons v t ih =>
    intro m a i h
    cases i with
    | zero => rw [wrN, rd_wrN_outside _ _ _ _ (by omega), rd_wr]; simp
    | succ j =>
      have := ih (m.wr a v) (a + 1) j (by simpa using h)
      simp only [wrN, List.getElem_cons_succ]
      rw [← this]; congr 1; omega

end Sys2Proof.ByteMap
end

