-- ==== Sys2Proof/Laws/Canon.lean ====
section
/-! SUPPORT. The canonical form under the named operations: what writes a register, an engine, a context or a memory keeps it. -/

namespace Sys2Proof.Machine

theorem canonical_mk {regs engines mem mapOld lates ctxs kv sched fabric coll flash codec host dcr boot power side ueNow tlyHold compReset powerFail errSeq us nextId
      free pending} :
    (State.mk regs engines mem mapOld lates ctxs kv sched fabric coll flash codec host dcr boot power side ueNow tlyHold compReset powerFail errSeq us nextId
      free pending).canonical = Canon mem regs engines ctxs := rfl

theorem canon_fold {s : State} : Canon s.mem s.regs s.engines s.ctxs = s.canonical := rfl

theorem canon_mem {s : State} {m : Mem} (h : s.canonical) (hm : m.wf = true) : Canon m s.regs s.engines s.ctxs := ⟨hm, h.2⟩

theorem canonical_hbm {s : State} (h : s.canonical) : SMap.wf zeroByte s.mem.hbm = true := by
  have := h.1; simp only [Mem.wf, Bool.and_eq_true] at this; simp [this]

theorem canonical_hbmErr {s : State} (h : s.canonical) : SMap.wf noMark s.mem.hbmErr = true := by
  have := h.1; simp only [Mem.wf, Bool.and_eq_true] at this; simp [this]

theorem canonical_landing {s : State} (h : s.canonical) : SMap.wf zeroByte s.mem.landing = true := by
  have := h.1; simp only [Mem.wf, Bool.and_eq_true] at this; simp [this]

theorem canonical_landErr {s : State} (h : s.canonical) : SMap.wf noMark s.mem.landErr = true := by
  have := h.1; simp only [Mem.wf, Bool.and_eq_true] at this; simp [this]

theorem canonical_cached {s : State} (h : s.canonical) : SMap.wf noMark s.mem.cached = true := by
  have := h.1; simp only [Mem.wf, Bool.and_eq_true] at this; simp [this]

theorem canonical_host {s : State} (h : s.canonical) : SMap.wf hostUnread s.mem.host = true := by
  have := h.1; simp only [Mem.wf, Bool.and_eq_true] at this; simp [this]

theorem canon_hbm {s : State} {x} (h : s.canonical) (hx : SMap.wf zeroByte x = true) :
    Canon { hbm := x, hbmErr := s.mem.hbmErr, landing := s.mem.landing, landErr := s.mem.landErr, cached := s.mem.cached, host := s.mem.host } s.regs s.engines s.ctxs := by
  refine canon_mem h ?_
  have := h.1; simp only [Mem.wf, Bool.and_eq_true] at this ⊢; simp [this, hx]

theorem canon_hbmErr {s : State} {x} (h : s.canonical) (hx : SMap.wf noMark x = true) :
    Canon { hbm := s.mem.hbm, hbmErr := x, landing := s.mem.landing, landErr := s.mem.landErr, cached := s.mem.cached, host := s.mem.host } s.regs s.engines s.ctxs := by
  refine canon_mem h ?_
  have := h.1; simp only [Mem.wf, Bool.and_eq_true] at this ⊢; simp [this, hx]

theorem canon_landing {s : State} {x} (h : s.canonical) (hx : SMap.wf zeroByte x = true) :
    Canon { hbm := s.mem.hbm, hbmErr := s.mem.hbmErr, landing := x, landErr := s.mem.landErr, cached := s.mem.cached, host := s.mem.host } s.regs s.engines s.ctxs := by
  refine canon_mem h ?_
  have := h.1; simp only [Mem.wf, Bool.and_eq_true] at this ⊢; simp [this, hx]

theorem canon_landErr {s : State} {x} (h : s.canonical) (hx : SMap.wf noMark x = true) :
    Canon { hbm := s.mem.hbm, hbmErr := s.mem.hbmErr, landing := s.mem.landing, landErr := x, cached := s.mem.cached, host := s.mem.host } s.regs s.engines s.ctxs := by
  refine canon_mem h ?_
  have := h.1; simp only [Mem.wf, Bool.and_eq_true] at this ⊢; simp [this, hx]

theorem canon_cached {s : State} {x} (h : s.canonical) (hx : SMap.wf noMark x = true) :
    Canon { hbm := s.mem.hbm, hbmErr := s.mem.hbmErr, landing := s.mem.landing, landErr := s.mem.landErr, cached := x, host := s.mem.host } s.regs s.engines s.ctxs := by
  refine canon_mem h ?_
  have := h.1; simp only [Mem.wf, Bool.and_eq_true] at this ⊢; simp [this, hx]

theorem canon_host {s : State} {x} (h : s.canonical) (hx : SMap.wf hostUnread x = true) :
    Canon { hbm := s.mem.hbm, hbmErr := s.mem.hbmErr, landing := s.mem.landing, landErr := s.mem.landErr, cached := s.mem.cached, host := x } s.regs s.engines s.ctxs := by
  refine canon_mem h ?_
  have := h.1; simp only [Mem.wf, Bool.and_eq_true] at this ⊢; simp [this, hx]

theorem canon_cleared {s : State} (h : s.canonical) : Canon { host := s.mem.host } s.regs s.engines s.ctxs := by
  refine canon_mem h ?_
  simp [Mem.wf, SMap.wf, canonical_host h]

theorem canon_cold {s : State} (h : s.canonical) : Canon { host := s.mem.host } [] [] [] :=
  ⟨(canon_cleared h).1, rfl, rfl, rfl⟩

theorem canon_noLanding {s : State} (h : s.canonical) :
    Canon { hbm := s.mem.hbm, hbmErr := s.mem.hbmErr, host := s.mem.host } s.regs s.engines s.ctxs := by
  refine canon_mem h ?_
  simp [Mem.wf, SMap.wf, canonical_host h, canonical_hbm h, canonical_hbmErr h]

theorem canon_regs {s : State} {r : SMap Word32} (h : s.canonical) (hr : SMap.wf regReset r = true) : Canon s.mem r s.engines s.ctxs :=
  ⟨h.1, hr, h.2.2⟩

theorem wf_foldl {α β : Type} [DecidableEq α] {d : Nat → α} {f : SMap α → β → SMap α} {l : List β} {m : SMap α}
    (hf : ∀ m x, SMap.wf d m = true → SMap.wf d (f m x) = true) (h : SMap.wf d m = true) : SMap.wf d (l.foldl f m) = true := by
  induction l generalizing m with
  | nil => exact h
  | cons x l ih => exact ih (hf m x h)

theorem canonical_foldl {α : Type} {f : State → α → State} {l : List α} {s : State} (hf : ∀ t x, t.canonical → (f t x).canonical)
    (h : s.canonical) : (l.foldl f s).canonical := by
  induction l generalizing s with
  | nil => exact h
  | cons x l ih => exact ih (hf s x h)

theorem canonical_foldl_fst {α β : Type} {f : State × β → α → State × β} {l : List α} {s : State × β}
    (hf : ∀ t x, t.1.canonical → (f t x).1.canonical) (h : s.1.canonical) : (l.foldl f s).1.canonical := by
  induction l generalizing s with
  | nil => exact h
  | cons x l ih => exact ih (hf s x h)

theorem canonical_ite {c : Prop} [Decidable c] {a b : State} (ha : a.canonical) (hb : b.canonical) : (if c then a else b).canonical := by
  split <;> assumption

theorem canonical_ite_fst {α : Type} {c : Prop} [Decidable c] {a b : State × α} (ha : a.1.canonical) (hb : b.1.canonical) :
    (if c then a else b).1.canonical := by
  split <;> assumption

theorem canonical_fst {α : Type} {p : State × α} {t : State} {x : α} (e : p = (t, x)) (h : p.1.canonical) : t.canonical := by
  rw [e] at h; exact h

theorem canonical_State_setReg {s : State} (off v : Nat) (h : s.canonical) : (s.setReg off v).canonical :=
  ⟨h.1, SMap.wf_set _ _ _ _ h.2.1, h.2.2⟩

theorem canonical_State_setEng {s : State} (n : Nat) (e : Engine) (h : s.canonical) : (s.setEng n e).canonical :=
  ⟨h.1, h.2.1, SMap.wf_set _ _ _ _ h.2.2.1, h.2.2.2⟩

theorem canonical_State_setCtx {s : State} (c : Nat) (x : Ctx) (h : s.canonical) : (s.setCtx c x).canonical :=
  ⟨h.1, h.2.1, h.2.2.1, SMap.wf_set _ _ _ _ h.2.2.2⟩

end Sys2Proof.Machine
end

