-- ==== Sys2Proof/Laws/CanonEngine.lean ====
section
/-! SUPPORT. What keeps the canonical form: memory, the engines, their queues and transfers, and contexts. -/

set_option linter.unusedSimpArgs false

namespace Sys2Proof.Machine

theorem canonical_State_setFld (s : State) (off hi lo v : Nat) (h_s : s.canonical) : (State.setFld s off hi lo v).canonical := by
  unfold State.setFld
  try dsimp only
  with_reducible repeat' first | assumption | apply canonical_State_setReg

theorem canonical_State_setReg64 (s : State) (off v : Nat) (h_s : s.canonical) : (State.setReg64 s off v).canonical := by
  unfold State.setReg64
  try dsimp only
  with_reducible repeat' first | assumption | apply canonical_State_setReg

theorem canonical_State_setFld64 (s : State) (off hi lo v : Nat) (h_s : s.canonical) : (State.setFld64 s off hi lo v).canonical := by
  unfold State.setFld64
  try dsimp only
  with_reducible repeat' first | assumption | apply canonical_State_setReg64

theorem canonical_State_count (s : State) (off hi lo n : Nat) (h_s : s.canonical) : (State.count s off hi lo n).canonical := by
  unfold State.count
  try dsimp only
  with_reducible repeat' first | assumption | apply canonical_State_setFld

theorem canonical_State_count64 (s : State) (off n : Nat) (h_s : s.canonical) : (State.count64 s off n).canonical := by
  unfold State.count64
  try dsimp only
  with_reducible repeat' first | assumption | apply canonical_State_setReg64

theorem canonical_State_modEng (s : State) (n : Nat) (f : Engine → Engine) (h_s : s.canonical) : (State.modEng s n f).canonical := by
  unfold State.modEng
  try dsimp only
  with_reducible repeat' first | assumption | apply canonical_State_setEng

theorem canonical_State_modCtx (s : State) (c : Nat) (f : Ctx → Ctx) (h_s : s.canonical) : (State.modCtx s c f).canonical := by
  unfold State.modCtx
  try dsimp only
  with_reducible repeat' first | assumption | apply canonical_State_setCtx

theorem canonical_State_setCtxState (s : State) (c v : Nat) (h_s : s.canonical) : (State.setCtxState s c v).canonical := by
  unfold State.setCtxState
  try dsimp only
  with_reducible repeat' first | assumption | apply canonical_State_setFld

theorem canonical_State_sendVector (s : State) (v : Nat) (h_s : s.canonical) : (State.sendVector s v).canonical := by
  unfold State.sendVector
  try dsimp only
  with_reducible repeat' first | assumption | apply canonical_State_setFld | split | simp only [canonical_mk, canon_fold, id_eq]

theorem canonical_State_raiseIrq (s : State) (i : Nat) (h_s : s.canonical) : (State.raiseIrq s i).canonical := by
  unfold State.raiseIrq
  try dsimp only
  with_reducible repeat' first | assumption | apply canonical_State_setFld | apply canonical_State_sendVector | split

theorem canonical_State_setWords (s : State) (off : Nat) (w0 w1 w2 w3 : Nat) (h_s : s.canonical) : (State.setWords s off w0 w1 w2 w3).canonical := by
  unfold State.setWords
  try dsimp only
  with_reducible repeat' first | assumption | apply canonical_State_setReg64

theorem canonical_State_appendRecord (s : State) (src code sev : Nat) (ctx eng : Option Nat) (info aux : Nat) (h_s : s.canonical) : (State.appendRecord s src code sev ctx eng info aux).canonical := by
  unfold State.appendRecord
  try dsimp only
  with_reducible repeat' first | assumption | apply canonical_State_count | apply canonical_State_raiseIrq | apply canonical_State_setWords | apply canonical_State_setFld | split | simp only [canonical_mk, canon_fold, id_eq]

theorem canonical_State_tally (s : State) (e sel n : Nat) (h_s : s.canonical) : (State.tally s e sel n).canonical := by
  unfold State.tally
  try dsimp only
  with_reducible repeat' first | assumption | apply canonical_State_modEng | apply canonical_State_count64 | split

theorem canonical_State_tallySlot (s : State) (e sel n : Nat) (h_s : s.canonical) : (State.tallySlot s e sel n).canonical := by
  unfold State.tallySlot
  try dsimp only
  with_reducible repeat' first | assumption | apply canonical_State_count64 | split

theorem canonical_State_draw (s : State) (h_s : s.canonical) : (State.draw s).1.canonical := by
  unfold State.draw
  try dsimp only
  with_reducible repeat' first | assumption | simp only [canonical_mk, canon_fold, id_eq]

theorem canonical_State_raiseFlags (s : State) (e : Nat) (f : Flags) (h_s : s.canonical) : (State.raiseFlags s e f).canonical := by
  unfold State.raiseFlags
  try dsimp only
  with_reducible repeat' first | assumption | apply canonical_State_modEng

theorem canonical_State_beginTeardown (s : State) (c cause : Nat) (h_s : s.canonical) : (State.beginTeardown s c cause).canonical := by
  unfold State.beginTeardown
  try dsimp only
  with_reducible repeat' first | assumption | apply canonical_State_setCtxState | apply canonical_State_modCtx | apply canonical_State_modEng | apply canonical_foldl | split | simp only [canonical_mk, canon_fold, id_eq] | intro _

theorem canonical_State_requestPreempt (s : State) (c : Nat) (h_s : s.canonical) : (State.requestPreempt s c).canonical := by
  unfold State.requestPreempt
  try dsimp only
  with_reducible repeat' first | assumption | apply canonical_State_setCtxState | apply canonical_State_modCtx | split

theorem canonical_State_noteUe (s : State) (e : Nat) (bad : Bool) (h_s : s.canonical) : (State.noteUe s e bad).canonical := by
  unfold State.noteUe
  try dsimp only
  with_reducible repeat' first | assumption | split | simp only [canonical_mk, canon_fold, id_eq]

theorem canonical_State_countUe (s : State) (code : Nat) (h_s : s.canonical) : (State.countUe s code).canonical := by
  unfold State.countUe
  try dsimp only
  with_reducible repeat' first | assumption | split | simp only [canonical_mk, canon_fold, id_eq]

theorem canonical_State_raiseTrap (s0 : State) (e code info aux : Nat) (h_s0 : s0.canonical) : (State.raiseTrap s0 e code info aux).canonical := by
  unfold State.raiseTrap
  try dsimp only
  with_reducible repeat' first | assumption | apply canonical_State_countUe | apply canonical_State_setEng | apply canonical_State_appendRecord | apply canonical_State_modEng | apply canonical_State_beginTeardown | split

theorem canonical_repairCandidate (s : State) (st : Nat) (h_s : s.canonical) : (repairCandidate s st).canonical := by
  unfold repairCandidate
  try dsimp only
  with_reducible repeat' first | assumption | apply canonical_State_draw | apply canonical_State_count

theorem canonical_hbmUe (s : State) (line dev code : Nat) (record : Bool) (h_s : s.canonical) : (hbmUe s line dev code record).canonical := by
  unfold hbmUe
  try dsimp only
  with_reducible repeat' first | assumption | apply canonical_repairCandidate | apply canonical_State_count | apply canonical_State_setReg64 | apply canonical_State_appendRecord | split | apply canon_hbmErr | apply canonical_hbmErr | apply SMap.wf_set | simp only [canonical_mk, canon_fold, id_eq]

theorem canonical_hbmCe (s : State) (line : Nat) (h_s : s.canonical) : (hbmCe s line).canonical := by
  unfold hbmCe
  try dsimp only
  with_reducible repeat' first | assumption | apply canonical_State_count | apply canonical_repairCandidate | split | apply canon_hbmErr | apply canonical_hbmErr | apply SMap.wf_set | simp only [canonical_mk, canon_fold, id_eq]

theorem canonical_eccHbm (r : Requester) : ∀ (y0 : List (Nat × Nat)) (y1 : State × Bool), y1.1.canonical → (eccHbm r y0 y1).1.canonical := by
  intro y0 y1
  induction y0 generalizing y1 with
  | nil =>
    obtain ⟨y1s, y1r⟩ := y1; intro h1; unfold eccHbm
    try dsimp only
    with_reducible repeat' first | assumption | apply ih | apply canonical_hbmCe | apply canonical_hbmUe | split
  | cons a l ih =>
    obtain ⟨y1s, y1r⟩ := y1; intro h1; unfold eccHbm
    try dsimp only
    with_reducible repeat' first | assumption | apply ih | apply canonical_hbmCe | apply canonical_hbmUe | split

theorem canonical_eccLanding (r : Requester) : ∀ (y0 : List Nat) (y1 : State × Bool), y1.1.canonical → (eccLanding r y0 y1).1.canonical := by
  intro y0 y1
  induction y0 generalizing y1 with
  | nil =>
    obtain ⟨y1s, y1r⟩ := y1; intro h1; unfold eccLanding
    try dsimp only
    with_reducible repeat' first | assumption | apply ih | apply canonical_State_count | apply canonical_State_appendRecord | split
  | cons a l ih =>
    obtain ⟨y1s, y1r⟩ := y1; intro h1; unfold eccLanding
    try dsimp only
    with_reducible repeat' first | assumption | apply ih | apply canonical_State_count | apply canonical_State_appendRecord | split

theorem canonical_eccTile : ∀ (y0 : List (Nat × Nat)) (y1 : State × Bool), y1.1.canonical → (eccTile  y0 y1).1.canonical := by
  intro y0 y1
  induction y0 generalizing y1 with
  | nil =>
    obtain ⟨y1s, y1r⟩ := y1; intro h1; unfold eccTile
    try dsimp only
    with_reducible repeat' first | assumption | apply ih | apply canonical_State_modEng | apply canonical_State_tally | apply canonical_State_noteUe | split
  | cons a l ih =>
    obtain ⟨y1s, y1r⟩ := y1; intro h1; unfold eccTile
    try dsimp only
    with_reducible repeat' first | assumption | apply ih | apply canonical_State_modEng | apply canonical_State_tally | apply canonical_State_noteUe | split

theorem canonical_memRead (s : State) (r : Requester) (a n : Nat) (h_s : s.canonical) : (memRead s r a n).1.canonical := by
  unfold memRead
  try dsimp only
  with_reducible repeat' first | assumption | apply canonical_eccTile | apply canonical_eccLanding | apply canonical_eccHbm | split

theorem canonical_setCached (s : State) (d line v : Nat) (h_s : s.canonical) : (setCached s d line v).canonical := by
  unfold setCached
  try dsimp only
  with_reducible repeat' first | assumption | apply canon_cached | apply canonical_cached | apply SMap.wf_set | simp only [canonical_mk, canon_fold, id_eq]

theorem canonical_landLookup (d lpol : Nat) : ∀ (y0 : List (Nat × Nat)) (y1 : State × List (Nat × Nat)), y1.1.canonical → (landLookup d lpol y0 y1).1.canonical := by
  intro y0 y1
  induction y0 generalizing y1 with
  | nil =>
    obtain ⟨y1s, y1r⟩ := y1; intro h1; unfold landLookup
    try dsimp only
    with_reducible repeat' first | assumption | apply ih | apply canonical_State_count | apply canonical_setCached | split
  | cons a l ih =>
    obtain ⟨y1s, y1r⟩ := y1; intro h1; unfold landLookup
    try dsimp only
    with_reducible repeat' first | assumption | apply ih | apply canonical_State_count | apply canonical_setCached | split

theorem canonical_memReadVia (s : State) (r : Requester) (d lpol a n : Nat) (h_s : s.canonical) : (memReadVia s r d lpol a n).1.canonical := by
  unfold memReadVia
  try dsimp only
  with_reducible repeat' first | assumption | apply canonical_landLookup | apply canonical_eccTile | apply canonical_eccLanding | apply canonical_eccHbm | apply canonical_setCached | apply canonical_foldl | split | intro _

theorem canonical_writeLines (r : Requester) (ps : List Place) : ∀ (y0 : List (Nat × Nat)) (y1 : State × List Nat), y1.1.canonical → (writeLines r ps y0 y1).1.canonical := by
  intro y0 y1
  induction y0 generalizing y1 with
  | nil =>
    obtain ⟨y1s, y1r⟩ := y1; intro h1; unfold writeLines
    try dsimp only
    with_reducible repeat' first | assumption | apply ih | apply canonical_hbmCe | apply canonical_hbmUe | split | apply canon_hbmErr | apply canonical_hbmErr | apply SMap.wf_set | simp only [canonical_mk, canon_fold, id_eq]
  | cons a l ih =>
    obtain ⟨y1s, y1r⟩ := y1; intro h1; unfold writeLines
    try dsimp only
    with_reducible repeat' first | assumption | apply ih | apply canonical_hbmCe | apply canonical_hbmUe | split | apply canon_hbmErr | apply canonical_hbmErr | apply SMap.wf_set | simp only [canonical_mk, canon_fold, id_eq]

theorem canonical_putPlace (s : State) (p : Place) (b : Byte) (h_s : s.canonical) : (putPlace s p b).canonical := by
  unfold putPlace
  try dsimp only
  with_reducible repeat' first | assumption | apply canonical_State_modEng | split | apply canon_hbm | apply canon_landing | apply canon_host | apply canonical_hbm | apply canonical_landing | apply canonical_host | apply SMap.wf_set | apply ByteMap.wf_wr | simp only [canonical_mk, canon_fold, id_eq]

theorem canonical_putPlaces (drop : List Nat) : ∀ (y0 : List (Place × Byte)) (y1 : State), y1.canonical → (putPlaces drop y0 y1).canonical := by
  intro y0 y1
  induction y0 generalizing y1 with
  | nil =>
    intro h1; unfold putPlaces
    try dsimp only
    with_reducible repeat' first | assumption | apply ih | apply canonical_putPlace | split
  | cons a l ih =>
    intro h1; unfold putPlaces
    try dsimp only
    with_reducible repeat' first | assumption | apply ih | apply canonical_putPlace | split

theorem canonical_noteStore (s : State) (a n : Nat) (h_s : s.canonical) : (noteStore s a n).canonical := by
  unfold noteStore
  try dsimp only
  with_reducible repeat' first | assumption | apply canonical_State_setFld64 | apply canonical_foldl | split | simp only [canonical_mk, canon_fold, id_eq] | intro _

theorem canonical_invalidate (s : State) (line : Nat) (h_s : s.canonical) : (invalidate s line).canonical := by
  unfold invalidate
  try dsimp only
  with_reducible repeat' first | assumption | apply canon_cached | apply canonical_cached | apply SMap.wf_set | simp only [canonical_mk, canon_fold, id_eq]

theorem canonical_writeCopies (r : Requester) (ps : List Place) (drop : List Nat) (s : State) (line : Nat) (h_s : s.canonical) : (writeCopies r ps drop s line).canonical := by
  unfold writeCopies
  try dsimp only
  with_reducible repeat' first | assumption | apply canonical_invalidate | apply canonical_setCached | split

theorem canonical_landDropped (r : Requester) (ws : List Nat) (s : State) (h_s : s.canonical) : (landDropped r ws s).canonical := by
  unfold landDropped
  try dsimp only
  with_reducible repeat' first | assumption | apply canonical_State_appendRecord | apply canonical_foldl | split | intro _

theorem canonical_memStore (s : State) (r : Requester) (a : Nat) (bs : List Byte) (h_s : s.canonical) : (memStore s r a bs).1.canonical := by
  unfold memStore
  try dsimp only
  with_reducible repeat' first | assumption | apply canonical_writeLines | apply canonical_writeCopies | apply canonical_State_count | apply canonical_State_modEng | apply canonical_putPlaces | apply canonical_landDropped | apply canonical_foldl | split | apply canon_landErr | apply canonical_landErr | apply SMap.wf_set | apply wf_foldl | simp only [canonical_mk, canon_fold, id_eq] | intro _

theorem canonical_memWrite (s : State) (r : Requester) (a : Nat) (bs : List Byte) (h_s : s.canonical) : (memWrite s r a bs).1.canonical := by
  unfold memWrite
  try dsimp only
  with_reducible repeat' first | assumption | apply canonical_memStore | apply canonical_noteStore | split

theorem canonical_memReadNat (s : State) (r : Requester) (a n : Nat) (h_s : s.canonical) : (memReadNat s r a n).1.canonical := by
  unfold memReadNat
  try dsimp only
  with_reducible repeat' first | assumption | apply canonical_memRead

theorem canonical_adderOp (s : State) (code a aty aop v : Nat) (h_s : s.canonical) : (adderOp s code a aty aop v).1.canonical := by
  unfold adderOp
  try dsimp only
  with_reducible repeat' first | assumption | apply canonical_hbmUe | apply canonical_hbmCe | apply canonical_invalidate | apply canonical_putPlaces | apply canonical_State_count | apply canonical_noteStore | apply canonical_foldl | split | intro _

theorem canonical_answerBytes (s : State) (bs : List Byte) (poison : Bool) (h_s : s.canonical) : (answerBytes s bs poison).canonical := by
  unfold answerBytes
  try dsimp only
  with_reducible repeat' first | assumption | simp only [canonical_mk, canon_fold, id_eq]

theorem canonical_answerWord (s : State) (v : Nat) (h_s : s.canonical) : (answerWord s v).canonical := by
  unfold answerWord
  try dsimp only
  with_reducible repeat' first | assumption | simp only [canonical_mk, canon_fold, id_eq]

theorem canonical_lineRead (s : State) (a : Nat) (h_s : s.canonical) : (lineRead s a).canonical := by
  unfold lineRead
  try dsimp only
  with_reducible repeat' first | assumption | apply canonical_memRead | apply canonical_answerBytes

theorem canonical_lineWrite (s : State) (a : Nat) (bs : List Byte) (h_s : s.canonical) : (lineWrite s a bs).canonical := by
  unfold lineWrite
  try dsimp only
  with_reducible repeat' first | assumption | apply canonical_memWrite | split

theorem canonical_lineAdd (s : State) (a aty aop v : Nat) (h_s : s.canonical) : (lineAdd s a aty aop v).canonical := by
  unfold lineAdd
  try dsimp only
  with_reducible repeat' first | assumption | apply canonical_adderOp | split

theorem canonical_lineAtomic (s : State) (a aty aop v : Nat) (h_s : s.canonical) : (lineAtomic s a aty aop v).canonical := by
  unfold lineAtomic
  try dsimp only
  with_reducible repeat' first | assumption | apply canonical_adderOp | apply canonical_answerWord | split

theorem canonical_scrubLine (s : State) (st line : Nat) (h_s : s.canonical) : (scrubLine s st line).canonical := by
  unfold scrubLine
  try dsimp only
  with_reducible repeat' first | assumption | apply canonical_hbmCe | apply canonical_hbmUe | split

theorem canonical_oldEntry (s : State) (n : Nat) (h_s : s.canonical) : (oldEntry s n).canonical := by
  unfold oldEntry
  try dsimp only
  with_reducible repeat' first | assumption | simp only [canonical_mk, canon_fold, id_eq]

theorem canonical_mapWrite (s : State) (n : Nat) (second : Bool) (a : Acc) (v : Nat) (h_s : s.canonical) : (mapWrite s n second a v).canonical := by
  unfold mapWrite
  try dsimp only
  with_reducible repeat' first | assumption | apply canonical_State_setFld | apply canonical_oldEntry | apply canonical_State_setReg64 | split

theorem canonical_mapCopied (s : State) (h_s : s.canonical) : (mapCopied s).canonical := by
  unfold mapCopied
  try dsimp only
  with_reducible repeat' first | assumption | apply canonical_State_setFld | simp only [canonical_mk, canon_fold, id_eq]

theorem canonical_landingRead (s : State) (d lpol a : Nat) (h_s : s.canonical) : (landingRead s d lpol a).canonical := by
  unfold landingRead
  try dsimp only
  with_reducible repeat' first | assumption | apply canonical_memReadVia | apply canonical_answerBytes | split

theorem canonical_dropLines (s : State) (d : Nat) (ps : List Nat) (h_s : s.canonical) : (dropLines s d ps).canonical := by
  unfold dropLines
  try dsimp only
  with_reducible repeat' first | assumption | split | apply canon_cached | apply canonical_cached | apply SMap.wf_filter | simp only [canonical_mk, canon_fold, id_eq]

theorem canonical_partWrite (s : State) (d v : Nat) (h_s : s.canonical) : (partWrite s d v).canonical := by
  unfold partWrite
  try dsimp only
  with_reducible repeat' first | assumption | apply canonical_dropLines | apply canonical_State_setReg | apply canonical_State_setFld | split

theorem canonical_dropDone (s : State) (d : Nat) (h_s : s.canonical) : (dropDone s d).canonical := by
  unfold dropDone
  try dsimp only
  with_reducible repeat' first | assumption | apply canonical_State_setFld

theorem canonical_allocWrite (s : State) (d k : Nat) (a : Acc) (v : Nat) (h_s : s.canonical) : (allocWrite s d k a v).canonical := by
  unfold allocWrite
  try dsimp only
  with_reducible repeat' first | assumption | apply canonical_State_setFld | apply canonical_State_setReg64 | split

theorem canonical_directAccess (s : State) (a n : Nat) (w : Option (List Byte)) (h_s : s.canonical) : (directAccess s a n w).canonical := by
  unfold directAccess
  try dsimp only
  with_reducible repeat' first | assumption | apply canonical_memWrite | apply canonical_memRead | apply canonical_answerBytes | split

theorem canonical_noteCe (s : State) (e n : Nat) (h_s : s.canonical) : (noteCe s e n).canonical := by
  unfold noteCe
  try dsimp only
  with_reducible repeat' first | assumption | apply canonical_State_modEng | apply canonical_State_tally | split

theorem canonical_tileRead (s : State) (e a n : Nat) (h_s : s.canonical) : (tileRead s e a n).1.canonical := by
  unfold tileRead
  try dsimp only
  with_reducible repeat' first | assumption | apply canonical_noteCe | apply canonical_State_noteUe

theorem canonical_tileReadSome (s : State) (e a n : Nat) (need : Nat → Bool) (h_s : s.canonical) : (tileReadSome s e a n need).1.canonical := by
  unfold tileReadSome
  try dsimp only
  with_reducible repeat' first | assumption | apply canonical_noteCe | apply canonical_State_noteUe

theorem canonical_tileWrite (s : State) (e a : Nat) (bs : List Byte) (h_s : s.canonical) : (tileWrite s e a bs).1.canonical := by
  unfold tileWrite
  try dsimp only
  with_reducible repeat' first | assumption | apply canonical_State_setEng | apply canonical_noteCe | apply canonical_State_noteUe | split

theorem canonical_accRead (s : State) (e tile row n : Nat) (h_s : s.canonical) : (accRead s e tile row n).1.canonical := by
  unfold accRead
  try dsimp only
  with_reducible repeat' first | assumption | apply canonical_noteCe | apply canonical_State_noteUe

theorem canonical_accWrite (s : State) (e tile row : Nat) (vs : List Word32) (h_s : s.canonical) : (accWrite s e tile row vs).canonical := by
  unfold accWrite
  try dsimp only
  with_reducible repeat' first | assumption | apply canonical_State_modEng

theorem canonical_accWriteSome (s : State) (e tile row : Nat) (vs : List Word32) (h_s : s.canonical) : (accWriteSome s e tile row vs).1.canonical := by
  unfold accWriteSome
  try dsimp only
  with_reducible repeat' first | assumption | apply canonical_accWrite | apply canonical_noteCe | apply canonical_State_noteUe | split

theorem canonical_accWriteArray (s : State) (e tile row : Nat) (vs : List Word32) (h_s : s.canonical) : (accWriteArray s e tile row vs).canonical := by
  unfold accWriteArray
  try dsimp only
  with_reducible repeat' first | assumption | apply canonical_accWrite | apply canonical_State_modEng

theorem canonical_accReadDrain (s : State) (e tile row : Nat) (h_s : s.canonical) : (accReadDrain s e tile row).1.canonical := by
  unfold accReadDrain
  try dsimp only
  with_reducible repeat' first | assumption | apply canonical_accRead | apply canonical_State_draw | split

theorem canonical_readLanes (s : State) (e : Nat) (r : RegFile) (k : Lanes) (ft i n : Nat) (h_s : s.canonical) : (readLanes s e r k ft i n).1.canonical := by
  unfold readLanes
  try dsimp only
  with_reducible repeat' first | assumption | apply canonical_tileRead | apply canonical_accRead | split

theorem canonical_writeLanes (s : State) (e : Nat) (r : RegFile) (k : Lanes) (ft i : Nat) (xs : List Xr) (h_s : s.canonical) : (writeLanes s e r k ft i xs).1.canonical := by
  unfold writeLanes
  try dsimp only
  with_reducible repeat' first | assumption | apply canonical_accWriteSome | apply canonical_tileWrite | split

theorem canonical_rowLoop (step : Nat → State → State × Bool) (h_step : ∀ x0 x1, x1.canonical → (step x0 x1).1.canonical) : ∀ (y0 : List Nat) (y1 : State), y1.canonical → (rowLoop step y0 y1).1.canonical := by
  intro y0 y1
  induction y0 generalizing y1 with
  | nil =>
    intro h1; unfold rowLoop
    try dsimp only
    with_reducible repeat' first | assumption | apply h_step | apply ih | split
  | cons a l ih =>
    intro h1; unfold rowLoop
    try dsimp only
    with_reducible repeat' first | assumption | apply h_step | apply ih | split

theorem canonical_finish (e pc : Nat) (x : State × Bool) (h_x : x.1.canonical) : (finish e pc x).canonical := by
  unfold finish
  try dsimp only
  with_reducible repeat' first | assumption | apply canonical_State_raiseTrap | split

theorem canonical_extentTrap (s : State) (e pc aux bn l : Nat) (lv : Level) (h_s : s.canonical) : (extentTrap s e pc aux bn l lv).canonical := by
  unfold extentTrap
  try dsimp only
  with_reducible repeat' first | assumption | apply canonical_State_modEng | apply canonical_State_raiseTrap

theorem canonical_setIter (s : State) (e bn n : Nat) (h_s : s.canonical) : (setIter s e bn n).canonical := by
  unfold setIter
  try dsimp only
  with_reducible repeat' first | assumption | apply canonical_State_modEng

theorem canonical_readRows (s : State) (e : Nat) (r : RegFile) (t first n bytes stride : Nat) (need : Nat → Nat → Bool) (h_s : s.canonical) : (readRows s e r t first n bytes stride need).1.canonical := by
  unfold readRows
  try dsimp only
  with_reducible repeat' first | assumption | apply canonical_tileReadSome | apply canonical_foldl_fst | simp only [canonical_mk, canon_fold, id_eq] | intro _

theorem canonical_effMmaLoad (e pc aux : Nat) (f : Fields) (w2 : Word64) (r : RegFile) (s : State) (h_s : s.canonical) : (effMmaLoad e pc aux f w2 r s).canonical := by
  unfold effMmaLoad
  try dsimp only
  with_reducible repeat' first | assumption | apply canonical_readRows | apply canonical_State_raiseTrap | apply canonical_State_modEng | split

theorem canonical_readStreamed (s : State) (e : Nat) (r : RegFile) (t ts i : Nat) (st : Stationary) (h_s : s.canonical) : (readStreamed s e r t ts i st).1.canonical := by
  unfold readStreamed
  try dsimp only
  with_reducible repeat' first | assumption | apply canonical_tileRead | apply canonical_tileReadSome | split

theorem canonical_foldRow (s : State) (e tile row : Nat) (init : Bool) (st : Stationary) (x : Streamed) (h_s : s.canonical) : (foldRow s e tile row init st x).1.canonical := by
  unfold foldRow
  try dsimp only
  with_reducible repeat' first | assumption | apply canonical_accRead | apply canonical_accWriteArray | apply canonical_State_raiseFlags | split

theorem canonical_countPass (e : Nat) (st : Stationary) (x : State × Bool) (h_s : x.1.canonical) : (countPass e st x).1.canonical := by
  unfold countPass
  try dsimp only
  with_reducible repeat' first | assumption | apply canonical_State_tally | split

theorem canonical_arrayOp (s : State) (e : Nat) (r : RegFile) (t ts first m live tile row0 : Nat) (init : Bool) (pad : Nat × Nat) (st : Stationary) (h_s : s.canonical) : (arrayOp s e r t ts first m live tile row0 init pad st).1.canonical := by
  unfold arrayOp
  try dsimp only
  with_reducible repeat' first | assumption | apply canonical_countPass | apply canonical_rowLoop | apply canonical_readStreamed | apply canonical_foldRow | split | intro _

theorem canonical_swapStationary (s : State) (e : Nat) (h_s : s.canonical) : (swapStationary s e).canonical := by
  unfold swapStationary
  try dsimp only
  with_reducible repeat' first | assumption | apply canonical_State_modEng

theorem canonical_nestOps (e bn : Nat) (op : List (Nat × Bool) → State → State × Bool) (h_op : ∀ x0 x1, x1.canonical → (op x0 x1).1.canonical) : ∀ (y0 : Nat) (y1 : List (List (Nat × Bool))) (y2 : State), y2.canonical → (nestOps e bn op y0 y1 y2).1.canonical := by
  intro y0 y1 y2
  induction y1 generalizing y0 y2 with
  | nil =>
    intro h2; unfold nestOps
    try dsimp only
    with_reducible repeat' first | assumption | apply h_op | apply ih | apply canonical_setIter | split
  | cons a l ih =>
    intro h2; unfold nestOps
    try dsimp only
    with_reducible repeat' first | assumption | apply h_op | apply ih | apply canonical_setIter | split

theorem canonical_identityOps (s : State) (e acc m : Nat) (ls : List Level) (ns : List Nat) (h_s : s.canonical) : (identityOps s e acc m ls ns).canonical := by
  unfold identityOps
  try dsimp only
  with_reducible repeat' first | assumption | apply canonical_accWriteArray | apply canonical_foldl | intro _

theorem canonical_effMmaCompute (e pc aux : Nat) (f : Fields) (r : RegFile) (s : State) (h_s : s.canonical) : (effMmaCompute e pc aux f r s).canonical := by
  unfold effMmaCompute
  try dsimp only
  with_reducible repeat' first | assumption | apply canonical_extentTrap | apply canonical_swapStationary | apply canonical_arrayOp | apply canonical_State_raiseTrap | apply canonical_setIter | apply canonical_identityOps | apply canonical_nestOps | split | intro _

theorem canonical_effMma (e pc aux : Nat) (f : Fields) (w2 : Word64) (r : RegFile) (s : State) (h_s : s.canonical) : (effMma e pc aux f w2 r s).canonical := by
  unfold effMma
  try dsimp only
  with_reducible repeat' first | assumption | apply canonical_effMmaLoad | apply canonical_effMmaCompute | split

theorem canonical_narrowRow (s : State) (e : Nat) (r : RegFile) (d : NarrowDest) (i pos : Nat) (xs : List Xr) (sm : Sums) (h_s : s.canonical) : (narrowRow s e r d i pos xs sm).1.canonical := by
  unfold narrowRow
  try dsimp only
  with_reducible repeat' first | assumption | apply canonical_tileRead | apply canonical_tileWrite | apply canonical_State_tally | apply canonical_State_raiseFlags | split

theorem canonical_sendFeed (s : State) (e mon rows : Nat) (sm : Sums) (h_s : s.canonical) : (sendFeed s e mon rows sm).canonical := by
  unfold sendFeed
  try dsimp only
  with_reducible repeat' first | assumption | apply canonical_State_count | split | simp only [canonical_mk, canon_fold, id_eq]

theorem canonical_narrowRows (e : Nat) (row : Nat → Sums → State → State × Bool × Sums) (h_row : ∀ x0 x1 x2, x2.canonical → (row x0 x1 x2).1.canonical) : ∀ (y0 : List Nat) (y1 : Sums) (y2 : State), y2.canonical → (narrowRows e row y0 y1 y2).1.canonical := by
  intro y0 y1 y2
  induction y0 generalizing y1 y2 with
  | nil =>
    intro h2; unfold narrowRows
    try dsimp only
    with_reducible repeat' first | assumption | apply h_row | apply ih | split
  | cons a l ih =>
    intro h2; unfold narrowRows
    try dsimp only
    with_reducible repeat' first | assumption | apply h_row | apply ih | split

theorem canonical_biasRow (s : State) (e : Nat) (fd : FusedDesc) (h_s : s.canonical) : (biasRow s e fd).1.canonical := by
  unfold biasRow
  try dsimp only
  with_reducible repeat' first | assumption | apply canonical_tileRead | split

theorem canonical_fusedRow (s : State) (e fsd : Nat) (xs : List Xr) (h_s : s.canonical) : (fusedRow s e fsd xs).1.canonical := by
  unfold fusedRow
  try dsimp only
  with_reducible repeat' first | assumption | apply canonical_biasRow | apply canonical_State_raiseFlags

theorem canonical_effDrain (e pc aux : Nat) (f : Fields) (w2 : Word64) (r : RegFile) (s : State) (h_s : s.canonical) : (effDrain e pc aux f w2 r s).canonical := by
  unfold effDrain
  try dsimp only
  with_reducible repeat' first | assumption | apply canonical_State_raiseFlags | apply canonical_narrowRows | apply canonical_accReadDrain | apply canonical_fusedRow | apply canonical_narrowRow | apply canonical_State_raiseTrap | apply canonical_sendFeed | split | simp only [canonical_mk, canon_fold, id_eq] | intro _

theorem canonical_effCvt (e pc : Nat) (f : Fields) (w2 : Word64) (r : RegFile) (s : State) (h_s : s.canonical) : (effCvt e pc f w2 r s).canonical := by
  unfold effCvt
  try dsimp only
  with_reducible repeat' first | assumption | apply canonical_narrowRows | apply canonical_tileRead | apply canonical_tileReadSome | apply canonical_State_raiseFlags | apply canonical_narrowRow | apply canonical_State_raiseTrap | apply canonical_sendFeed | split | simp only [canonical_mk, canon_fold, id_eq] | intro _

theorem canonical_vecRows (e pc : Nat) (f : Fields) (r : RegFile) (c : Lanes) (op : Nat → Engine → List Xr → List Xr → List Xr → List Xr × Flags) (s : State) (h_s : s.canonical) : (vecRows e pc f r c op s).canonical := by
  unfold vecRows
  try dsimp only
  with_reducible repeat' first | assumption | apply canonical_finish | apply canonical_rowLoop | apply canonical_readLanes | apply canonical_writeLanes | apply canonical_State_raiseFlags | split | simp only [canonical_mk, canon_fold, id_eq] | intro _

theorem canonical_vecLanes (e pc : Nat) (f : Fields) (r : RegFile) (op : Xr → Xr → Xr × Flags) (s : State) (h_s : s.canonical) : (vecLanes e pc f r op s).canonical := by
  unfold vecLanes
  try dsimp only
  with_reducible repeat' first | assumption | apply canonical_vecRows

theorem canonical_effVfma (e pc : Nat) (f : Fields) (w2 : Word64) (r : RegFile) (s : State) (h_s : s.canonical) : (effVfma e pc f w2 r s).canonical := by
  unfold effVfma
  try dsimp only
  with_reducible repeat' first | assumption | apply canonical_vecRows

theorem canonical_effVfuse (e pc : Nat) (f : Fields) (w2 : Word64) (r : RegFile) (s : State) (h_s : s.canonical) : (effVfuse e pc f w2 r s).canonical := by
  unfold effVfuse
  try dsimp only
  with_reducible repeat' first | assumption | apply canonical_finish | apply canonical_rowLoop | apply canonical_readLanes | apply canonical_fusedRow | apply canonical_writeLanes | apply canonical_State_raiseFlags | split | simp only [canonical_mk, canon_fold, id_eq] | intro _

theorem canonical_effSteprun (e pc : Nat) (f : Fields) (w2 : Word64) (r : RegFile) (s : State) (h_s : s.canonical) : (effSteprun e pc f w2 r s).canonical := by
  unfold effSteprun
  try dsimp only
  with_reducible repeat' first | assumption | apply canonical_vecRows

theorem canonical_readRot (s : State) (e : Nat) (r : RegFile) (tp poff : Nat) (h_s : s.canonical) : (readRot s e r tp poff).1.canonical := by
  unfold readRot
  try dsimp only
  with_reducible repeat' first | assumption | apply canonical_tileRead

theorem canonical_readPos (s : State) (e : Nat) (r : RegFile) (tp : Nat) (d : RotDesc) (i : Nat) (h_s : s.canonical) : (readPos s e r tp d i).1.canonical := by
  unfold readPos
  try dsimp only
  with_reducible repeat' first | assumption | apply canonical_tileRead | split

theorem canonical_effVrot (e pc : Nat) (f : Fields) (w2 : Word64) (r : RegFile) (s : State) (h_s : s.canonical) : (effVrot e pc f w2 r s).canonical := by
  unfold effVrot
  try dsimp only
  with_reducible repeat' first | assumption | apply canonical_readRot | apply canonical_State_raiseTrap | apply canonical_finish | apply canonical_rowLoop | apply canonical_readLanes | apply canonical_readPos | apply canonical_writeLanes | apply canonical_State_raiseFlags | split | simp only [canonical_mk, canon_fold, id_eq] | intro _

theorem canonical_accPairs (s : State) (e tile row : Nat) (vs : List (Nat × Xr × Xr)) (h_s : s.canonical) : (accPairs s e tile row vs).canonical := by
  unfold accPairs
  try dsimp only
  with_reducible repeat' first | assumption | apply canonical_State_modEng | apply canonical_foldl | intro _

theorem canonical_effRstat (e pc : Nat) (f : Fields) (w2 : Word64) (r : RegFile) (s : State) (h_s : s.canonical) : (effRstat e pc f w2 r s).canonical := by
  unfold effRstat
  try dsimp only
  with_reducible repeat' first | assumption | apply canonical_finish | apply canonical_rowLoop | apply canonical_readLanes | apply canonical_State_raiseFlags | apply canonical_State_count | apply canonical_accPairs | apply canonical_tileWrite | split | simp only [canonical_mk, canon_fold, id_eq] | intro _

theorem canonical_effSmax (e pc : Nat) (f : Fields) (w2 : Word64) (r : RegFile) (s : State) (h_s : s.canonical) : (effSmax e pc f w2 r s).canonical := by
  unfold effSmax
  try dsimp only
  with_reducible repeat' first | assumption | apply canonical_finish | apply canonical_rowLoop | apply canonical_readLanes | apply canonical_writeLanes | apply canonical_State_raiseFlags | split | simp only [canonical_mk, canon_fold, id_eq] | intro _

theorem canonical_modRegs (s : State) (e : Nat) (f : RegFile → RegFile) (h_s : s.canonical) : (modRegs s e f).canonical := by
  unfold modRegs
  try dsimp only
  with_reducible repeat' first | assumption | apply canonical_State_modEng

theorem canonical_effAlu (e : Nat) (f : Fields) (r : RegFile) (s : State) (h_s : s.canonical) : (effAlu e f r s).canonical := by
  unfold effAlu
  try dsimp only
  with_reducible repeat' first | assumption | apply canonical_modRegs

theorem canonical_effAlui (e : Nat) (f : Fields) (r : RegFile) (s : State) (h_s : s.canonical) : (effAlui e f r s).canonical := by
  unfold effAlui
  try dsimp only
  with_reducible repeat' first | assumption | apply canonical_modRegs

theorem canonical_effCmp (e : Nat) (f : Fields) (r : RegFile) (s : State) (h_s : s.canonical) : (effCmp e f r s).canonical := by
  unfold effCmp
  try dsimp only
  with_reducible repeat' first | assumption | apply canonical_modRegs

theorem canonical_effCmpi (e : Nat) (f : Fields) (r : RegFile) (s : State) (h_s : s.canonical) : (effCmpi e f r s).canonical := by
  unfold effCmpi
  try dsimp only
  with_reducible repeat' first | assumption | apply canonical_modRegs

theorem canonical_effPlog (e : Nat) (f : Fields) (r : RegFile) (s : State) (h_s : s.canonical) : (effPlog e f r s).canonical := by
  unfold effPlog
  try dsimp only
  with_reducible repeat' first | assumption | apply canonical_modRegs

theorem canonical_effAdda (e : Nat) (f : Fields) (r : RegFile) (s : State) (h_s : s.canonical) : (effAdda e f r s).canonical := by
  unfold effAdda
  try dsimp only
  with_reducible repeat' first | assumption | apply canonical_modRegs

theorem canonical_effLds (e pc : Nat) (f : Fields) (r : RegFile) (s : State) (h_s : s.canonical) : (effLds e pc f r s).canonical := by
  unfold effLds
  try dsimp only
  with_reducible repeat' first | assumption | apply canonical_tileRead | apply canonical_State_raiseTrap | apply canonical_modRegs | split

theorem canonical_effSts (e pc : Nat) (f : Fields) (r : RegFile) (s : State) (h_s : s.canonical) : (effSts e pc f r s).canonical := by
  unfold effSts
  try dsimp only
  with_reducible repeat' first | assumption | apply canonical_finish | apply canonical_tileWrite

theorem canonical_effSget (e : Nat) (f : Fields) (r : RegFile) (s : State) (h_s : s.canonical) : (effSget e f r s).canonical := by
  unfold effSget
  try dsimp only
  with_reducible repeat' first | assumption | apply canonical_modRegs

theorem canonical_effFlgclr (e : Nat) (f : Fields) (s : State) (h_s : s.canonical) : (effFlgclr e f s).canonical := by
  unfold effFlgclr
  try dsimp only
  with_reducible repeat' first | assumption | apply canonical_State_modEng

theorem canonical_effTset (e : Nat) (f : Fields) (r : RegFile) (s : State) (h_s : s.canonical) : (effTset e f r s).canonical := by
  unfold effTset
  try dsimp only
  with_reducible repeat' first | assumption | apply canonical_modRegs

theorem canonical_effTget (e : Nat) (f : Fields) (r : RegFile) (s : State) (h_s : s.canonical) : (effTget e f r s).canonical := by
  unfold effTget
  try dsimp only
  with_reducible repeat' first | assumption | apply canonical_modRegs

theorem canonical_effLi64 (e : Nat) (f : Fields) (w2 : Word64) (s : State) (h_s : s.canonical) : (effLi64 e f w2 s).canonical := by
  unfold effLi64
  try dsimp only
  with_reducible repeat' first | assumption | apply canonical_modRegs

theorem canonical_effBload (e pc : Nat) (f : Fields) (r : RegFile) (s : State) (h_s : s.canonical) : (effBload e pc f r s).canonical := by
  unfold effBload
  try dsimp only
  with_reducible repeat' first | assumption | apply canonical_tileRead | apply canonical_State_raiseTrap | apply canonical_State_modEng | split

theorem canonical_effBext (e : Nat) (f : Fields) (r : RegFile) (s : State) (h_s : s.canonical) : (effBext e f r s).canonical := by
  unfold effBext
  try dsimp only
  with_reducible repeat' first | assumption | apply canonical_State_modEng

theorem canonical_effTblload (e pc : Nat) (f : Fields) (w2 : Word64) (r : RegFile) (s : State) (h_s : s.canonical) : (effTblload e pc f w2 r s).canonical := by
  unfold effTblload
  try dsimp only
  with_reducible repeat' first | assumption | apply canonical_State_count | apply canonical_State_raiseTrap | apply canonical_tileRead | apply canonical_State_modEng | split

theorem canonical_effTblswap (e : Nat) (s : State) (h_s : s.canonical) : (effTblswap e s).canonical := by
  unfold effTblswap
  try dsimp only
  with_reducible repeat' first | assumption | apply canonical_State_modEng

theorem canonical_writeFallback (s : State) (c a index : Nat) (h_s : s.canonical) : (writeFallback s c a index).canonical := by
  unfold writeFallback
  try dsimp only
  with_reducible repeat' first | assumption | apply canonical_memWrite | apply canonical_State_setFld | apply canonical_State_appendRecord | split

theorem canonical_monitorEval (s : State) (c : Nat) (it : WorkItem) (h_s : s.canonical) : (monitorEval s c it).canonical := by
  unfold monitorEval
  try dsimp only
  with_reducible repeat' first | assumption | apply canonical_writeFallback | apply canonical_State_setFld | apply canonical_State_appendRecord | split

theorem canonical_effMark (c sel val : Nat) (s : State) (h_s : s.canonical) : (effMark c sel val s).canonical := by
  unfold effMark
  try dsimp only
  with_reducible repeat' first | assumption | apply canonical_monitorEval | apply canonical_State_setReg | split

theorem canonical_effTly (e : Nat) (f : Fields) (s : State) (h_s : s.canonical) : (effTly e f s).canonical := by
  unfold effTly
  try dsimp only
  with_reducible repeat' first | assumption | apply canonical_modRegs | apply canonical_State_modEng | split | simp only [canonical_mk, canon_fold, id_eq]

theorem canonical_effJal (e pc : Nat) (f : Fields) (s : State) (h_s : s.canonical) : (effJal e pc f s).canonical := by
  unfold effJal
  try dsimp only
  with_reducible repeat' first | assumption | apply canonical_modRegs | apply canonical_State_modEng

theorem canonical_effBr (e pc : Nat) (f : Fields) (s : State) (h_s : s.canonical) : (effBr e pc f s).canonical := by
  unfold effBr
  try dsimp only
  with_reducible repeat' first | assumption | apply canonical_State_modEng

theorem canonical_effJr (e : Nat) (f : Fields) (s : State) (h_s : s.canonical) : (effJr e f s).canonical := by
  unfold effJr
  try dsimp only
  with_reducible repeat' first | assumption | apply canonical_State_modEng

theorem canonical_effLoop (e pc : Nat) (f : Fields) (s : State) (h_s : s.canonical) : (effLoop e pc f s).canonical := by
  unfold effLoop
  try dsimp only
  with_reducible repeat' first | assumption | apply canonical_modRegs | apply canonical_State_modEng | split

theorem canonical_settleQueue (s : State) (e : Nat) (fill : Bool) (h_s : s.canonical) : (settleQueue s e fill).canonical := by
  unfold settleQueue
  try dsimp only
  with_reducible repeat' first | assumption | apply canonical_State_modEng

theorem canonical_modEntry (s : State) (e : Nat) (fill : Bool) (id : Nat) (f : SkEntry → SkEntry) (h_s : s.canonical) : (modEntry s e fill id f).canonical := by
  unfold modEntry
  try dsimp only
  with_reducible repeat' first | assumption | apply canonical_State_modEng

theorem canonical_dropEntry (s : State) (e : Nat) (fill : Bool) (id : Nat) (h_s : s.canonical) : (dropEntry s e fill id).canonical := by
  unfold dropEntry
  try dsimp only
  with_reducible repeat' first | assumption | apply canonical_State_modEng

theorem canonical_completeEntry (s : State) (e : Nat) (fill : Bool) (id : Nat) (h_s : s.canonical) : (completeEntry s e fill id).canonical := by
  unfold completeEntry
  try dsimp only
  with_reducible repeat' first | assumption | apply canonical_settleQueue | apply canonical_modEntry

theorem canonical_failEntry (s : State) (e : Nat) (fill : Bool) (x : SkEntry) (code : Nat) (h_s : s.canonical) : (failEntry s e fill x code).canonical := by
  unfold failEntry
  try dsimp only
  with_reducible repeat' first | assumption | apply canonical_settleQueue | apply canonical_dropEntry | apply canonical_State_raiseTrap

theorem canonical_holdTracker (s : State) (e : Nat) (take : Bool) (h_s : s.canonical) : (holdTracker s e take).canonical := by
  unfold holdTracker
  try dsimp only
  with_reducible repeat' first | assumption | apply canonical_State_setFld | split

theorem canonical_freeTracker (s : State) (e : Nat) (x : SkEntry) (h_s : s.canonical) : (freeTracker s e x).canonical := by
  unfold freeTracker
  try dsimp only
  with_reducible repeat' first | assumption | apply canonical_State_setFld | split

theorem canonical_sendTagged (s : State) (m : Msg) (q : RemoteReq) (t : Nat) (h_s : s.canonical) : (sendTagged s m q t).canonical := by
  unfold sendTagged
  try dsimp only
  with_reducible repeat' first | assumption | apply canonical_State_tally | split | simp only [canonical_mk, canon_fold, id_eq]

theorem canonical_startRequest (s : State) (m : Msg) (q : RemoteReq) (h_s : s.canonical) : (startRequest s m q).canonical := by
  unfold startRequest
  try dsimp only
  with_reducible repeat' first | assumption | apply canonical_sendTagged | split | simp only [canonical_mk, canon_fold, id_eq]

theorem canonical_sendWaiting (rq : Nat) : ∀ (y0 : Nat) (y1 : State), y1.canonical → (sendWaiting rq y0 y1).canonical := by
  intro y0 y1
  induction y0 generalizing y1 with
  | zero =>
    intro h1; unfold sendWaiting
    try dsimp only
    with_reducible repeat' first | assumption | apply ih | apply canonical_sendTagged | split | simp only [canonical_mk, canon_fold, id_eq]
  | succ n ih =>
    intro h1; unfold sendWaiting
    try dsimp only
    with_reducible repeat' first | assumption | apply ih | apply canonical_sendTagged | split | simp only [canonical_mk, canon_fold, id_eq]

theorem canonical_tagsFree (s : State) (rq : Nat) (h_s : s.canonical) : (tagsFree s rq).canonical := by
  unfold tagsFree
  try dsimp only
  with_reducible repeat' first | assumption | apply canonical_sendWaiting

theorem canonical_sendRequests (e id op dev dl pri addr aty aop : Nat) : ∀ (y0 : Nat) (y1 : Nat) (y2 : Nat) (y3 : List Byte) (y4 : State), y4.canonical → (sendRequests e id op dev dl pri addr aty aop y0 y1 y2 y3 y4).canonical := by
  intro y0 y1 y2 y3 y4
  induction y0 generalizing y1 y2 y3 y4 with
  | zero =>
    intro h4; unfold sendRequests
    try dsimp only
    with_reducible repeat' first | assumption | apply ih | apply canonical_startRequest | split
  | succ n ih =>
    intro h4; unfold sendRequests
    try dsimp only
    with_reducible repeat' first | assumption | apply ih | apply canonical_startRequest | split

theorem canonical_dropReqs (s : State) (e id : Nat) (h_s : s.canonical) : (dropReqs s e id).canonical := by
  unfold dropReqs
  try dsimp only
  with_reducible repeat' first | assumption | apply canonical_tagsFree | simp only [canonical_mk, canon_fold, id_eq]

theorem canonical_landTile (s : State) (e a : Nat) (bs : List Byte) (h_s : s.canonical) : (landTile s e a bs).1.canonical := by
  unfold landTile
  try dsimp only
  with_reducible repeat' first | assumption | apply canonical_tileWrite

theorem canonical_addElements (s : State) (aty aop a : Nat) (h_s : s.canonical) (n : Nat) (bs : List Byte) :
    (addElements s aty aop a n bs).canonical := by
  induction n generalizing s a bs with
  | zero => exact h_s
  | succ n ih => unfold addElements; exact ih _ _ (canonical_adderOp _ _ _ _ _ _ h_s) _

theorem canonical_prefetchLine (s : State) (d lpol line dev : Nat) (h_s : s.canonical) : (prefetchLine s d lpol line dev).canonical := by
  unfold prefetchLine
  try dsimp only
  with_reducible repeat' first | assumption | apply canonical_landLookup | apply canonical_eccHbm | apply canonical_setCached | split

theorem canonical_prefetch (s : State) (d lpol a n : Nat) (h_s : s.canonical) : (prefetch s d lpol a n).canonical := by
  unfold prefetch
  try dsimp only
  with_reducible repeat' first | assumption | apply canonical_prefetchLine | apply canonical_foldl | split | intro _

theorem canonical_moveTransfer (s : State) (e : Nat) (x : SkEntry) (t : Transfer) (h_s : s.canonical) : (moveTransfer s e x t).1.canonical := by
  unfold moveTransfer
  try dsimp only
  with_reducible repeat' first | assumption | apply canonical_dropReqs | apply canonical_landTile | apply canonical_memReadVia | apply canonical_State_tally | apply canonical_tileRead | apply canonical_memWrite | apply canonical_prefetch | apply canonical_addElements | apply canonical_adderOp | split

theorem canonical_startRemote (s : State) (e : Nat) (x : SkEntry) (t : Transfer) (h_s : s.canonical) : (startRemote s e x t).1.canonical := by
  unfold startRemote
  try dsimp only
  with_reducible repeat' first | assumption | apply canonical_sendRequests | apply canonical_State_tally | apply canonical_tileRead | apply canonical_memReadVia | split

theorem canonical_winRead (s : State) (e lpol : Nat) (base : Nat) (x : Int) (n : Nat) (h_s : s.canonical) : (winRead s e lpol base x n).1.canonical := by
  unfold winRead
  try dsimp only
  with_reducible repeat' first | assumption | apply canonical_memReadVia

theorem canonical_movedLoop {α : Type} (step : α → State → State × Moved) (h_step : ∀ x0 x1, x1.canonical → (step x0 x1).1.canonical) : ∀ (y0 : List α) (y1 : State), y1.canonical → (movedLoop step y0 y1).1.canonical := by
  intro y0 y1
  induction y0 generalizing y1 with
  | nil =>
    intro h1; unfold movedLoop
    try dsimp only
    with_reducible repeat' first | assumption | apply h_step | apply ih | split
  | cons a l ih =>
    intro h1; unfold movedLoop
    try dsimp only
    with_reducible repeat' first | assumption | apply h_step | apply ih | split

theorem canonical_winBlock (e lpol base : Nat) (d : WinDesc) (p row off2 : Int) (b : Nat) (s : State) (h_s : s.canonical) : (winBlock e lpol base d p row off2 b s).1.canonical := by
  unfold winBlock
  try dsimp only
  with_reducible repeat' first | assumption | apply canonical_winRead | apply canonical_tileWrite | split

theorem canonical_winTap (e lpol base : Nat) (d : WinDesc) (p row off2 : Int) (tap : Nat) (s : State) (h_s : s.canonical) : (winTap e lpol base d p row off2 tap s).1.canonical := by
  unfold winTap
  try dsimp only
  with_reducible repeat' first | assumption | apply canonical_winRead | apply canonical_tileWrite | split

theorem canonical_winFill (e lpol base : Nat) (so : Int) (d : WinDesc) (off : Int × Int × Int) (live : Nat) (s : State) (h_s : s.canonical) : (winFill e lpol base so d off live s).1.canonical := by
  unfold winFill
  try dsimp only
  with_reducible repeat' first | assumption | apply canonical_movedLoop | apply canonical_winTap | apply canonical_winBlock | split | intro _

theorem canonical_winMove (s : State) (e : Nat) (x : SkEntry) (f : Fields) (w2 : Word64) (h_s : s.canonical) : (winMove s e x f w2).1.canonical := by
  unfold winMove
  try dsimp only
  with_reducible repeat' first | assumption | apply canonical_movedLoop | apply canonical_winFill | apply canonical_setIter | apply canonical_State_draw | apply canonical_State_tally | split | simp only [canonical_mk, canon_fold, id_eq] | intro _

theorem canonical_winStart (s : State) (e : Nat) (fill : Bool) (x : SkEntry) (t : Transfer) (h_s : s.canonical) : (winStart s e fill x t).canonical := by
  unfold winStart
  try dsimp only
  with_reducible repeat' first | assumption | apply canonical_tileRead | apply canonical_failEntry | apply canonical_extentTrap | apply canonical_dropEntry | apply canonical_settleQueue | apply canonical_State_raiseTrap | apply canonical_modEntry | apply canonical_holdTracker | apply canonical_setIter | split

theorem canonical_enterSkidder (s : State) (e : Nat) (x : QEntry) (fill : Bool) (h_s : s.canonical) : (enterSkidder s e x fill).canonical := by
  unfold enterSkidder
  try dsimp only
  with_reducible repeat' first | assumption | apply canonical_State_modEng | simp only [canonical_mk, canon_fold, id_eq]

theorem canonical_effWgpush (e : EngId) (pc : Nat) (f : Fields) (w2 n1 n2 : Word64) (r : RegFile) (s : State) (h_s : s.canonical) : (effWgpush e pc f w2 n1 n2 r s).canonical := by
  unfold effWgpush
  try dsimp only
  with_reducible repeat' first | assumption | apply canonical_State_modEng

theorem canonical_effWgdrain (e : Nat) (x : QEntry) (f : Fields) (s : State) (h_s : s.canonical) : (effWgdrain e x f s).canonical := by
  unfold effWgdrain
  try dsimp only
  with_reducible repeat' first | assumption | apply canonical_State_modEng

theorem canonical_runInstr (e : Nat) (x : QEntry) (s : State) (h_s : s.canonical) : (runInstr e x s).canonical := by
  unfold runInstr
  try dsimp only
  with_reducible repeat' first | assumption | apply canonical_State_modEng | apply canonical_effAlu | apply canonical_effAlui | apply canonical_effCmp | apply canonical_effCmpi | apply canonical_effPlog | apply canonical_effAdda | apply canonical_effLds | apply canonical_effSts | apply canonical_effSget | apply canonical_effFlgclr | apply canonical_effTset | apply canonical_effTget | apply canonical_effBload | apply canonical_effBext | apply canonical_effLi64 | apply canonical_effTblload | apply canonical_effTblswap | apply canonical_effTly | apply canonical_effMma | apply canonical_effDrain | apply canonical_effWgpush | apply canonical_effWgdrain | apply canonical_effCvt | apply canonical_vecLanes | apply canonical_effVfma | apply canonical_effVfuse | apply canonical_effVrot | apply canonical_effSteprun | apply canonical_effRstat | apply canonical_effSmax | apply canonical_enterSkidder | split

theorem canonical_runHead (s : State) (e q : Nat) (x : QEntry) (h_s : s.canonical) : (runHead s e q x).canonical := by
  unfold runHead
  try dsimp only
  with_reducible repeat' first | assumption | apply canonical_State_modEng | apply canonical_runInstr | split

theorem canonical_forceHead (s : State) (e : Nat) (h_s : s.canonical) : (forceHead s e).canonical := by
  unfold forceHead
  try dsimp only
  with_reducible repeat' first | assumption | apply canonical_State_modEng | apply canonical_State_tally

theorem canonical_stayStopped (before s : State) (e : Nat) (h_before : before.canonical) (h_s : s.canonical) : (stayStopped before s e).canonical := by
  unfold stayStopped
  try dsimp only
  with_reducible repeat' first | assumption | apply canonical_State_modEng | split

theorem canonical_runHeads (free : Bool) (e : Nat) : ∀ (y0 : List (Nat × QEntry)) (y1 : State), y1.canonical → (runHeads free e y0 y1).canonical := by
  intro y0 y1
  induction y0 generalizing y1 with
  | nil =>
    intro h1; unfold runHeads
    try dsimp only
    with_reducible repeat' first | assumption | apply ih | apply canonical_runHead | apply canonical_State_modEng | apply canonical_stayStopped | split
  | cons a l ih =>
    intro h1; unfold runHeads
    try dsimp only
    with_reducible repeat' first | assumption | apply ih | apply canonical_runHead | apply canonical_State_modEng | apply canonical_stayStopped | split

theorem canonical_runWaits (e : Nat) : ∀ (y0 : List Nat) (y1 : State), y1.canonical → (runWaits e y0 y1).canonical := by
  intro y0 y1
  induction y0 generalizing y1 with
  | nil =>
    intro h1; unfold runWaits
    try dsimp only
    with_reducible repeat' first | assumption | apply ih | apply canonical_runHead | split
  | cons a l ih =>
    intro h1; unfold runWaits
    try dsimp only
    with_reducible repeat' first | assumption | apply ih | apply canonical_runHead | split

theorem canonical_queueStep {s t : State} {e : Nat} (h : s.canonical) (eq : queueStep s e = some t) : t.canonical := by
  unfold queueStep at eq
  dsimp only at eq
  repeat' split at eq
  all_goals cases eq
  all_goals first
    | with_reducible exact canonical_runWaits _ _ _ (canonical_runHeads _ _ _ _ h)
    | with_reducible exact canonical_forceHead _ _ h
    | with_reducible exact canonical_State_modEng _ _ _ h

theorem canonical_drainFuel (n e : Nat) (s : State) (h : s.canonical) : (drainFuel n e s).canonical := by
  induction n generalizing s with
  | zero => exact h
  | succ n ih =>
    unfold drainFuel
    split
    · exact ih _ (canonical_queueStep h (by assumption))
    · exact h

theorem canonical_drain (s : State) (e : Nat) (h_s : s.canonical) : (drain s e).canonical := by
  unfold drain
  try dsimp only
  with_reducible repeat' first | assumption | apply canonical_drainFuel

theorem canonical_setPc (s : State) (e pc : Nat) (h_s : s.canonical) : (setPc s e pc).canonical := by
  unfold setPc
  try dsimp only
  with_reducible repeat' first | assumption | apply canonical_State_modEng

theorem canonical_enqueue (s : State) (e pc q : Nat) (i : Instr) (live : Bool) (h_s : s.canonical) : (enqueue s e pc q i live).canonical := by
  unfold enqueue
  try dsimp only
  with_reducible repeat' first | assumption | apply canonical_drain | apply canonical_State_modEng

theorem canonical_illegalTrap (s : State) (e pc : Nat) (h_s : s.canonical) : (illegalTrap s e pc).canonical := by
  unfold illegalTrap
  try dsimp only
  with_reducible repeat' first | assumption | apply canonical_setPc | apply canonical_State_raiseTrap

theorem canonical_effPreempt (e : Nat) (f : Fields) (w2 : Word64) (s : State) (h_s : s.canonical) : (effPreempt e f w2 s).canonical := by
  unfold effPreempt
  try dsimp only
  with_reducible repeat' first | assumption | apply canonical_drain | apply canonical_State_modEng | split

theorem canonical_sequencer (e pc : Nat) (i : Instr) (s : State) (h_s : s.canonical) : (sequencer e pc i s).canonical := by
  unfold sequencer
  try dsimp only
  with_reducible repeat' first | assumption | apply canonical_drain | apply canonical_State_modEng | apply canonical_effBr | apply canonical_effJal | apply canonical_effJr | apply canonical_effLoop | apply canonical_effPreempt | split

theorem canonical_issueNow (e : EngId) (f : Fields) (i : Instr) (pc : Nat) (s : State) (h_s : s.canonical) : (issueNow e f i pc s).canonical := by
  unfold issueNow
  try dsimp only
  with_reducible repeat' first | assumption | apply canonical_illegalTrap | apply canonical_setPc | apply canonical_sequencer | apply canonical_enqueue | split

theorem canonical_issue (e : EngId) (f : Fields) (i : Instr) (s : State) (h_s : s.canonical) : (issue e f i s).canonical := by
  unfold issue
  try dsimp only
  with_reducible repeat' first | assumption | apply canonical_tileRead | apply canonical_State_raiseTrap | apply canonical_illegalTrap | apply canonical_issueNow | split

theorem canonical_saveSemAdd (s : State) (c rank sem inc : Nat) (h_s : s.canonical) : (saveSemAdd s c rank sem inc).canonical := by
  unfold saveSemAdd
  try dsimp only
  with_reducible repeat' first | assumption | apply canonical_memReadNat | apply canonical_memWrite | split

theorem canonical_ctxSemAdd (s : State) (c rank sem inc : Nat) (h_s : s.canonical) : (ctxSemAdd s c rank sem inc).canonical := by
  unfold ctxSemAdd
  try dsimp only
  with_reducible repeat' first | assumption | apply canonical_drain | apply canonical_State_modEng | apply canonical_saveSemAdd | split

theorem canonical_writeEdit (s : State) (r : Requester) (d : Edit) (h_s : s.canonical) : (writeEdit s r d).1.canonical := by
  unfold writeEdit
  try dsimp only
  with_reducible repeat' first | assumption | apply canonical_memStore | apply canonical_memReadNat | split

theorem canonical_kvmapStart (s : State) (e : Nat) (x : SkEntry) (f : Fields) (h_s : s.canonical) : (kvmapStart s e x f).canonical := by
  unfold kvmapStart
  try dsimp only
  with_reducible repeat' first | assumption | apply canonical_drain | apply canonical_failEntry | apply canonical_modEntry | apply canonical_State_tally | apply canonical_writeEdit | apply canonical_completeEntry | split | simp only [canonical_mk, canon_fold, id_eq]

theorem canonical_editTrap (s : State) (d : Edit) (code : Nat) (h_s : s.canonical) : (editTrap s d code).canonical := by
  unfold editTrap
  try dsimp only
  with_reducible repeat' first | assumption | apply canonical_State_modEng | apply canonical_State_appendRecord | apply canonical_State_beginTeardown | split

theorem canonical_endEdit (s : State) (d : Edit) (m : MemEnd) (h_s : s.canonical) : (endEdit s d m).canonical := by
  unfold endEdit
  try dsimp only
  with_reducible repeat' first | assumption | apply canonical_drain | apply canonical_completeEntry | apply canonical_failEntry | apply canonical_ctxSemAdd | apply canonical_editTrap | split

theorem canonical_readEntries (e lpol base n : Nat) (mv9 : Bool) (units : Nat) : ∀ (y0 : Nat) (y1 : Nat) (y2 : List Nat) (y3 : State), y3.canonical → (readEntries e lpol base n mv9 units y0 y1 y2 y3).1.canonical := by
  intro y0 y1 y2 y3
  induction y0 generalizing y1 y2 y3 with
  | zero =>
    intro h3; unfold readEntries
    try dsimp only
    with_reducible repeat' first | assumption | apply ih | apply canonical_memReadVia | apply canonical_State_tally | split
  | succ n ih =>
    intro h3; unfold readEntries
    try dsimp only
    with_reducible repeat' first | assumption | apply ih | apply canonical_memReadVia | apply canonical_State_tally | split

theorem canonical_dropWalk (s : State) (id : Nat) (h_s : s.canonical) : (dropWalk s id).canonical := by
  unfold dropWalk
  try dsimp only
  with_reducible repeat' first | assumption | simp only [canonical_mk, canon_fold, id_eq]

theorem canonical_walkStart (s : State) (e : Nat) (x : SkEntry) (f : Fields) (w2 : Word64) (h_s : s.canonical) : (walkStart s e x f w2).canonical := by
  unfold walkStart
  try extract_lets
  with_reducible repeat' first | assumption | apply canonical_drain | apply canonical_failEntry | apply canonical_readRot | apply canonical_readEntries | apply canonical_tileRead | apply canonical_modEntry | split | simp only [canonical_mk, canon_fold, id_eq] | (simp +zetaDelta only [canonical_mk, canon_fold])

theorem canonical_tileWrites (e : Nat) : ∀ (y0 : List (Nat × List Byte)) (y1 : State), y1.canonical → (tileWrites e y0 y1).1.canonical := by
  intro y0 y1
  induction y0 generalizing y1 with
  | nil =>
    intro h1; unfold tileWrites
    try dsimp only
    with_reducible repeat' first | assumption | apply ih | apply canonical_tileWrite | split
  | cons a l ih =>
    intro h1; unfold tileWrites
    try dsimp only
    with_reducible repeat' first | assumption | apply ih | apply canonical_tileWrite | split

theorem canonical_placePages (e lpol : Nat) (w : Walk) (d : Placing) : ∀ (y0 : List (Nat × Bool)) (y1 : Nat) (y2 : State), y2.canonical → (placePages e lpol w d y0 y1 y2).1.canonical := by
  intro y0 y1 y2
  induction y0 generalizing y1 y2 with
  | nil =>
    intro h2; unfold placePages
    try dsimp only
    with_reducible repeat' first | assumption | apply ih | apply canonical_memReadVia | apply canonical_State_tally | apply canonical_tileWrites | apply canonical_State_raiseFlags | split
  | cons a l ih =>
    intro h2; unfold placePages
    try dsimp only
    with_reducible repeat' first | assumption | apply ih | apply canonical_memReadVia | apply canonical_State_tally | apply canonical_tileWrites | apply canonical_State_raiseFlags | split

theorem canonical_pageAbsent (s : State) (e pc : Nat) (w : Walk) (h_s : s.canonical) : (pageAbsent s e pc w).canonical := by
  unfold pageAbsent
  try dsimp only
  with_reducible repeat' first | assumption | apply canonical_State_setReg64 | apply canonical_State_raiseTrap | apply canonical_State_modEng | apply canonical_State_requestPreempt | split

theorem canonical_walkComplete (s : State) (e : Nat) (x : SkEntry) (f : Fields) (w2 : Word64) (w : Walk) (h_s : s.canonical) : (walkComplete s e x f w2 w).canonical := by
  unfold walkComplete
  try dsimp only
  with_reducible repeat' first | assumption | apply canonical_placePages | apply canonical_drain | apply canonical_failEntry | apply canonical_dropWalk | apply canonical_tileWrites | apply canonical_completeEntry | apply canonical_pageAbsent | split

theorem canonical_walkBegin (s : State) (e : Nat) (x : SkEntry) (f : Fields) (w2 : Word64) (h_s : s.canonical) : (walkBegin s e x f w2).canonical := by
  unfold walkBegin
  try dsimp only
  with_reducible repeat' first | assumption | apply canonical_walkStart | split

theorem canonical_startWalkNext (s : State) (e : Nat) (h_s : s.canonical) : (startWalkNext s e).canonical := by
  unfold startWalkNext
  try dsimp only
  with_reducible repeat' first | assumption | apply canonical_walkBegin | split

theorem canonical_completeWalk (s : State) (e : Nat) (h_s : s.canonical) : (completeWalk s e).canonical := by
  unfold completeWalk
  try dsimp only
  with_reducible repeat' first | assumption | apply canonical_walkComplete | split

theorem canonical_dropEdit (s : State) (d : Edit) (h_s : s.canonical) : (dropEdit s d).canonical := by
  unfold dropEdit
  try dsimp only
  with_reducible repeat' first | assumption | simp only [canonical_mk, canon_fold, id_eq]

theorem canonical_writeDeferred (s : State) (h_s : s.canonical) : (writeDeferred s).canonical := by
  unfold writeDeferred
  try dsimp only
  with_reducible repeat' first | assumption | apply canonical_writeEdit | apply canonical_dropEdit | apply canonical_endEdit | split

theorem canonical_clearSums (s : State) (n : Nat) (h_s : s.canonical) : (clearSums s n).canonical := by
  unfold clearSums
  try dsimp only
  with_reducible repeat' first | assumption | apply canonical_State_setReg64 | apply canonical_State_setReg

theorem canonical_evaluate (s : State) (n : Nat) (d : Feed) (h_s : s.canonical) : (evaluate s n d).canonical := by
  unfold evaluate
  try extract_lets
  with_reducible repeat' first | assumption | apply canonical_clearSums | apply canonical_State_setFld | apply canonical_State_tallySlot | apply canonical_State_tally | split | simp only [canonical_mk, canon_fold, id_eq] | (simp +zetaDelta only [canonical_mk, canon_fold])

theorem canonical_takeFeed (s : State) (d : Feed) (h_s : s.canonical) : (takeFeed s d).canonical := by
  unfold takeFeed
  try dsimp only
  with_reducible repeat' first | assumption | apply canonical_State_setFld | apply canonical_State_count64 | apply canonical_State_count | apply canonical_evaluate | split

theorem canonical_feedNext (s : State) (h_s : s.canonical) : (feedNext s).canonical := by
  unfold feedNext
  try dsimp only
  with_reducible repeat' first | assumption | apply canonical_takeFeed | split | simp only [canonical_mk, canon_fold, id_eq]

theorem canonical_judgeNext (s : State) (h_s : s.canonical) : (judgeNext s).canonical := by
  unfold judgeNext
  try dsimp only
  with_reducible repeat' first | assumption | apply canonical_State_setFld | apply canonical_State_count | split | simp only [canonical_mk, canon_fold, id_eq]

theorem canonical_performRelease (s : State) (n : Nat) (h_s : s.canonical) : (performRelease s n).canonical := by
  unfold performRelease
  try dsimp only
  with_reducible repeat' first | assumption | apply canonical_memWrite | apply canonical_State_setFld

theorem canonical_release (s : State) (n : Nat) (h_s : s.canonical) : (release s n).canonical := by
  unfold release
  try dsimp only
  with_reducible repeat' first | assumption | apply canonical_performRelease | split | simp only [canonical_mk, canon_fold, id_eq]

theorem canonical_grantNext (s : State) (h_s : s.canonical) : (grantNext s).canonical := by
  unfold grantNext
  try dsimp only
  with_reducible repeat' first | assumption | apply canonical_memWrite | apply canonical_State_setFld | apply canonical_performRelease | split | simp only [canonical_mk, canon_fold, id_eq]

theorem canonical_writeMonCtl (s : State) (n v : Nat) (h_s : s.canonical) : (writeMonCtl s n v).canonical := by
  unfold writeMonCtl
  try dsimp only
  with_reducible repeat' first | assumption | apply canonical_release | apply canonical_State_setReg | apply canonical_clearSums | split

theorem canonical_releaseMonitors (s : State) (c : Nat) (h_s : s.canonical) : (releaseMonitors s c).canonical := by
  unfold releaseMonitors
  try dsimp only
  with_reducible repeat' first | assumption | apply canonical_release | apply canonical_clearSums | apply canonical_State_setFld | apply canonical_foldl | split | simp only [canonical_mk, canon_fold, id_eq] | intro _

theorem canonical_transferStart (s : State) (e : Nat) (fill : Bool) (x : SkEntry) (t : Transfer) (h_s : s.canonical) : (transferStart s e fill x t).canonical := by
  unfold transferStart
  try dsimp only
  with_reducible repeat' first | assumption | apply canonical_drain | apply canonical_winStart | apply canonical_completeEntry | apply canonical_failEntry | apply canonical_holdTracker | apply canonical_modEntry | apply canonical_startRemote | apply canonical_freeTracker | split

theorem canonical_rsigDeliver (s : State) (e : Nat) (x : SkEntry) (f : Fields) (h_s : s.canonical) : (rsigDeliver s e x f).canonical := by
  unfold rsigDeliver
  try dsimp only
  with_reducible repeat' first | assumption | apply canonical_drain | apply canonical_failEntry | apply canonical_completeEntry | apply canonical_State_modEng | split

theorem canonical_deliverRsig (s : State) (e : Nat) (h_s : s.canonical) : (deliverRsig s e).canonical := by
  unfold deliverRsig
  try dsimp only
  with_reducible repeat' first | assumption | apply canonical_rsigDeliver | split

theorem canonical_startPlain (s : State) (e : Nat) (fill : Bool) (x : SkEntry) (h_s : s.canonical) : (startPlain s e fill x).canonical := by
  unfold startPlain
  try dsimp only
  with_reducible repeat' first | assumption | apply canonical_walkBegin | apply canonical_kvmapStart | apply canonical_rsigDeliver | apply canonical_transferStart | split

theorem canonical_transferEnd (s : State) (e : Nat) (fill : Bool) (x : SkEntry) (h_s : s.canonical) : (transferEnd s e fill x).canonical := by
  unfold transferEnd
  try dsimp only
  with_reducible repeat' first | assumption | apply canonical_winMove | apply canonical_moveTransfer | apply canonical_drain | apply canonical_completeEntry | apply canonical_freeTracker | apply canonical_failEntry | split

theorem canonical_completeTransfer (s : State) (e : Nat) (fill : Bool) (k : Nat) (h_s : s.canonical) : (completeTransfer s e fill k).canonical := by
  unfold completeTransfer
  try dsimp only
  with_reducible repeat' first | assumption | apply canonical_transferEnd | split

theorem canonical_reportStop (s : State) (e : Nat) (h_s : s.canonical) : (reportStop s e).canonical := by
  unfold reportStop
  try dsimp only
  with_reducible repeat' first | assumption | apply canonical_State_modEng | split

theorem canonical_writeHalt (s : State) (e : Nat) (v : Bool) (h_s : s.canonical) : (writeHalt s e v).canonical := by
  unfold writeHalt
  try dsimp only
  with_reducible repeat' first | assumption | apply canonical_State_modEng | split

theorem canonical_engineHalted (s : State) (e : Nat) (h_s : s.canonical) : (engineHalted s e).canonical := by
  unfold engineHalted
  try dsimp only
  with_reducible repeat' first | assumption | apply canonical_State_modEng | split

theorem canonical_writeSem (s : State) (e i v : Nat) (h_s : s.canonical) : (writeSem s e i v).canonical := by
  unfold writeSem
  try dsimp only
  with_reducible repeat' first | assumption | apply canonical_drain | apply canonical_State_modEng | split

theorem canonical_dbgRead (s : State) (e : Nat) (a : Acc) (h_s : s.canonical) : (dbgRead s e a).canonical := by
  unfold dbgRead
  try dsimp only
  with_reducible repeat' first | assumption | apply canonical_tileRead | apply canonical_State_modEng | split | simp only [canonical_mk, canon_fold, id_eq]

theorem canonical_dbgWrite (s : State) (e : Nat) (a : Acc) (v : Nat) (h_s : s.canonical) : (dbgWrite s e a v).canonical := by
  unfold dbgWrite
  try dsimp only
  with_reducible repeat' first | assumption | apply canonical_tileWrite | apply canonical_State_modEng | split | simp only [canonical_mk, canon_fold, id_eq]

theorem canonical_bindSet (s : State) (c : Nat) (ns : List Nat) (h_s : s.canonical) : (bindSet s c ns).canonical := by
  unfold bindSet
  try dsimp only
  with_reducible repeat' first | assumption | apply canonical_State_modEng | apply canonical_State_modCtx | apply canonical_foldl | intro _

theorem canonical_startSet (s : State) (c : Nat) (h_s : s.canonical) : (startSet s c).canonical := by
  unfold startSet
  try dsimp only
  with_reducible repeat' first | assumption | apply canonical_State_modEng | apply canonical_foldl | intro _

theorem canonical_quietFeeds (s : State) (c : Nat) (h_s : s.canonical) : (quietFeeds s c).canonical := by
  unfold quietFeeds
  try dsimp only
  with_reducible repeat' first | assumption | simp only [canonical_mk, canon_fold, id_eq]

theorem canonical_unbindSet (s : State) (c : Nat) (h_s : s.canonical) : (unbindSet s c).canonical := by
  unfold unbindSet
  try dsimp only
  with_reducible repeat' first | assumption | apply canonical_quietFeeds | apply canonical_State_modEng | apply canonical_State_modCtx | apply canonical_foldl | intro _

theorem canonical_ctxRej (s : State) (c : Nat) (h_s : s.canonical) : (ctxRej s c).canonical := by
  unfold ctxRej
  try dsimp only
  with_reducible repeat' first | assumption | apply canonical_State_setFld

theorem canonical_ctxOpen (s : State) (c : Nat) (h_s : s.canonical) : (ctxOpen s c).canonical := by
  unfold ctxOpen
  try dsimp only
  with_reducible repeat' first | assumption | apply canonical_State_setCtxState | apply canonical_ctxRej | split

theorem canonical_ctxPreempt (s : State) (c : Nat) (h_s : s.canonical) : (ctxPreempt s c).canonical := by
  unfold ctxPreempt
  try dsimp only
  with_reducible repeat' first | assumption | apply canonical_State_requestPreempt | apply canonical_ctxRej | split

theorem canonical_tryResume (s : State) (c : Nat) (h_s : s.canonical) : (tryResume s c).canonical := by
  unfold tryResume
  try dsimp only
  with_reducible repeat' first | assumption | apply canonical_bindSet | apply canonical_State_setCtxState | apply canonical_State_modCtx | split

theorem canonical_ctxResume (s : State) (c : Nat) (h_s : s.canonical) : (ctxResume s c).canonical := by
  unfold ctxResume
  try dsimp only
  with_reducible repeat' first | assumption | apply canonical_tryResume | apply canonical_State_modCtx | apply canonical_ctxRej | split

theorem canonical_serveResumes (s : State) (h_s : s.canonical) : (serveResumes s).canonical := by
  unfold serveResumes
  try dsimp only
  with_reducible repeat' first | assumption | apply canonical_tryResume | apply canonical_foldl

theorem canonical_ctxTeardown (s : State) (c : Nat) (h_s : s.canonical) : (ctxTeardown s c).canonical := by
  unfold ctxTeardown
  try dsimp only
  with_reducible repeat' first | assumption | apply canonical_State_beginTeardown | apply canonical_ctxRej | split

theorem canonical_ctxSetWrite (s : State) (c k v : Nat) (h_s : s.canonical) : (ctxSetWrite s c k v).canonical := by
  unfold ctxSetWrite
  try dsimp only
  with_reducible repeat' first | assumption | apply canonical_State_setReg | apply canonical_ctxRej | split

theorem canonical_workEnd (s : State) (i : Nat) (h_s : s.canonical) : (workEnd s i).canonical := by
  unfold workEnd
  try dsimp only
  with_reducible repeat' first | assumption | apply canonical_State_setFld | apply canonical_State_raiseIrq | simp only [canonical_mk, canon_fold, id_eq]

theorem canonical_eraseKey (s : State) (k : Nat) (h_s : s.canonical) : (eraseKey s k).canonical := by
  unfold eraseKey
  try dsimp only
  with_reducible repeat' first | assumption | apply canonical_State_setReg | simp only [canonical_mk, canon_fold, id_eq]

theorem canonical_eraseOwned (s : State) (c : Nat) (h_s : s.canonical) : (eraseOwned s c).canonical := by
  unfold eraseOwned
  try dsimp only
  with_reducible repeat' first | assumption | apply canonical_eraseKey | apply canonical_foldl | split | intro _

theorem canonical_endKeys (s : State) (c : Nat) (h_s : s.canonical) : (endKeys s c).canonical := by
  unfold endKeys
  try dsimp only
  with_reducible repeat' first | assumption | apply canonical_eraseOwned | split

theorem canonical_workStatus (s : State) (i w0 stat : Nat) (fb miss : Bool) (h_s : s.canonical) : (workStatus s i w0 stat fb miss).canonical := by
  unfold workStatus
  try dsimp only
  with_reducible repeat' first | assumption | apply canonical_memWrite

theorem canonical_workRefuse (s : State) (i w0 stat : Nat) (h_s : s.canonical) : (workRefuse s i w0 stat).canonical := by
  unfold workRefuse
  try dsimp only
  with_reducible repeat' first | assumption | apply canonical_workEnd | apply canonical_workStatus

theorem canonical_workRefuseHead (s : State) (c i w0 : Nat) (h_s : s.canonical) : (workRefuseHead s c i w0).canonical := by
  unfold workRefuseHead
  try dsimp only
  with_reducible repeat' first | assumption | apply canonical_endKeys | apply canonical_workRefuse

theorem canonical_copyImage (w : List Nat) (ns : List Nat) (bs : List Byte) (s : State) (h_s : s.canonical) : (copyImage w ns bs s).canonical := by
  unfold copyImage
  try dsimp only
  with_reducible repeat' first | assumption | apply canonical_tileWrite | apply canonical_foldl | intro _

theorem canonical_dispatchItem (s : State) (c i : Nat) (w : List Nat) (h_s : s.canonical) : (dispatchItem s c i w).canonical := by
  unfold dispatchItem
  try dsimp only
  with_reducible repeat' first | assumption | apply canonical_bindSet | apply canonical_State_setCtxState | apply canonical_State_modCtx | apply canonical_State_setReg | apply canonical_memRead | apply canonical_copyImage | apply canonical_startSet | apply canonical_setPc | apply canonical_State_appendRecord | apply canonical_State_beginTeardown | apply canonical_foldl | split | intro _

theorem canonical_scanWork : ∀ (y0 : List Nat) (y1 : List Nat) (y2 : State), y2.canonical → (scanWork  y0 y1 y2).canonical := by
  intro y0 y1 y2
  induction y0 generalizing y1 y2 with
  | nil =>
    intro h2; unfold scanWork
    try dsimp only
    with_reducible repeat' first | assumption | apply ih | apply canonical_memRead | apply canonical_State_setFld | apply canonical_State_appendRecord | apply canonical_workRefuseHead | apply canonical_dispatchItem | split
  | cons a l ih =>
    intro h2; unfold scanWork
    try dsimp only
    with_reducible repeat' first | assumption | apply ih | apply canonical_memRead | apply canonical_State_setFld | apply canonical_State_appendRecord | apply canonical_workRefuseHead | apply canonical_dispatchItem | split

theorem canonical_dispatch (s : State) (h_s : s.canonical) : (dispatch s).canonical := by
  unfold dispatch
  try dsimp only
  with_reducible repeat' first | assumption | apply canonical_serveResumes | apply canonical_scanWork | split

theorem canonical_markNext (s : State) (h_s : s.canonical) : (markNext s).canonical := by
  unfold markNext
  try dsimp only
  with_reducible repeat' first | assumption | apply canonical_effMark | split | simp only [canonical_mk, canon_fold, id_eq]

theorem canonical_flushMarks (s : State) (c : Nat) (h_s : s.canonical) : (flushMarks s c).canonical := by
  unfold flushMarks
  try dsimp only
  with_reducible repeat' first | assumption | apply canonical_effMark | apply canonical_foldl | simp only [canonical_mk, canon_fold, id_eq] | intro _

theorem canonical_preemptTimeout (s : State) (c : Nat) (h_s : s.canonical) : (preemptTimeout s c).canonical := by
  unfold preemptTimeout
  try dsimp only
  with_reducible repeat' first | assumption | apply canonical_State_appendRecord | apply canonical_State_beginTeardown | apply canonical_State_modEng | apply canonical_State_setCtxState | apply canonical_State_modCtx | apply canonical_State_setFld | apply canonical_foldl | split | intro _

theorem canonical_saveTiles (e : Nat) : ∀ (y0 : List Nat) (y1 : State), y1.canonical → (saveTiles e y0 y1).1.canonical := by
  intro y0 y1
  induction y0 generalizing y1 with
  | nil =>
    intro h1; unfold saveTiles
    try dsimp only
    with_reducible repeat' first | assumption | apply ih | apply canonical_accRead | apply canonical_foldl_fst | simp only [canonical_mk, canon_fold, id_eq] | intro _
  | cons a l ih =>
    intro h1; unfold saveTiles
    try dsimp only
    with_reducible repeat' first | assumption | apply ih | apply canonical_accRead | apply canonical_foldl_fst | simp only [canonical_mk, canon_fold, id_eq] | intro _

theorem canonical_saveRegions (e : Nat) (r : RegFile) : ∀ (y0 : List Nat) (y1 : State), y1.canonical → (saveRegions e r y0 y1).1.canonical := by
  intro y0 y1
  induction y0 generalizing y1 with
  | nil =>
    intro h1; unfold saveRegions
    try dsimp only
    with_reducible repeat' first | assumption | apply ih | apply canonical_tileRead
  | cons a l ih =>
    intro h1; unfold saveRegions
    try dsimp only
    with_reducible repeat' first | assumption | apply ih | apply canonical_tileRead

theorem canonical_saveRecord (s : State) (e : Nat) (h_s : s.canonical) : (saveRecord s e).1.canonical := by
  unfold saveRecord
  try dsimp only
  with_reducible repeat' first | assumption | apply canonical_saveTiles | apply canonical_saveRegions

theorem canonical_saveRanks (c : Nat) : ∀ (y0 : List (Nat × Nat)) (y1 : State), y1.canonical → (saveRanks c y0 y1).1.canonical := by
  intro y0 y1
  induction y0 generalizing y1 with
  | nil =>
    intro h1; unfold saveRanks
    try dsimp only
    with_reducible repeat' first | assumption | apply ih | apply canonical_saveRecord | apply canonical_memWrite | split
  | cons a l ih =>
    intro h1; unfold saveRanks
    try dsimp only
    with_reducible repeat' first | assumption | apply ih | apply canonical_saveRecord | apply canonical_memWrite | split

theorem canonical_saveFailed (s : State) (c code : Nat) (h_s : s.canonical) : (saveFailed s c code).canonical := by
  unfold saveFailed
  try dsimp only
  with_reducible repeat' first | assumption | apply canonical_State_setFld | apply canonical_State_appendRecord | apply canonical_State_beginTeardown

theorem canonical_showPoint (s : State) (c : Nat) (p : Option Nat) (h_s : s.canonical) : (showPoint s c p).canonical := by
  unfold showPoint
  try dsimp only
  with_reducible repeat' first | assumption | apply canonical_State_setFld | split

theorem canonical_contextSave (s : State) (c : Nat) (h_s : s.canonical) : (contextSave s c).canonical := by
  unfold contextSave
  try dsimp only
  with_reducible repeat' first | assumption | apply canonical_saveFailed | apply canonical_saveRanks | apply canonical_State_raiseTrap | apply canonical_showPoint | apply canonical_unbindSet | apply canonical_State_setCtxState | apply canonical_State_modCtx | split

theorem canonical_readRecord (s : State) (c rank : Nat) (h_s : s.canonical) : (readRecord s c rank).1.canonical := by
  unfold readRecord
  try dsimp only
  with_reducible repeat' first | assumption | apply canonical_memRead | split

theorem canonical_restoreRank (c : Nat) (er : Nat × Nat) (s : State) (h_s : s.canonical) : (restoreRank c er s).1.canonical := by
  unfold restoreRank
  try dsimp only
  with_reducible repeat' first | assumption | apply canonical_readRecord | apply canonical_State_modEng | split

theorem canonical_rankLoop (step : Nat × Nat → State → State × Bool) (h_step : ∀ x0 x1, x1.canonical → (step x0 x1).1.canonical) : ∀ (y0 : List (Nat × Nat)) (y1 : State), y1.canonical → (rankLoop step y0 y1).1.canonical := by
  intro y0 y1
  induction y0 generalizing y1 with
  | nil =>
    intro h1; unfold rankLoop
    try dsimp only
    with_reducible repeat' first | assumption | apply h_step | apply ih | split
  | cons a l ih =>
    intro h1; unfold rankLoop
    try dsimp only
    with_reducible repeat' first | assumption | apply h_step | apply ih | split

theorem canonical_restoreRanks (c : Nat) (l : List (Nat × Nat)) (s : State) (h_s : s.canonical) : (restoreRanks c l s).1.canonical := by
  unfold restoreRanks
  try dsimp only
  with_reducible repeat' first | assumption | apply canonical_rankLoop | apply canonical_State_modEng | apply canonical_restoreRank | split | intro _

theorem canonical_contextRestore (s : State) (c : Nat) (h_s : s.canonical) : (contextRestore s c).canonical := by
  unfold contextRestore
  try dsimp only
  with_reducible repeat' first | assumption | apply canonical_restoreRanks | apply canonical_startSet | apply canonical_State_setCtxState | apply canonical_saveFailed | split

theorem canonical_writeErrHead (s : State) (v : Nat) (h_s : s.canonical) : (writeErrHead s v).canonical := by
  unfold writeErrHead
  try dsimp only
  with_reducible repeat' first | assumption | apply canonical_State_setFld | split

end Sys2Proof.Machine
end

