-- ==== Sys2Proof/Laws/CanonUnits.lean ====
section
/-! SUPPORT. What keeps the canonical form: the flash controller, the fabric, collectives, plain registers and the codec. -/

set_option linter.unusedSimpArgs false

namespace Sys2Proof.Machine

theorem canonical_hubSignal (s : State) (c rank q inc i : Nat) (h_s : s.canonical) : (hubSignal s c rank q inc i).canonical := by
  unfold hubSignal
  try dsimp only
  with_reducible repeat' first | assumption | apply canonical_State_appendRecord | apply canonical_ctxSemAdd | split

theorem canonical_countRead (s : State) (lba : Nat) (h_s : s.canonical) : (countRead s lba).canonical := by
  unfold countRead
  try dsimp only
  with_reducible repeat' first | assumption | split | simp only [canonical_mk, canon_fold, id_eq]

theorem canonical_readBlock (s : State) (lba : Nat) (h_s : s.canonical) : (readBlock s lba).1.canonical := by
  unfold readBlock
  try dsimp only
  with_reducible repeat' first | assumption | apply canonical_countRead | apply canonical_State_count | split

theorem canonical_readBlocks : ∀ (y0 : Nat) (y1 : Nat) (y2 : State), y2.canonical → (readBlocks  y0 y1 y2).1.canonical := by
  intro y0 y1 y2
  induction y0 generalizing y1 y2 with
  | zero =>
    intro h2; unfold readBlocks
    try dsimp only
    with_reducible repeat' first | assumption | apply ih | apply canonical_readBlock | split
  | succ n ih =>
    intro h2; unfold readBlocks
    try dsimp only
    with_reducible repeat' first | assumption | apply ih | apply canonical_readBlock | split

theorem canonical_placeBlock (bad : List Nat) (s : State) (lba : Nat) (bs : List Byte) (h_s : s.canonical) : (placeBlock bad s lba bs).canonical := by
  unfold placeBlock
  try dsimp only
  with_reducible repeat' first | assumption | apply canonical_State_draw | simp only [canonical_mk, canon_fold, id_eq]

theorem canonical_programBlock (s : State) (lba : Nat) (bs : List Byte) (h_s : s.canonical) : (programBlock s lba bs).canonical := by
  unfold programBlock
  try dsimp only
  with_reducible repeat' first | assumption | apply canonical_placeBlock

theorem canonical_programBlocks : ∀ (y0 : Nat) (y1 : Nat) (y2 : List Byte) (y3 : State), y3.canonical → (programBlocks  y0 y1 y2 y3).canonical := by
  intro y0 y1 y2 y3
  induction y0 generalizing y1 y2 y3 with
  | zero =>
    intro h3; unfold programBlocks
    try dsimp only
    with_reducible repeat' first | assumption | apply ih | apply canonical_programBlock
  | succ n ih =>
    intro h3; unfold programBlocks
    try dsimp only
    with_reducible repeat' first | assumption | apply ih | apply canonical_programBlock

theorem canonical_trimBlock (s : State) (lba : Nat) (h_s : s.canonical) : (trimBlock s lba).canonical := by
  unfold trimBlock
  try dsimp only
  with_reducible repeat' first | assumption | simp only [canonical_mk, canon_fold, id_eq]

theorem canonical_relocate (p : Nat) : ∀ (y0 : List Nat) (y1 : State), y1.canonical → (relocate p y0 y1).1.canonical := by
  intro y0 y1
  induction y0 generalizing y1 with
  | nil =>
    intro h1; unfold relocate
    try dsimp only
    with_reducible repeat' first | assumption | apply ih | apply canonical_State_count | apply canonical_placeBlock | split
  | cons a l ih =>
    intro h1; unfold relocate
    try dsimp only
    with_reducible repeat' first | assumption | apply ih | apply canonical_State_count | apply canonical_placeBlock | split

theorem canonical_readDisturb (s : State) (b : Nat) (h_s : s.canonical) : (readDisturb s b).canonical := by
  unfold readDisturb
  try dsimp only
  with_reducible repeat' first | assumption | apply canonical_relocate | apply canonical_State_appendRecord | apply canonical_State_count | apply canonical_foldl | split | simp only [canonical_mk, canon_fold, id_eq] | intro _

theorem canonical_noteWear (s : State) (h_s : s.canonical) : (noteWear s).canonical := by
  unfold noteWear
  try dsimp only
  with_reducible repeat' first | assumption | split | simp only [canonical_mk, canon_fold, id_eq]

theorem canonical_mountFtl (s : State) (h_s : s.canonical) : (mountFtl s).canonical := by
  unfold mountFtl
  try dsimp only
  with_reducible repeat' first | assumption | apply canonical_State_setReg | apply canonical_State_setFld

theorem canonical_wearLevel (s : State) (b : Nat) (retire : Bool) (h_s : s.canonical) : (wearLevel s b retire).canonical := by
  unfold wearLevel
  try dsimp only
  with_reducible repeat' first | assumption | apply canonical_relocate | apply canonical_State_appendRecord | apply canonical_State_draw | apply canonical_State_setReg | apply canonical_noteWear | apply canonical_State_count | apply canonical_State_setFld | apply canonical_foldl | split | simp only [canonical_mk, canon_fold, id_eq] | intro _

theorem canonical_flashEnd (s : State) (c : FlashCmd) (stat : Nat) (record : Bool) (h_s : s.canonical) : (flashEnd s c stat record).canonical := by
  unfold flashEnd
  try dsimp only
  with_reducible repeat' first | assumption | apply canonical_memWrite | apply canonical_State_appendRecord | apply canonical_State_setFld | apply canonical_hubSignal | apply canonical_State_raiseIrq | split | simp only [canonical_mk, canon_fold, id_eq]

theorem canonical_nfetchSend (c : FlashCmd) : ∀ (y0 : Nat) (y1 : Nat) (y2 : State), y2.canonical → (nfetchSend c y0 y1 y2).canonical := by
  intro y0 y1 y2
  induction y0 generalizing y1 y2 with
  | zero =>
    intro h2; unfold nfetchSend
    try dsimp only
    with_reducible repeat' first | assumption | apply ih | apply canonical_startRequest
  | succ n ih =>
    intro h2; unfold nfetchSend
    try dsimp only
    with_reducible repeat' first | assumption | apply ih | apply canonical_startRequest

theorem canonical_flashStart (s : State) (c : FlashCmd) (h_s : s.canonical) : (flashStart s c).canonical := by
  unfold flashStart
  try dsimp only
  with_reducible repeat' first | assumption | apply canonical_flashEnd | apply canonical_nfetchSend | split | simp only [canonical_mk, canon_fold, id_eq]

theorem canonical_flashNext (s : State) (go : State → FlashCmd → State) (h_s : s.canonical) (h_go : ∀ x0 x1, x0.canonical → (go x0 x1).canonical) : (flashNext s go).canonical := by
  unfold flashNext
  try dsimp only
  with_reducible repeat' first | assumption | apply h_go | apply canonical_memRead | apply canonical_flashEnd | split

theorem canonical_flashOp (s : State) (takes : Nat → Bool) (h_s : s.canonical) : (flashOp s takes).canonical := by
  unfold flashOp
  try dsimp only
  with_reducible repeat' first | assumption | apply canonical_flashNext | apply canonical_flashStart | split | intro _

theorem canonical_gatePoll (s : State) (h_s : s.canonical) : (gatePoll s).canonical := by
  unfold gatePoll
  try dsimp only
  with_reducible repeat' first | assumption | apply canonical_flashNext | apply canonical_flashEnd | apply canonical_memReadNat | apply canonical_flashStart | split | intro _

theorem canonical_openChunk (s : State) (c : FlashCmd) (j : Nat) (ct tag : List Byte) (h_s : s.canonical) : (openChunk s c j ct tag).1.canonical := by
  unfold openChunk
  try dsimp only
  with_reducible repeat' first | assumption | apply canonical_memWrite | split

theorem canonical_readUnit (s : State) (c : FlashCmd) (j : Nat) (h_s : s.canonical) : (readUnit s c j).1.canonical := by
  unfold readUnit
  try dsimp only
  with_reducible repeat' first | assumption | apply canonical_readBlock | apply canonical_memWrite | apply canonical_readBlocks | apply canonical_openChunk | split

theorem canonical_writeUnit (s : State) (c : FlashCmd) (j : Nat) (h_s : s.canonical) : (writeUnit s c j).1.canonical := by
  unfold writeUnit
  try dsimp only
  with_reducible repeat' first | assumption | apply canonical_memRead | apply canonical_programBlock | apply canonical_programBlocks | apply canonical_readBlock | split

theorem canonical_importUnit (s : State) (c : FlashCmd) (j : Nat) (h_s : s.canonical) : (importUnit s c j).1.canonical := by
  unfold importUnit
  try dsimp only
  with_reducible repeat' first | assumption | apply canonical_memRead | apply canonical_openChunk | split

theorem canonical_flashUnit (s : State) (c : FlashCmd) (j : Nat) (h_s : s.canonical) : (flashUnit s c j).1.canonical := by
  unfold flashUnit
  try dsimp only
  with_reducible repeat' first | assumption | apply canonical_readUnit | apply canonical_writeUnit | apply canonical_trimBlock | apply canonical_importUnit | split

theorem canonical_flashUnits (c : FlashCmd) : ∀ (y0 : Nat) (y1 : Nat) (y2 : State), y2.canonical → (flashUnits c y0 y1 y2).1.canonical := by
  intro y0 y1 y2
  induction y0 generalizing y1 y2 with
  | zero =>
    intro h2; unfold flashUnits
    try dsimp only
    with_reducible repeat' first | assumption | apply ih | apply canonical_flashUnit | split
  | succ n ih =>
    intro h2; unfold flashUnits
    try dsimp only
    with_reducible repeat' first | assumption | apply ih | apply canonical_flashUnit | split

theorem canonical_nfRelease (c : FlashCmd) : ∀ (y0 : List RemoteReq) (y1 : State), y1.canonical → (nfRelease c y0 y1).canonical := by
  intro y0 y1
  induction y0 generalizing y1 with
  | nil =>
    intro h1; unfold nfRelease
    try dsimp only
    with_reducible repeat' first | assumption | apply ih | apply canonical_memWrite | split | simp only [canonical_mk, canon_fold, id_eq]
  | cons a l ih =>
    intro h1; unfold nfRelease
    try dsimp only
    with_reducible repeat' first | assumption | apply ih | apply canonical_memWrite | split | simp only [canonical_mk, canon_fold, id_eq]

theorem canonical_nfDrop (s : State) (c : FlashCmd) (h_s : s.canonical) : (nfDrop s c).canonical := by
  unfold nfDrop
  try dsimp only
  with_reducible repeat' first | assumption | apply canonical_tagsFree | simp only [canonical_mk, canon_fold, id_eq]

theorem canonical_flashComplete (s : State) (k : Nat) (h_s : s.canonical) : (flashComplete s k).canonical := by
  unfold flashComplete
  try dsimp only
  with_reducible repeat' first | assumption | apply canonical_flashUnits | apply canonical_flashEnd | apply canonical_nfDrop | split

theorem canonical_flashPart (behind : Bool) (s : State) (c : FlashCmd) (h_s : s.canonical) : (flashPart behind s c).canonical := by
  unfold flashPart
  try dsimp only
  with_reducible repeat' first | assumption | apply canonical_State_draw | apply canonical_flashUnits | split

theorem canonical_flashAbort (behind : Bool) (s : State) (c : FlashCmd) (h_s : s.canonical) : (flashAbort behind s c).canonical := by
  unfold flashAbort
  try dsimp only
  with_reducible repeat' first | assumption | apply canonical_flashEnd | apply canonical_nfDrop | apply canonical_flashPart

theorem canonical_setKey (s : State) (k : Nat) (key : List Byte) (owner : Option Nat) (h_s : s.canonical) : (setKey s k key owner).canonical := by
  unfold setKey
  try dsimp only
  with_reducible repeat' first | assumption | apply canonical_State_setReg | simp only [canonical_mk, canon_fold, id_eq]

theorem canonical_readBlob (s : State) (a : Nat) (h_s : s.canonical) : (readBlob s a).1.canonical := by
  unfold readBlob
  try dsimp only
  with_reducible repeat' first | assumption | apply canonical_memRead

theorem canonical_keyInstall (s : State) (k c blob : Nat) (h_s : s.canonical) : (keyInstall s k c blob).canonical := by
  unfold keyInstall
  try dsimp only
  with_reducible repeat' first | assumption | apply canonical_readBlob | apply canonical_State_setFld64 | apply canonical_setKey | split

theorem canonical_keyErase (s : State) (k : Nat) (h_s : s.canonical) : (keyErase s k).canonical := by
  unfold keyErase
  try dsimp only
  with_reducible repeat' first | assumption | apply canonical_State_setFld64 | apply canonical_eraseKey | split

theorem canonical_kcmdWrite (s : State) (a : Acc) (v : Nat) (h_s : s.canonical) : (kcmdWrite s a v).canonical := by
  unfold kcmdWrite
  try dsimp only
  with_reducible repeat' first | assumption | apply canonical_State_setReg64 | apply canonical_keyInstall | apply canonical_keyErase | split

theorem canonical_closeSession (s : State) (k : Nat) (h_s : s.canonical) : (closeSession s k).canonical := by
  unfold closeSession
  try dsimp only
  with_reducible repeat' first | assumption | apply canonical_State_setReg | simp only [canonical_mk, canon_fold, id_eq]

theorem canonical_modelRej (s : State) (err : Nat) (h_s : s.canonical) : (modelRej s err).canonical := by
  unfold modelRej
  try dsimp only
  with_reducible repeat' first | assumption | apply canonical_State_setFld

theorem canonical_modelUnload (s : State) (h_s : s.canonical) : (modelUnload s).canonical := by
  unfold modelUnload
  try dsimp only
  with_reducible repeat' first | assumption | apply canonical_modelRej | apply canonical_eraseKey | apply canonical_closeSession | apply canonical_flashAbort | apply canonical_State_setFld | apply canonical_foldl | split | simp only [canonical_mk, canon_fold, id_eq] | intro _

theorem canonical_modelLoad (s : State) (h_s : s.canonical) : (modelLoad s).canonical := by
  unfold modelLoad
  try dsimp only
  with_reducible repeat' first | assumption | apply canonical_modelRej | apply canonical_readBlob | apply canonical_State_setFld | split | simp only [canonical_mk, canon_fold, id_eq]

theorem canonical_modelWrite (s : State) (v : Nat) (h_s : s.canonical) : (modelWrite s v).canonical := by
  unfold modelWrite
  try dsimp only
  with_reducible repeat' first | assumption | apply canonical_State_setFld | apply canonical_modelUnload | apply canonical_modelLoad | split

theorem canonical_modelComplete (s : State) (h_s : s.canonical) : (modelComplete s).canonical := by
  unfold modelComplete
  try dsimp only
  with_reducible repeat' first | assumption | apply canonical_State_setReg | apply canonical_State_setFld | apply canonical_State_raiseIrq | apply canonical_setKey | apply canonical_foldl | split | simp only [canonical_mk, canon_fold, id_eq] | intro _

theorem canonical_setSlipState (s : State) (n v : Nat) (h_s : s.canonical) : (setSlipState s n v).canonical := by
  unfold setSlipState
  try dsimp only
  with_reducible repeat' first | assumption | apply canonical_State_setFld

theorem canonical_setSlip (s : State) (n : Nat) (x : Slip) (h_s : s.canonical) : (setSlip s n x).canonical := by
  unfold setSlip
  try dsimp only
  with_reducible repeat' first | assumption | simp only [canonical_mk, canon_fold, id_eq]

theorem canonical_modSlip (s : State) (n : Nat) (f : Slip → Slip) (h_s : s.canonical) : (modSlip s n f).canonical := by
  unfold modSlip
  try dsimp only
  with_reducible repeat' first | assumption | apply canonical_setSlip

theorem canonical_emit (s : State) (n : Nat) (b : List Byte) (h_s : s.canonical) : (emit s n b).canonical := by
  unfold emit
  try dsimp only
  with_reducible repeat' first | assumption | simp only [canonical_mk, canon_fold, id_eq]

theorem canonical_emitData (s : State) (n seq : Nat) (f : Flit) (h_s : s.canonical) : (emitData s n seq f).canonical := by
  unfold emitData
  try dsimp only
  with_reducible repeat' first | assumption | apply canonical_emit

theorem canonical_emitLink (s : State) (n type : Nat) (credit : Option (Nat × Bool)) (route : Nat) (h_s : s.canonical) : (emitLink s n type credit route).canonical := by
  unfold emitLink
  try dsimp only
  with_reducible repeat' first | assumption | apply canonical_emit

theorem canonical_freeBuffers (s : State) (n vc : Nat) (rsp : Bool) (k : Nat) (h_s : s.canonical) : (freeBuffers s n vc rsp k).canonical := by
  unfold freeBuffers
  try dsimp only
  with_reducible repeat' first | assumption | apply canonical_emit | apply canonical_modSlip | split

theorem canonical_sendCut (n : Nat) (s : State) (k : Nat) (h_s : s.canonical) : (sendCut n s k).canonical := by
  unfold sendCut
  try dsimp only
  with_reducible repeat' first | assumption | apply canonical_emitLink | apply canonical_modSlip | split

theorem canonical_payOwed (s : State) (n : Nat) (h_s : s.canonical) : (payOwed s n).canonical := by
  unfold payOwed
  try dsimp only
  with_reducible repeat' first | assumption | apply canonical_sendCut | apply canonical_freeBuffers | apply canonical_modSlip | apply canonical_foldl | intro _

theorem canonical_sendFlit (s : State) (n : Nat) (f : Flit) (h_s : s.canonical) : (sendFlit s n f).canonical := by
  unfold sendFlit
  try dsimp only
  with_reducible repeat' first | assumption | apply canonical_setSlip | apply canonical_emitData | apply canonical_State_count | apply canonical_freeBuffers | split

theorem canonical_spend (n vc : Nat) : ∀ (y0 : Nat) (y1 : State), y1.canonical → (spend n vc y0 y1).canonical := by
  intro y0 y1
  induction y0 generalizing y1 with
  | zero =>
    intro h1; unfold spend
    try dsimp only
    with_reducible repeat' first | assumption | apply ih | apply canonical_sendFlit | split
  | succ n ih =>
    intro h1; unfold spend
    try dsimp only
    with_reducible repeat' first | assumption | apply ih | apply canonical_sendFlit | split

theorem canonical_turn (n : Nat) (s : State) (vc : Nat) (h_s : s.canonical) : (turn n s vc).canonical := by
  unfold turn
  try dsimp only
  with_reducible repeat' first | assumption | apply canonical_modSlip | apply canonical_spend | split

theorem canonical_pumpFuel (n : Nat) : ∀ (y0 : Nat) (y1 : State), y1.canonical → (pumpFuel n y0 y1).canonical := by
  intro y0 y1
  induction y0 generalizing y1 with
  | zero =>
    intro h1; unfold pumpFuel
    try dsimp only
    with_reducible repeat' first | assumption | apply ih | apply canonical_turn | apply canonical_spend | apply canonical_foldl | split
  | succ n ih =>
    intro h1; unfold pumpFuel
    try dsimp only
    with_reducible repeat' first | assumption | apply ih | apply canonical_turn | apply canonical_spend | apply canonical_foldl | split

theorem canonical_pump (s : State) (n : Nat) (h_s : s.canonical) : (pump s n).canonical := by
  unfold pump
  try dsimp only
  with_reducible repeat' first | assumption | apply canonical_pumpFuel | split

theorem canonical_sendFlits (s : State) (n : Nat) (fs : List Flit) (h_s : s.canonical) : (sendFlits s n fs).canonical := by
  unfold sendFlits
  try dsimp only
  with_reducible repeat' first | assumption | apply canonical_pump | apply canonical_modSlip

theorem canonical_sendOn (s : State) (n : Nat) (m : Msg) (h_s : s.canonical) : (sendOn s n m).canonical := by
  unfold sendOn
  try dsimp only
  with_reducible repeat' first | assumption | apply canonical_sendFlits

theorem canonical_forwardFlit (s : State) (i p : Nat) (f : Flit) (h_s : s.canonical) : (forwardFlit s i p f).canonical := by
  unfold forwardFlit
  try dsimp only
  with_reducible repeat' first | assumption | apply canonical_sendFlits

theorem canonical_slipFail (s : State) (n reason : Nat) (h_s : s.canonical) : (slipFail s n reason).canonical := by
  unfold slipFail
  try dsimp only
  with_reducible repeat' first | assumption | apply canonical_setSlipState | apply canonical_State_setFld | apply canonical_modSlip | apply canonical_State_appendRecord

theorem canonical_slipDetect (s : State) (n : Nat) (h_s : s.canonical) : (slipDetect s n).canonical := by
  unfold slipDetect
  try dsimp only
  with_reducible repeat' first | assumption | apply canonical_modSlip | apply canonical_setSlipState

theorem canonical_detected (s : State) (n : Nat) (h_s : s.canonical) : (detected s n).canonical := by
  unfold detected
  try dsimp only
  with_reducible repeat' first | assumption | apply canonical_modSlip | apply canonical_setSlipState | split

theorem canonical_detectTimeout (s : State) (n : Nat) (h_s : s.canonical) : (detectTimeout s n).canonical := by
  unfold detectTimeout
  try dsimp only
  with_reducible repeat' first | assumption | apply canonical_slipFail | split

theorem canonical_fastEqDone (s : State) (n : Nat) (ok : Bool) (h_s : s.canonical) : (fastEqDone s n ok).canonical := by
  unfold fastEqDone
  try dsimp only
  with_reducible repeat' first | assumption | apply canonical_setSlipState | apply canonical_modSlip | split

theorem canonical_eqDone (s : State) (n : Nat) (ok : Bool) (h_s : s.canonical) : (eqDone s n ok).canonical := by
  unfold eqDone
  try dsimp only
  with_reducible repeat' first | assumption | apply canonical_setSlipState | apply canonical_slipFail | apply canonical_modSlip | split

theorem canonical_slipConfig (s : State) (n mine theirs order inv uid pslip peer : Nat) (h_s : s.canonical) : (slipConfig s n mine theirs order inv uid pslip peer).canonical := by
  unfold slipConfig
  try dsimp only
  with_reducible repeat' first | assumption | apply canonical_slipFail | apply canonical_modSlip | apply canonical_setSlipState | apply canonical_State_setReg | apply canonical_State_setReg64 | apply canonical_setSlip | apply canonical_State_appendRecord | split | simp only [canonical_mk, canon_fold, id_eq]

theorem canonical_redetect (s : State) (n : Nat) (h_s : s.canonical) : (redetect s n).canonical := by
  unfold redetect
  try dsimp only
  with_reducible repeat' first | assumption | apply canonical_slipDetect | split

theorem canonical_endForward (s : State) (n k p : Nat) (h_s : s.canonical) : (endForward s n k p).canonical := by
  unfold endForward
  try dsimp only
  with_reducible repeat' first | assumption | apply canonical_modSlip | apply canonical_sendCut | split

theorem canonical_endEgress (n : Nat) (s : State) (p : Nat) (h_s : s.canonical) : (endEgress n s p).canonical := by
  unfold endEgress
  try dsimp only
  with_reducible repeat' first | assumption | apply canonical_modSlip | apply canonical_sendCut | apply canonical_foldl | intro _

theorem canonical_endIngress (s : State) (n : Nat) (h_s : s.canonical) : (endIngress s n).canonical := by
  unfold endIngress
  try dsimp only
  with_reducible repeat' first | assumption | apply canonical_endEgress | apply canonical_foldl | simp only [canonical_mk, canon_fold, id_eq]

theorem canonical_dropForward (s : State) (p : Nat) (h_s : s.canonical) : (dropForward s p).canonical := by
  unfold dropForward
  try dsimp only
  with_reducible repeat' first | assumption | apply canonical_modSlip | apply canonical_foldl | intro _

theorem canonical_freeEgress (s : State) (n : Nat) (h_s : s.canonical) : (freeEgress s n).canonical := by
  unfold freeEgress
  try dsimp only
  with_reducible repeat' first | assumption | apply canonical_freeBuffers | apply canonical_foldl | split | intro _

theorem canonical_linkDown (s : State) (n cause : Nat) (h_s : s.canonical) : (linkDown s n cause).canonical := by
  unfold linkDown
  try dsimp only
  with_reducible repeat' first | assumption | apply canonical_setSlip | apply canonical_dropForward | apply canonical_freeEgress | apply canonical_endIngress | apply canonical_State_setFld | apply canonical_State_appendRecord | apply canonical_State_count | apply canonical_setSlipState | apply canonical_slipDetect | split

theorem canonical_retrain (s : State) (n : Nat) (h_s : s.canonical) : (retrain s n).canonical := by
  unfold retrain
  try dsimp only
  with_reducible repeat' first | assumption | apply canonical_linkDown | apply canonical_slipDetect | split

theorem canonical_disableSlip (s : State) (n : Nat) (h_s : s.canonical) : (disableSlip s n).canonical := by
  unfold disableSlip
  try dsimp only
  with_reducible repeat' first | assumption | apply canonical_linkDown | apply canonical_setSlipState | apply canonical_State_setFld | split

theorem canonical_enableSlip (s : State) (n : Nat) (h_s : s.canonical) : (enableSlip s n).canonical := by
  unfold enableSlip
  try dsimp only
  with_reducible repeat' first | assumption | apply canonical_State_setFld | apply canonical_slipDetect | split

theorem canonical_sendWake (s : State) (n : Nat) (h_s : s.canonical) : (sendWake s n).canonical := by
  unfold sendWake
  try dsimp only
  with_reducible repeat' first | assumption | split | simp only [canonical_mk, canon_fold, id_eq]

theorem canonical_slipCtlWrite (s : State) (n v : Nat) (h_s : s.canonical) : (slipCtlWrite s n v).canonical := by
  unfold slipCtlWrite
  try dsimp only
  with_reducible repeat' first | assumption | apply canonical_State_setReg | apply canonical_enableSlip | apply canonical_disableSlip | apply canonical_retrain | apply canonical_sendWake | split

theorem canonical_takeHeader (s : State) (n w : Nat) (h_s : s.canonical) : (takeHeader s n w).canonical := by
  unfold takeHeader
  try dsimp only
  with_reducible repeat' first | assumption | apply canonical_modSlip

theorem canonical_sendNak (s : State) (n : Nat) (h_s : s.canonical) : (sendNak s n).canonical := by
  unfold sendNak
  try dsimp only
  with_reducible repeat' first | assumption | apply canonical_emit | apply canonical_modSlip | apply canonical_State_count

theorem canonical_deliver (s : State) (m : Msg) (n : Nat) (h_s : s.canonical) : (deliver s m n).canonical := by
  unfold deliver
  try dsimp only
  with_reducible repeat' first | assumption | simp only [canonical_mk, canon_fold, id_eq]

theorem canonical_setIngress (s : State) (n : Nat) (f : Flit) (x : Ingress) (h_s : s.canonical) : (setIngress s n f x).canonical := by
  unfold setIngress
  try dsimp only
  with_reducible repeat' first | assumption | apply canonical_modSlip

theorem canonical_takeHead (s : State) (n : Nat) (f : Flit) (h_s : s.canonical) : (takeHead s n f).canonical := by
  unfold takeHead
  try dsimp only
  with_reducible repeat' first | assumption | apply canonical_deliver | apply canonical_setIngress | split | simp only [canonical_mk, canon_fold, id_eq]

theorem canonical_takeBody (s : State) (n : Nat) (f : Flit) (h_s : s.canonical) : (takeBody s n f).canonical := by
  unfold takeBody
  try dsimp only
  with_reducible repeat' first | assumption | apply canonical_setIngress | apply canonical_freeBuffers | apply canonical_deliver | apply canonical_forwardFlit | split | simp only [canonical_mk, canon_fold, id_eq]

theorem canonical_acceptFlit (s : State) (n : Nat) (b : List Byte) (h_s : s.canonical) : (acceptFlit s n b).canonical := by
  unfold acceptFlit
  try dsimp only
  with_reducible repeat' first | assumption | apply canonical_emitLink | apply canonical_modSlip | apply canonical_takeHead | apply canonical_takeBody | split

theorem canonical_passBad (s : State) (n : Nat) (b : List Byte) (h_s : s.canonical) : (passBad s n b).canonical := by
  unfold passBad
  try dsimp only
  with_reducible repeat' first | assumption | apply canonical_State_draw | apply canonical_emit | split

theorem canonical_dataFlit (s : State) (n : Nat) (b : List Byte) (h_s : s.canonical) : (dataFlit s n b).canonical := by
  unfold dataFlit
  try dsimp only
  with_reducible repeat' first | assumption | apply canonical_State_count | apply canonical_passBad | apply canonical_sendNak | apply canonical_takeHeader | apply canonical_pump | apply canonical_acceptFlit | split

theorem canonical_linkFlit (s : State) (n type : Nat) (b : List Byte) (go : State → State) (h_s : s.canonical) (h_go : ∀ x0, x0.canonical → (go x0).canonical) : (linkFlit s n type b go).canonical := by
  unfold linkFlit
  try dsimp only
  with_reducible repeat' first | assumption | apply h_go | apply canonical_State_count | apply canonical_pump | apply canonical_takeHeader | split

theorem canonical_idleFlit (s : State) (n : Nat) (b : List Byte) (h_s : s.canonical) : (idleFlit s n b).canonical := by
  unfold idleFlit
  try dsimp only
  with_reducible repeat' first | assumption | apply canonical_linkFlit | simp only [canonical_mk, canon_fold, id_eq] | intro _

theorem canonical_nakFlit (s : State) (n : Nat) (b : List Byte) (h_s : s.canonical) : (nakFlit s n b).canonical := by
  unfold nakFlit
  try dsimp only
  with_reducible repeat' first | assumption | apply canonical_linkFlit | apply canonical_setSlip | apply canonical_linkDown | apply canonical_emitData | apply canonical_foldl | split | intro _

theorem canonical_cutFlit (s : State) (n : Nat) (b : List Byte) (h_s : s.canonical) : (cutFlit s n b).canonical := by
  unfold cutFlit
  try dsimp only
  with_reducible repeat' first | assumption | apply canonical_linkFlit | apply canonical_endForward | apply canonical_freeBuffers | apply canonical_setIngress | apply canonical_State_count | split | simp only [canonical_mk, canon_fold, id_eq] | intro _

theorem canonical_toLp (s : State) (n : Nat) (h_s : s.canonical) : (toLp s n).canonical := by
  unfold toLp
  try dsimp only
  with_reducible repeat' first | assumption | apply canonical_modSlip | apply canonical_setSlipState

theorem canonical_lpReq (s : State) (n : Nat) (b : List Byte) (h_s : s.canonical) : (lpReq s n b).canonical := by
  unfold lpReq
  try dsimp only
  with_reducible repeat' first | assumption | apply canonical_linkFlit | apply canonical_toLp | apply canonical_emitLink | intro _

theorem canonical_lpAck (s : State) (n : Nat) (b : List Byte) (h_s : s.canonical) : (lpAck s n b).canonical := by
  unfold lpAck
  try dsimp only
  with_reducible repeat' first | assumption | apply canonical_linkFlit | apply canonical_toLp | split | intro _

theorem canonical_lpEnter (s : State) (h_s : s.canonical) : (lpEnter s).canonical := by
  unfold lpEnter
  try dsimp only
  with_reducible repeat' first | assumption | apply canonical_modSlip | apply canonical_emitLink | apply canonical_foldl | split | intro _

theorem canonical_originate (s : State) (m : Msg) (h_s : s.canonical) : (originate s m).canonical := by
  unfold originate
  try dsimp only
  with_reducible repeat' first | assumption | simp only [canonical_mk, canon_fold, id_eq]

theorem canonical_answerError (s : State) (m : Msg) (n code : Nat) (h_s : s.canonical) : (answerError s m n code).canonical := by
  unfold answerError
  try dsimp only
  with_reducible repeat' first | assumption | apply canonical_deliver | apply canonical_originate | split

theorem canonical_noteDiscard (s : State) (m : Msg) (d code : Nat) (h_s : s.canonical) : (noteDiscard s m d code).canonical := by
  unfold noteDiscard
  try dsimp only
  with_reducible repeat' first | assumption | apply canonical_State_count | apply canonical_State_appendRecord | split | simp only [canonical_mk, canon_fold, id_eq]

theorem canonical_discard (s : State) (m : Msg) (n code : Nat) (h_s : s.canonical) : (discard s m n code).canonical := by
  unfold discard
  try dsimp only
  with_reducible repeat' first | assumption | apply canonical_noteDiscard | apply canonical_answerError | split

theorem canonical_settleTransit (s : State) (x : Transit) (goes : Onward) (h_s : s.canonical) : (settleTransit s x goes).canonical := by
  unfold settleTransit
  try dsimp only
  with_reducible repeat' first | assumption | apply canonical_setIngress | split

theorem canonical_routeOut (s : State) (x : Transit) (p : Nat) (h_s : s.canonical) : (routeOut s x p).canonical := by
  unfold routeOut
  try dsimp only
  with_reducible repeat' first | assumption | apply canonical_sendOn | apply canonical_settleTransit | apply canonical_forwardFlit | apply canonical_foldl | split | intro _

theorem canonical_routeHere (s : State) (x : Transit) (h_s : s.canonical) : (routeHere s x).canonical := by
  unfold routeHere
  try dsimp only
  with_reducible repeat' first | assumption | apply canonical_deliver | apply canonical_settleTransit | split

theorem canonical_routeAway (s : State) (x : Transit) (h_s : s.canonical) : (routeAway s x).canonical := by
  unfold routeAway
  try dsimp only
  with_reducible repeat' first | assumption | apply canonical_settleTransit | apply canonical_freeBuffers

theorem canonical_route (s : State) (x : Transit) (h_s : s.canonical) : (route s x).canonical := by
  unfold route
  try dsimp only
  with_reducible repeat' first | assumption | apply canonical_discard | apply canonical_routeAway | apply canonical_routeHere | apply canonical_answerError | apply canonical_routeOut | split

theorem canonical_routeNext (s : State) (h_s : s.canonical) : (routeNext s).canonical := by
  unfold routeNext
  try dsimp only
  with_reducible repeat' first | assumption | apply canonical_route | split | simp only [canonical_mk, canon_fold, id_eq]

theorem canonical_takeInbox {s t : State} {p : Msg → Bool} {m : Msg} {n : Nat} (h : s.canonical) (eq : takeInbox s p = some (m, n, t)) :
    t.canonical := by
  unfold takeInbox at eq
  split at eq
  · cases eq
  · split at eq
    · cases eq
    · injection eq with eq; injection eq with _ eq; injection eq with _ eq; subst eq; exact h

theorem canonical_onInbox (s : State) (p : Msg → Bool) (go : State → Msg → Nat → State) (h_s : s.canonical)
    (h_go : ∀ x0 x1 x2, x0.canonical → (go x0 x1 x2).canonical) : (onInbox s p go).canonical := by
  unfold onInbox
  split
  · exact h_s
  · split
    · exact h_s
    · exact h_go _ _ _ (canonical_freeBuffers _ _ _ _ _ (canonical_takeInbox h_s (by assumption)))

theorem canonical_onRequest (s : State) (p : Msg → Bool) (go : State → Msg → Nat → State) (h_s : s.canonical) (h_go : ∀ x0 x1 x2, x0.canonical → (go x0 x1 x2).canonical) : (onRequest s p go).canonical := by
  unfold onRequest
  try dsimp only
  with_reducible repeat' first | assumption | apply canonical_onInbox | split

theorem canonical_serveRd (s : State) (m : Msg) (_n : Nat) (h_s : s.canonical) : (serveRd s m _n).canonical := by
  unfold serveRd
  try dsimp only
  with_reducible repeat' first | assumption | apply canonical_originate | apply canonical_memRead | split

theorem canonical_serveWr (s : State) (m : Msg) (_n : Nat) (h_s : s.canonical) : (serveWr s m _n).canonical := by
  unfold serveWr
  try dsimp only
  with_reducible repeat' first | assumption | apply canonical_originate | apply canonical_memWrite | split

theorem canonical_serveAddw (s : State) (m : Msg) (_n : Nat) (h_s : s.canonical) : (serveAddw s m _n).canonical := by
  unfold serveAddw
  try dsimp only
  with_reducible repeat' first | assumption | apply canonical_originate | apply canonical_addElements | split

theorem canonical_serveAtom (s : State) (m : Msg) (_n : Nat) (h_s : s.canonical) : (serveAtom s m _n).canonical := by
  unfold serveAtom
  try dsimp only
  with_reducible repeat' first | assumption | apply canonical_originate | apply canonical_adderOp | split

theorem canonical_stale (s : State) (n : Nat) (h_s : s.canonical) : (stale s n).canonical := by
  unfold stale
  try dsimp only
  with_reducible repeat' first | assumption | apply canonical_State_count

theorem canonical_modReqs (s : State) (p : RemoteReq → Bool) (f : RemoteReq → RemoteReq) (h_s : s.canonical) : (modReqs s p f).canonical := by
  unfold modReqs
  try dsimp only
  with_reducible repeat' first | assumption | simp only [canonical_mk, canon_fold, id_eq]

theorem canonical_takeRsp (s : State) (m : Msg) (n : Nat) (h_s : s.canonical) : (takeRsp s m n).canonical := by
  unfold takeRsp
  try dsimp only
  with_reducible repeat' first | assumption | apply canonical_tagsFree | apply canonical_modReqs | apply canonical_stale | split

theorem canonical_serveNfetch (s : State) (m : Msg) (_n : Nat) (h_s : s.canonical) : (serveNfetch s m _n).canonical := by
  unfold serveNfetch
  try dsimp only
  with_reducible repeat' first | assumption | apply canonical_originate | apply canonical_memRead | split | simp only [canonical_mk, canon_fold, id_eq]

theorem canonical_takeNfetch (s : State) (m : Msg) (n : Nat) (h_s : s.canonical) : (takeNfetch s m n).canonical := by
  unfold takeNfetch
  try dsimp only
  with_reducible repeat' first | assumption | apply canonical_stale | apply canonical_modReqs | apply canonical_tagsFree | apply canonical_nfRelease | split

theorem canonical_setStep (s : State) (x : CStep) (h_s : s.canonical) : (setStep s x).canonical := by
  unfold setStep
  try dsimp only
  with_reducible repeat' first | assumption | simp only [canonical_mk, canon_fold, id_eq]

theorem canonical_showSteps (s : State) (h_s : s.canonical) : (showSteps s).canonical := by
  unfold showSteps
  try dsimp only
  with_reducible repeat' first | assumption | apply canonical_State_setFld | apply canonical_foldl | intro _

theorem canonical_collSend (s : State) (x : CStep) (peer kind who off cred : Nat) (data : List Byte) (h_s : s.canonical) : (collSend s x peer kind who off cred data).canonical := by
  unfold collSend
  try dsimp only
  with_reducible repeat' first | assumption | apply canonical_startRequest

theorem canonical_undefine (s : State) (a n : Nat) (h_s : s.canonical) : (undefine s a n).canonical := by
  unfold undefine
  try dsimp only
  with_reducible repeat' first | assumption | apply canonical_noteStore | apply canonical_putPlace | apply canonical_foldl | split | simp only [canonical_mk, canon_fold, id_eq] | intro _

theorem canonical_failMarks (s : State) (g reason missr : Nat) (h_s : s.canonical) : (failMarks s g reason missr).canonical := by
  unfold failMarks
  try dsimp only
  with_reducible repeat' first | assumption | apply canonical_State_setFld | apply canonical_State_count | split

theorem canonical_collTrap (s : State) (e id c g aux step : Nat) (h_s : s.canonical) : (collTrap s e id c g aux step).canonical := by
  unfold collTrap
  try dsimp only
  with_reducible repeat' first | assumption | apply canonical_State_appendRecord | apply canonical_dropEntry | apply canonical_settleQueue | apply canonical_drain | apply canonical_State_raiseTrap | split

theorem canonical_failStep (s : State) (x : CStep) (reason missr : Nat) (h_s : s.canonical) : (failStep s x reason missr).canonical := by
  unfold failStep
  try dsimp only
  with_reducible repeat' first | assumption | apply canonical_collSend | apply canonical_undefine | apply canonical_failMarks | apply canonical_showSteps | apply canonical_collTrap | apply canonical_foldl | simp only [canonical_mk, canon_fold, id_eq] | intro _

theorem canonical_collPump (x : CStep) (l kept : List CSend) (s : State) (h : s.canonical) :
    (collPump x l kept s).1.canonical := by
  induction l generalizing x kept s with
  | nil => exact h
  | cons d t ih =>
    unfold collPump
    refine canonical_ite_fst (ih _ _ _ h) ?_
    have hr : (match d.addr with
        | some a => memRead s (x.req s) a d.len
        | none => (s, .ok, d.data)).1.canonical := by
      split
      · exact canonical_memRead _ _ _ _ h
      · exact h
    refine canonical_ite_fst hr (ih _ _ _ ?_)
    split
    · exact canonical_collSend _ _ _ _ _ _ _ _ (canonical_collSend _ _ _ _ _ _ _ _ hr)
    · exact canonical_collSend _ _ _ _ _ _ _ _ hr

theorem canonical_collGo (s : State) (x : CStep) (h_s : s.canonical) : (collGo s x).canonical := by
  unfold collGo
  try dsimp only
  with_reducible repeat' first | assumption | apply canonical_collPump | apply canonical_setStep | apply canonical_failStep | split

theorem canonical_landFinal (s : State) (x : CStep) (off : Nat) (bs : List Byte) (h_s : s.canonical) : (landFinal s x off bs).1.canonical := by
  unfold landFinal
  try dsimp only
  with_reducible repeat' first | assumption | apply canonical_memWrite | split

theorem canonical_giveCredit (s : State) (x : CStep) (j : Nat) (h_s : s.canonical) : (giveCredit s x j).canonical := by
  unfold giveCredit
  try dsimp only
  with_reducible repeat' first | assumption | apply canonical_collSend

theorem canonical_takeData (s : State) (x : CStep) (m : Msg) (h_s : s.canonical) : (takeData s x m).1.canonical := by
  unfold takeData
  try dsimp only
  with_reducible repeat' first | assumption | apply canonical_landFinal | split

theorem canonical_foldPiece (s : State) (x : CStep) (off n : Nat) (h_s : s.canonical) : (foldPiece s x off n).1.canonical := by
  unfold foldPiece
  try dsimp only
  with_reducible repeat' first | assumption | apply canonical_memRead | split

theorem canonical_takeDirect (s : State) (x : CStep) (m : Msg) (h_s : s.canonical) : (takeDirect s x m).1.canonical := by
  unfold takeDirect
  try dsimp only
  with_reducible repeat' first | assumption | apply canonical_foldPiece | apply canonical_landFinal | apply canonical_giveCredit | apply canonical_foldl | split | intro _

theorem canonical_takeRing (s : State) (x : CStep) (m : Msg) (h_s : s.canonical) : (takeRing s x m).1.canonical := by
  unfold takeRing
  try dsimp only
  with_reducible repeat' first | assumption | apply canonical_memRead | apply canonical_landFinal | apply canonical_giveCredit | split

theorem canonical_stepMsg (s : State) (x : CStep) (m : Msg) (h_s : s.canonical) : (stepMsg s x m).canonical := by
  unfold stepMsg
  try dsimp only
  with_reducible repeat' first | assumption | apply canonical_failStep | apply canonical_takeData | apply canonical_takeRing | apply canonical_takeDirect | apply canonical_collGo | split

theorem canonical_collAck (s : State) (m : Msg) (h_s : s.canonical) : (collAck s m).canonical := by
  unfold collAck
  try dsimp only
  with_reducible repeat' first | assumption | apply canonical_originate

theorem canonical_staleEpoch (s : State) (m : Msg) (h_s : s.canonical) : (staleEpoch s m).canonical := by
  unfold staleEpoch
  try dsimp only
  with_reducible repeat' first | assumption | apply canonical_collAck | apply canonical_State_count | apply canonical_State_appendRecord | split | simp only [canonical_mk, canon_fold, id_eq]

theorem canonical_collMsg (s : State) (m : Msg) (_n : Nat) (h_s : s.canonical) : (collMsg s m _n).canonical := by
  unfold collMsg
  try dsimp only
  with_reducible repeat' first | assumption | apply canonical_staleEpoch | apply canonical_collAck | apply canonical_State_setFld | apply canonical_failStep | apply canonical_stepMsg | apply canonical_State_count | split | simp only [canonical_mk, canon_fold, id_eq]

theorem canonical_collBad (s : State) (m : Msg) (_n : Nat) (h_s : s.canonical) : (collBad s m _n).canonical := by
  unfold collBad
  try dsimp only
  with_reducible repeat' first | assumption | apply canonical_State_count

theorem canonical_takeAck (s : State) (m : Msg) (n : Nat) (h_s : s.canonical) : (takeAck s m n).canonical := by
  unfold takeAck
  try dsimp only
  with_reducible repeat' first | assumption | apply canonical_stale | apply canonical_tagsFree | apply canonical_failStep | split | simp only [canonical_mk, canon_fold, id_eq]

theorem canonical_requestTimeout (s : State) (tag : Nat) (h_s : s.canonical) : (requestTimeout s tag).canonical := by
  unfold requestTimeout
  try dsimp only
  with_reducible repeat' first | assumption | apply canonical_tagsFree | apply canonical_failStep | apply canonical_modReqs | split | simp only [canonical_mk, canon_fold, id_eq]

theorem canonical_failStart (s : State) (e : Nat) (x : SkEntry) (reason : Nat) (h_s : s.canonical) : (failStart s e x reason).canonical := by
  unfold failStart
  try dsimp only
  with_reducible repeat' first | assumption | apply canonical_failMarks | apply canonical_collTrap

theorem canonical_sendReady (s : State) (x : CStep) (room j : Nat) (h_s : s.canonical) : (sendReady s x room j).canonical := by
  unfold sendReady
  try dsimp only
  with_reducible repeat' first | assumption | apply canonical_collSend | apply canonical_foldl | intro _

theorem canonical_ownBlock (s : State) (x : CStep) (h_s : s.canonical) : (ownBlock s x).1.canonical := by
  unfold ownBlock
  try dsimp only
  with_reducible repeat' first | assumption | apply canonical_memRead | apply canonical_landFinal | split

theorem canonical_stepBegin (s : State) (x : CStep) (h_s : s.canonical) : (stepBegin s x).canonical := by
  unfold stepBegin
  try dsimp only
  with_reducible repeat' first | assumption | apply canonical_State_setFld | apply canonical_modEntry | apply canonical_failStep | apply canonical_ownBlock | apply canonical_sendReady | apply canonical_setStep | apply canonical_stepMsg | apply canonical_foldl | split | simp only [canonical_mk, canon_fold, id_eq] | intro _

theorem canonical_collStart (s : State) (e : Nat) (x : SkEntry) (h_s : s.canonical) : (collStart s e x).canonical := by
  unfold collStart
  try dsimp only
  with_reducible repeat' first | assumption | apply canonical_showSteps | apply canonical_failStart | apply canonical_memRead | apply canonical_stepBegin | split | simp only [canonical_mk, canon_fold, id_eq]

theorem canonical_collStartNext (s : State) (e : Nat) (h_s : s.canonical) : (collStartNext s e).canonical := by
  unfold collStartNext
  try dsimp only
  with_reducible repeat' first | assumption | apply canonical_collStart | split

theorem canonical_collComplete (s : State) (d k : Nat) (h_s : s.canonical) : (collComplete s d k).canonical := by
  unfold collComplete
  try dsimp only
  with_reducible repeat' first | assumption | apply canonical_State_setFld | apply canonical_State_count | apply canonical_State_tally | apply canonical_showSteps | apply canonical_drain | apply canonical_completeEntry | split | simp only [canonical_mk, canon_fold, id_eq]

theorem canonical_collTimeout (s : State) (d k : Nat) (h_s : s.canonical) : (collTimeout s d k).canonical := by
  unfold collTimeout
  try dsimp only
  with_reducible repeat' first | assumption | apply canonical_failStep | split

theorem canonical_collTeardown (s : State) (c : Nat) (h_s : s.canonical) : (collTeardown s c).canonical := by
  unfold collTeardown
  try dsimp only
  with_reducible repeat' first | assumption | apply canonical_showSteps | apply canonical_failStep | apply canonical_foldl | simp only [canonical_mk, canon_fold, id_eq] | intro _

theorem canonical_colRej (s : State) (h_s : s.canonical) : (colRej s).canonical := by
  unfold colRej
  try dsimp only
  with_reducible repeat' first | assumption | apply canonical_State_setFld

theorem canonical_colCfgPut (s : State) (g w : Nat) (same : Bool) (h_s : s.canonical) : (colCfgPut s g w same).canonical := by
  unfold colCfgPut
  try dsimp only
  with_reducible repeat' first | assumption | apply canonical_colRej | apply canonical_failStep | apply canonical_State_setReg64 | apply canonical_State_setFld | split | simp only [canonical_mk, canon_fold, id_eq]

theorem canonical_colCfgWrite (s : State) (g : Nat) (a : Acc) (v : Nat) (h_s : s.canonical) : (colCfgWrite s g a v).canonical := by
  unfold colCfgWrite
  try dsimp only
  with_reducible repeat' first | assumption | apply canonical_colCfgPut

theorem canonical_colMemWrite (s : State) (g : Nat) (a : Acc) (v : Nat) (h_s : s.canonical) : (colMemWrite s g a v).canonical := by
  unfold colMemWrite
  try dsimp only
  with_reducible repeat' first | assumption | apply canonical_colRej | apply canonical_State_setReg64 | split

theorem canonical_colActiveWrite (s : State) (v : Nat) (h_s : s.canonical) : (colActiveWrite s v).canonical := by
  unfold colActiveWrite
  try dsimp only
  with_reducible repeat' first | assumption | apply canonical_colRej | apply canonical_State_setFld | split

theorem canonical_plainRead (s : State) (off : Nat) (h_s : s.canonical) : (plainRead s off).1.canonical := by
  unfold plainRead
  try dsimp only
  with_reducible repeat' first | assumption | apply canonical_State_setReg | split | simp only [canonical_mk, canon_fold, id_eq]

theorem canonical_plainWrite (s : State) (off v : Nat) (h_s : s.canonical) : (plainWrite s off v).canonical := by
  unfold plainWrite
  try dsimp only
  with_reducible repeat' first | assumption | apply canonical_State_setReg | split

theorem canonical_plainWriteAcc (s : State) (off : Nat) (a : Acc) (v : Nat) (h_s : s.canonical) : (plainWriteAcc s off a v).canonical := by
  unfold plainWriteAcc
  try dsimp only
  with_reducible repeat' first | assumption | apply canonical_plainWrite | split

theorem canonical_ringCtlWrite (s : State) (off v : Nat) (h_s : s.canonical) : (ringCtlWrite s off v).canonical := by
  unfold ringCtlWrite
  try dsimp only
  with_reducible repeat' first | assumption | apply canonical_plainWrite

theorem canonical_leavePath (s : State) (m : Msg) (h_s : s.canonical) : (leavePath s m).canonical := by
  unfold leavePath
  try dsimp only
  with_reducible repeat' first | assumption | apply canonical_sendOn | split

theorem canonical_pathExpired (s : State) (m : Msg) (n : Nat) (h_s : s.canonical) : (pathExpired s m n).canonical := by
  unfold pathExpired
  try dsimp only
  with_reducible repeat' first | assumption | apply canonical_noteDiscard | apply canonical_leavePath | split

theorem canonical_sendPath (s : State) (m : Msg) (h_s : s.canonical) : (sendPath s m).canonical := by
  unfold sendPath
  try dsimp only
  with_reducible repeat' first | assumption | apply canonical_pathExpired | apply canonical_leavePath | split

theorem canonical_takeProbe (s : State) (m0 : Msg) (n : Nat) (h_s : s.canonical) : (takeProbe s m0 n).canonical := by
  unfold takeProbe
  try dsimp only
  with_reducible repeat' first | assumption | apply canonical_pathExpired | apply canonical_sendOn | apply canonical_sendPath | apply canonical_foldl | split | simp only [canonical_mk, canon_fold, id_eq] | intro _

theorem canonical_takeReply (s : State) (m0 : Msg) (n : Nat) (h_s : s.canonical) : (takeReply s m0 n).canonical := by
  unfold takeReply
  try dsimp only
  with_reducible repeat' first | assumption | apply canonical_sendPath | apply canonical_memWrite | apply canonical_State_setFld | split

theorem canonical_sendSourceRouted (s : State) (d : Nat) (h_s : s.canonical) : (sendSourceRouted s d).canonical := by
  unfold sendSourceRouted
  try dsimp only
  with_reducible repeat' first | assumption | apply canonical_memRead | apply canonical_sendPath | split

theorem canonical_srMsgWrite (s : State) (d : Nat) (a : Acc) (v : Nat) (h_s : s.canonical) : (srMsgWrite s d a v).canonical := by
  unfold srMsgWrite
  try dsimp only
  with_reducible repeat' first | assumption | apply canonical_State_setReg64 | apply canonical_sendSourceRouted | split

theorem canonical_fabCtlWrite (s : State) (v : Nat) (h_s : s.canonical) : (fabCtlWrite s v).canonical := by
  unfold fabCtlWrite
  try dsimp only
  with_reducible repeat' first | assumption | apply canonical_plainWrite

theorem canonical_linkWrite (s : State) (off : Nat) (a : Acc) (v : Nat) (h_s : s.canonical) : (linkWrite s off a v).canonical := by
  unfold linkWrite
  try dsimp only
  with_reducible repeat' first | assumption | apply canonical_fabCtlWrite | apply canonical_srMsgWrite | apply canonical_plainWriteAcc | apply canonical_State_setFld | apply canonical_slipCtlWrite | apply canonical_colActiveWrite | apply canonical_colCfgWrite | apply canonical_colMemWrite | split

theorem canonical_linkWrite32 (s : State) (off v : Nat) (h_s : s.canonical) : (linkWrite32 s off v).canonical := by
  unfold linkWrite32
  try dsimp only
  with_reducible repeat' first | assumption | apply canonical_linkWrite | split

theorem canonical_cfgMsg (s : State) (m0 : Msg) (n : Nat) (go : State → Msg → State) (h_s : s.canonical) (h_go : ∀ x0 x1, x0.canonical → (go x0 x1).canonical) : (cfgMsg s m0 n go).canonical := by
  unfold cfgMsg
  try dsimp only
  with_reducible repeat' first | assumption | apply h_go | apply canonical_sendPath | split

theorem canonical_takeCfgRd (s : State) (m : Msg) (n : Nat) (h_s : s.canonical) : (takeCfgRd s m n).canonical := by
  unfold takeCfgRd
  try dsimp only
  with_reducible repeat' first | assumption | apply canonical_cfgMsg | apply canonical_plainRead | apply canonical_sendPath | split | intro _

theorem canonical_takeCfgWr (s : State) (m : Msg) (n : Nat) (h_s : s.canonical) : (takeCfgWr s m n).canonical := by
  unfold takeCfgWr
  try dsimp only
  with_reducible repeat' first | assumption | apply canonical_cfgMsg | apply canonical_State_appendRecord | apply canonical_sendPath | apply canonical_linkWrite32 | split | intro _

theorem canonical_showSlot (s : State) (n : Nat) (h_s : s.canonical) : (showSlot s n).canonical := by
  unfold showSlot
  try dsimp only
  with_reducible repeat' first | assumption | apply canonical_State_setReg | split

theorem canonical_setCslot (s : State) (n : Nat) (x : CSlot) (h_s : s.canonical) : (setCslot s n x).canonical := by
  unfold setCslot
  try dsimp only
  with_reducible repeat' first | assumption | apply canonical_showSlot | simp only [canonical_mk, canon_fold, id_eq]

theorem canonical_modJob (s : State) (i : Nat) (f : CJob → CJob) (h_s : s.canonical) : (modJob s i f).canonical := by
  unfold modJob
  try dsimp only
  with_reducible repeat' first | assumption | simp only [canonical_mk, canon_fold, id_eq]

theorem canonical_endWith (s : State) (i stat res0 bytes : Nat) (record : Bool) (h_s : s.canonical) : (endWith s i stat res0 bytes record).canonical := by
  unfold endWith
  try dsimp only
  with_reducible repeat' first | assumption | apply canonical_State_draw | apply canonical_modJob

theorem canonical_endJob (s : State) (i stat : Nat) (record : Bool) (h_s : s.canonical) : (endJob s i stat record).canonical := by
  unfold endJob
  try dsimp only
  with_reducible repeat' first | assumption | apply canonical_endWith

theorem canonical_jobRead (s : State) (h_s : s.canonical) : (jobRead s).canonical := by
  unfold jobRead
  try dsimp only
  with_reducible repeat' first | assumption | apply canonical_memRead | apply canonical_endJob | split | simp only [canonical_mk, canon_fold, id_eq]

theorem canonical_jobComplete (s : State) (k : Nat) (h_s : s.canonical) : (jobComplete s k).canonical := by
  unfold jobComplete
  try dsimp only
  with_reducible repeat' first | assumption | apply canonical_memWrite | apply canonical_State_appendRecord | apply canonical_State_count | apply canonical_State_setFld | apply canonical_hubSignal | apply canonical_State_raiseIrq | split | simp only [canonical_mk, canon_fold, id_eq]

theorem canonical_onJob (s : State) (op : Nat) (go : State → CJob → State) (h_s : s.canonical) (h_go : ∀ x0 x1, x0.canonical → (go x0 x1).canonical) : (onJob s op go).canonical := by
  unfold onJob
  try dsimp only
  with_reducible repeat' first | assumption | apply h_go | split

theorem canonical_codecOpen (s : State) (j : CJob) (h_s : s.canonical) : (codecOpen s j).canonical := by
  unfold codecOpen
  try dsimp only
  with_reducible repeat' first | assumption | apply canonical_endJob | apply canonical_memRead | apply canonical_setCslot | split

theorem canonical_codecRelease (s : State) (j : CJob) (h_s : s.canonical) : (codecRelease s j).canonical := by
  unfold codecRelease
  try dsimp only
  with_reducible repeat' first | assumption | apply canonical_endJob | apply canonical_setCslot | split

theorem canonical_abortQueued (s : State) (slot : Nat) (but : Option Nat) (h_s : s.canonical) : (abortQueued s slot but).canonical := by
  unfold abortQueued
  try dsimp only
  with_reducible repeat' first | assumption | apply canonical_endJob | apply canonical_foldl | intro _

theorem canonical_quietFrames (s : State) (slot : Nat) (h_s : s.canonical) : (quietFrames s slot).canonical := by
  unfold quietFrames
  try dsimp only
  with_reducible repeat' first | assumption | simp only [canonical_mk, canon_fold, id_eq]

theorem canonical_codecClose (s : State) (j : CJob) (h_s : s.canonical) : (codecClose s j).canonical := by
  unfold codecClose
  try dsimp only
  with_reducible repeat' first | assumption | apply canonical_endJob | apply canonical_abortQueued | apply canonical_setCslot | split

theorem canonical_codecTeardown (s : State) (c : Nat) (h_s : s.canonical) : (codecTeardown s c).canonical := by
  unfold codecTeardown
  try dsimp only
  with_reducible repeat' first | assumption | apply canonical_quietFrames | apply canonical_abortQueued | apply canonical_setCslot | apply canonical_foldl | split | intro _

theorem canonical_unitSchedule (s : State) (u : Nat) (h_s : s.canonical) : (unitSchedule s u).canonical := by
  unfold unitSchedule
  try dsimp only
  with_reducible repeat' first | assumption | apply canonical_endJob | apply canonical_modJob | apply canonical_setCslot | split | simp only [canonical_mk, canon_fold, id_eq]

theorem canonical_onUnit (s : State) (u : Nat) (go : State → CJob → State) (h_s : s.canonical) (h_go : ∀ x0 x1, x0.canonical → (go x0 x1).canonical) : (onUnit s u go).canonical := by
  unfold onUnit
  try dsimp only
  with_reducible repeat' first | assumption | apply h_go | split

theorem canonical_writePlane (r : List Nat) (base pitch : Nat) (row : Nat → State → State × MemEnd × List Byte) (h_row : ∀ x0 x1, x1.canonical → (row x0 x1).1.canonical) : ∀ (y0 : List Nat) (y1 : State), y1.canonical → (writePlane r base pitch row y0 y1).1.canonical := by
  intro y0 y1
  induction y0 generalizing y1 with
  | nil =>
    intro h1; unfold writePlane
    try dsimp only
    with_reducible repeat' first | assumption | apply h_row | apply ih | apply canonical_memWrite | split
  | cons a l ih =>
    intro h1; unfold writePlane
    try dsimp only
    with_reducible repeat' first | assumption | apply h_row | apply ih | apply canonical_memWrite | split

theorem canonical_readPlane (base pitch n : Nat) : ∀ (y0 : List Nat) (y1 : State), y1.canonical → (readPlane base pitch n y0 y1).1.canonical := by
  intro y0 y1
  induction y0 generalizing y1 with
  | nil =>
    intro h1; unfold readPlane
    try dsimp only
    with_reducible repeat' first | assumption | apply ih | apply canonical_memRead | split
  | cons a l ih =>
    intro h1; unfold readPlane
    try dsimp only
    with_reducible repeat' first | assumption | apply ih | apply canonical_memRead | split

theorem canonical_writeFrame (r : List Nat) (buf : Nat) (row : Nat → Nat → State → State × MemEnd × List Byte) (h_row : ∀ x0 x1 x2, x2.canonical → (row x0 x1 x2).1.canonical) : ∀ (y0 : List ((Nat × Nat × Nat × Nat) × Nat)) (y1 : State), y1.canonical → (writeFrame r buf row y0 y1).1.canonical := by
  intro y0 y1
  induction y0 generalizing y1 with
  | nil =>
    intro h1; unfold writeFrame
    try dsimp only
    with_reducible repeat' first | assumption | apply h_row | apply ih | apply canonical_writePlane | split
  | cons a l ih =>
    intro h1; unfold writeFrame
    try dsimp only
    with_reducible repeat' first | assumption | apply h_row | apply ih | apply canonical_writePlane | split

theorem canonical_readAll : ∀ (y0 : List (Nat × Nat)) (y1 : State), y1.canonical → (readAll  y0 y1).1.canonical := by
  intro y0 y1
  induction y0 generalizing y1 with
  | nil =>
    intro h1; unfold readAll
    try dsimp only
    with_reducible repeat' first | assumption | apply ih | apply canonical_memRead | split
  | cons a l ih =>
    intro h1; unfold readAll
    try dsimp only
    with_reducible repeat' first | assumption | apply ih | apply canonical_memRead | split

theorem canonical_frameOver (s : State) (n : Nat) (x : CSlot) (h_s : s.canonical) : (frameOver s n x).canonical := by
  unfold frameOver
  try dsimp only
  with_reducible repeat' first | assumption | apply canonical_setCslot

theorem canonical_saveArea (s : State) (x : CSlot) (h_s : s.canonical) : (saveArea s x).1.canonical := by
  unfold saveArea
  try dsimp only
  with_reducible repeat' first | assumption | apply canonical_memWrite

theorem canonical_loadArea (s : State) (x : CSlot) (h_s : s.canonical) : (loadArea s x).1.canonical := by
  unfold loadArea
  try dsimp only
  with_reducible repeat' first | assumption | apply canonical_readAll | split

theorem canonical_concealRow (x : CSlot) (p : Nat × Nat × Nat × Nat) (y : Nat) (cols : List Nat) (s : State) (h_s : s.canonical) : (concealRow x p y cols s).1.canonical := by
  unfold concealRow
  try dsimp only
  with_reducible repeat' first | assumption | apply canonical_memRead | split

theorem canonical_decodedRow (x : CSlot) (ps : List (Nat × Nat × Nat × Nat)) (conceals : Nat → Nat → Nat → Bool) (c y : Nat) (s : State) (h_s : s.canonical) : (decodedRow x ps conceals c y s).1.canonical := by
  unfold decodedRow
  try dsimp only
  with_reducible repeat' first | assumption | apply canonical_concealRow

theorem canonical_decodeInto (timeout bounds : Bool) (s : State) (j : CJob) (x : CSlot) (h_s : s.canonical) : (decodeInto timeout bounds s j x).canonical := by
  unfold decodeInto
  try dsimp only
  with_reducible repeat' first | assumption | apply canonical_loadArea | apply canonical_readAll | apply canonical_writeFrame | apply canonical_decodedRow | apply canonical_saveArea | apply canonical_frameOver | apply canonical_endJob | apply canonical_endWith | apply canonical_State_count | split

theorem canonical_decodeFrame (timeout : Bool) (s : State) (j : CJob) (h_s : s.canonical) : (decodeFrame timeout s j).canonical := by
  unfold decodeFrame
  try extract_lets
  with_reducible repeat' first | assumption | apply canonical_memRead | apply canonical_frameOver | apply canonical_endJob | apply canonical_endWith | apply canonical_decodeInto | split

theorem canonical_codecDecode (s : State) (u : Nat) (h_s : s.canonical) : (codecDecode s u).canonical := by
  unfold codecDecode
  try dsimp only
  with_reducible repeat' first | assumption | apply canonical_onUnit | apply canonical_decodeFrame | split | intro _

theorem canonical_readFrame (base : Nat) : ∀ (y0 : List (Nat × Nat × Nat × Nat)) (y1 : State), y1.canonical → (readFrame base y0 y1).1.canonical := by
  intro y0 y1
  induction y0 generalizing y1 with
  | nil =>
    intro h1; unfold readFrame
    try dsimp only
    with_reducible repeat' first | assumption | apply ih | apply canonical_readPlane | split
  | cons a l ih =>
    intro h1; unfold readFrame
    try dsimp only
    with_reducible repeat' first | assumption | apply ih | apply canonical_readPlane | split

theorem canonical_encodedRow (x : CSlot) (ps : List (Nat × Nat × Nat × Nat)) (c y : Nat) (s : State) (h_s : s.canonical) : (encodedRow x ps c y s).1.canonical := by
  unfold encodedRow
  try dsimp only
  assumption

theorem canonical_encodeFrame (s : State) (j : CJob) (h_s : s.canonical) : (encodeFrame s j).canonical := by
  unfold encodeFrame
  try extract_lets
  with_reducible repeat' first | assumption | apply canonical_readFrame | apply canonical_frameOver | apply canonical_endJob | apply canonical_loadArea | apply canonical_readAll | apply canonical_memWrite | apply canonical_writeFrame | apply canonical_encodedRow | apply canonical_saveArea | apply canonical_endWith | split | (simp +zetaDelta only [canonical_mk, canon_fold])

theorem canonical_codecEncode (s : State) (u : Nat) (h_s : s.canonical) : (codecEncode s u).canonical := by
  unfold codecEncode
  try dsimp only
  with_reducible repeat' first | assumption | apply canonical_onUnit | apply canonical_encodeFrame | split | intro _

theorem canonical_frameTimeout (s : State) (u : Nat) (h_s : s.canonical) : (frameTimeout s u).canonical := by
  unfold frameTimeout
  try dsimp only
  with_reducible repeat' first | assumption | apply canonical_onUnit | apply canonical_decodeFrame | split | intro _

end Sys2Proof.Machine
end

