-- ==== Sys2Proof/Laws/CanonHub.lean ====
section
/-! SUPPORT. What keeps the canonical form: the hub, power, starts, the host interface and BAR0. -/

set_option linter.unusedSimpArgs false

namespace Sys2Proof.Machine

theorem canonical_setSlot (s : State) (k st : Nat) (rebind : Bool) (logical cause : Nat) (h_s : s.canonical) : (setSlot s k st rebind logical cause).canonical := by
  unfold setSlot
  try dsimp only
  with_reducible repeat' first | assumption | apply canonical_State_setReg

theorem canonical_countSpares (s : State) (h_s : s.canonical) : (countSpares s).canonical := by
  unfold countSpares
  try dsimp only
  with_reducible repeat' first | assumption | apply canonical_State_setFld

theorem canonical_retireSlot (s : State) (k cause : Nat) (h_s : s.canonical) : (retireSlot s k cause).canonical := by
  unfold retireSlot
  try dsimp only
  with_reducible repeat' first | assumption | apply canonical_countSpares | apply canonical_setSlot | simp only [canonical_mk, canon_fold, id_eq]

theorem canonical_retireFailed (s : State) (k cause : Nat) (h_s : s.canonical) : (retireFailed s k cause).canonical := by
  unfold retireFailed
  try dsimp only
  with_reducible repeat' first | assumption | apply canonical_retireSlot | apply canonical_State_appendRecord

theorem canonical_rebindNext (s : State) (n : Nat) (h_s : s.canonical) : (rebindNext s n).canonical := by
  unfold rebindNext
  try dsimp only
  with_reducible repeat' first | assumption | apply canonical_State_modEng | apply canonical_State_appendRecord | apply canonical_countSpares | apply canonical_setSlot | split

theorem canonical_startRebind (s : State) (n : Nat) (h_s : s.canonical) : (startRebind s n).canonical := by
  unfold startRebind
  try dsimp only
  with_reducible repeat' first | assumption | apply canonical_rebindNext | apply canonical_State_modEng

theorem canonical_engFail (s : State) (n k cause : Nat) (h_s : s.canonical) : (engFail s n k cause).canonical := by
  unfold engFail
  try dsimp only
  with_reducible repeat' first | assumption | apply canonical_State_appendRecord

theorem canonical_lateFail (s : State) (n cause : Nat) (h_s : s.canonical) : (lateFail s n cause).canonical := by
  unfold lateFail
  try dsimp only
  with_reducible repeat' first | assumption | apply canonical_engFail | apply canonical_retireSlot | apply canonical_startRebind | apply canonical_State_beginTeardown | split

theorem canonical_bindSpare (s : State) (n k : Nat) (h_s : s.canonical) : (bindSpare s n k).canonical := by
  unfold bindSpare
  try dsimp only
  with_reducible repeat' first | assumption | apply canonical_State_setEng | apply canonical_countSpares | apply canonical_setSlot | apply canonical_State_appendRecord

theorem canonical_spareTested (s : State) (n : Nat) (pass : Bool) (h_s : s.canonical) : (spareTested s n pass).canonical := by
  unfold spareTested
  try dsimp only
  with_reducible repeat' first | assumption | apply canonical_bindSpare | apply canonical_rebindNext | apply canonical_retireFailed | apply canonical_State_modEng | split

theorem canonical_lateEngine (s : State) (n : Nat) (h_s : s.canonical) : (lateEngine s n).canonical := by
  unfold lateEngine
  try dsimp only
  with_reducible repeat' first | assumption | apply canonical_lateFail | split

theorem canonical_retireWrite (s : State) (v : Nat) (h_s : s.canonical) : (retireWrite s v).canonical := by
  unfold retireWrite
  try dsimp only
  with_reducible repeat' first | assumption | apply canonical_State_setReg | apply canonical_State_setFld | apply canonical_lateFail | split

theorem canonical_quietEdits (s : State) (c : Nat) (h_s : s.canonical) : (quietEdits s c).canonical := by
  unfold quietEdits
  try dsimp only
  with_reducible repeat' first | assumption | simp only [canonical_mk, canon_fold, id_eq]

theorem canonical_workComplete (s : State) (c : Nat) (h_s : s.canonical) : (workComplete s c).canonical := by
  unfold workComplete
  try dsimp only
  with_reducible repeat' first | assumption | apply canonical_flushMarks | apply canonical_State_setReg | apply canonical_memWrite | apply canonical_workStatus | apply canonical_State_appendRecord | apply canonical_unbindSet | apply canonical_quietEdits | apply canonical_State_setCtxState | apply canonical_State_modCtx | apply canonical_endKeys | apply canonical_workEnd | split

theorem canonical_abortItems (s : State) (c : Nat) (h_s : s.canonical) : (abortItems s c).canonical := by
  unfold abortItems
  try dsimp only
  with_reducible repeat' first | assumption | apply canonical_memRead | apply canonical_workRefuse | apply canonical_foldl | split | intro _

theorem canonical_dropMarks (s : State) (c : Nat) (h_s : s.canonical) : (dropMarks s c).canonical := by
  unfold dropMarks
  try dsimp only
  with_reducible repeat' first | assumption | simp only [canonical_mk, canon_fold, id_eq]

theorem canonical_faultItem (s : State) (c : Nat) (h_s : s.canonical) : (faultItem s c).canonical := by
  unfold faultItem
  try dsimp only
  with_reducible repeat' first | assumption | apply canonical_workEnd | apply canonical_workStatus | apply canonical_dropMarks | apply canonical_State_modCtx | split

theorem canonical_quietWork (s : State) (c : Nat) (h_s : s.canonical) : (quietWork s c).canonical := by
  unfold quietWork
  try dsimp only
  with_reducible repeat' first | assumption | apply canonical_quietEdits | simp only [canonical_mk, canon_fold, id_eq]

theorem canonical_releaseAll (s : State) (c : Nat) (h_s : s.canonical) : (releaseAll s c).canonical := by
  unfold releaseAll
  try dsimp only
  with_reducible repeat' first | assumption | apply canonical_codecTeardown | apply canonical_eraseOwned | apply canonical_releaseMonitors | apply canonical_quietWork

theorem canonical_finishTeardown (s : State) (c : Nat) (h_s : s.canonical) : (finishTeardown s c).canonical := by
  unfold finishTeardown
  try dsimp only
  with_reducible repeat' first | assumption | apply canonical_unbindSet | apply canonical_releaseAll | apply canonical_abortItems | apply canonical_faultItem | apply canonical_State_appendRecord | apply canonical_State_setCtxState | apply canonical_State_modCtx | apply canonical_rebindNext | apply canonical_foldl

theorem canonical_teardown (s : State) (c : Nat) (h_s : s.canonical) : (teardown s c).canonical := by
  unfold teardown
  try dsimp only
  with_reducible repeat' first | assumption | apply canonical_collTeardown | apply canonical_State_modCtx | apply canonical_finishTeardown | split

theorem canonical_ctxEnd (s : State) (c : Nat) (h_s : s.canonical) : (ctxEnd s c).canonical := by
  unfold ctxEnd
  try dsimp only
  with_reducible repeat' first | assumption | apply canonical_abortItems | apply canonical_releaseAll | apply canonical_State_setCtxState | apply canonical_ctxRej | split

theorem canonical_reportAer (s : State) (i : Nat) (h_s : s.canonical) : (reportAer s i).canonical := by
  unfold reportAer
  try dsimp only
  with_reducible repeat' first | assumption | simp only [canonical_mk, canon_fold, id_eq]

theorem canonical_allSlipsDown (s : State) (cause : Nat) (h_s : s.canonical) : (allSlipsDown s cause).canonical := by
  unfold allSlipsDown
  try dsimp only
  with_reducible repeat' first | assumption | apply canonical_linkDown | apply canonical_foldl | intro _

theorem canonical_contain (s : State) (cause : Nat) (h_s : s.canonical) : (contain s cause).canonical := by
  unfold contain
  try dsimp only
  with_reducible repeat' first | assumption | apply canonical_State_count | apply canonical_State_setReg | apply canonical_State_setFld | apply canonical_State_modEng | apply canonical_allSlipsDown | apply canonical_State_raiseIrq | apply canonical_reportAer | apply canonical_foldl | split | simp only [canonical_mk, canon_fold, id_eq] | intro _

theorem canonical_teardownStall (s : State) (c : Nat) (h_s : s.canonical) : (teardownStall s c).canonical := by
  unfold teardownStall
  try dsimp only
  with_reducible repeat' first | assumption | apply canonical_contain | split

theorem canonical_bar2Hole (s : State) (h_s : s.canonical) : (bar2Hole s).canonical := by
  unfold bar2Hole
  try dsimp only
  with_reducible repeat' first | assumption | apply canonical_State_count

theorem canonical_freeBytes : ∀ (y0 : Nat) (y1 : State), y1.canonical → (freeBytes  y0 y1).1.canonical := by
  intro y0 y1
  induction y0 generalizing y1 with
  | zero =>
    intro h1; unfold freeBytes
    try dsimp only
    with_reducible repeat' first | assumption | apply ih | apply canonical_State_draw
  | succ n ih =>
    intro h1; unfold freeBytes
    try dsimp only
    with_reducible repeat' first | assumption | apply ih | apply canonical_State_draw

theorem canonical_bar2Do (s : State) (r : Bar2Req) (h_s : s.canonical) : (bar2Do s r).canonical := by
  unfold bar2Do
  try dsimp only
  with_reducible repeat' first | assumption | apply canonical_memRead | apply canonical_answerBytes | apply canonical_freeBytes | apply canonical_bar2Hole | apply canonical_memWrite | split

theorem canonical_serveHeld (s : State) (h_s : s.canonical) : (serveHeld s).canonical := by
  unfold serveHeld
  try dsimp only
  with_reducible repeat' first | assumption | apply canonical_bar2Do | apply canonical_foldl | simp only [canonical_mk, canon_fold, id_eq]

theorem canonical_bar2Request (s : State) (r : Bar2Req) (h_s : s.canonical) : (bar2Request s r).canonical := by
  unfold bar2Request
  try dsimp only
  with_reducible repeat' first | assumption | apply canonical_answerBytes | apply canonical_bar2Do | split | simp only [canonical_mk, canon_fold, id_eq]

theorem canonical_poisonedWrite (s : State) (h_s : s.canonical) : (poisonedWrite s).canonical := by
  unfold poisonedWrite
  try dsimp only
  with_reducible repeat' first | assumption | apply canonical_reportAer | split

theorem canonical_bar2BaseWrite (s : State) (v : Nat) (h_s : s.canonical) : (bar2BaseWrite s v).canonical := by
  unfold bar2BaseWrite
  try dsimp only
  with_reducible repeat' first | assumption | apply canonical_State_setFld | split

theorem canonical_lmsRecord (s : State) (next : Nat) (h_s : s.canonical) : (lmsRecord s next).canonical := by
  unfold lmsRecord
  try dsimp only
  with_reducible repeat' first | assumption | apply canonical_State_appendRecord | split | simp only [canonical_mk, canon_fold, id_eq]

theorem canonical_noteExhausted (s : State) (h_s : s.canonical) : (noteExhausted s).canonical := by
  unfold noteExhausted
  try dsimp only
  with_reducible repeat' first | assumption | apply canonical_lmsRecord | apply canonical_State_setFld | split

theorem canonical_dcrRecord (s : State) (h_s : s.canonical) : (dcrRecord s).canonical := by
  unfold dcrRecord
  try dsimp only
  with_reducible repeat' first | assumption | apply canonical_State_appendRecord

theorem canonical_loadRecord (s : State) (h_s : s.canonical) : (loadRecord s).canonical := by
  unfold loadRecord
  with_reducible repeat' first | assumption | apply canonical_State_setReg | apply canonical_State_setReg64 | apply canonical_noteExhausted | apply canonical_dcrRecord | split | rw [canonical_mk, canon_fold]

theorem canonical_beginWrite (s : State) (h_s : s.canonical) : (beginWrite s).canonical := by
  unfold beginWrite
  try dsimp only
  with_reducible repeat' first | assumption | apply canonical_State_setFld | split | simp only [canonical_mk, canon_fold, id_eq]

theorem canonical_endWrite (s : State) (r : Record) (h_s : s.canonical) : (endWrite s r).canonical := by
  unfold endWrite
  try dsimp only
  with_reducible repeat' first | assumption | apply canonical_State_setFld | apply canonical_State_setReg64 | apply canonical_State_setReg | apply canonical_State_raiseIrq | split | simp only [canonical_mk, canon_fold, id_eq]

theorem canonical_lmsCommit (s : State) (h_s : s.canonical) : (lmsCommit s).canonical := by
  unfold lmsCommit
  try dsimp only
  with_reducible repeat' first | assumption | apply canonical_beginWrite | split | simp only [canonical_mk, canon_fold, id_eq]

theorem canonical_dcrChange (s : State) (f : Record → Record) (h_s : s.canonical) : (dcrChange s f).canonical := by
  unfold dcrChange
  try dsimp only
  with_reducible repeat' first | assumption | apply canonical_beginWrite | simp only [canonical_mk, canon_fold, id_eq]

theorem canonical_dcrSetTopology (s : State) (a : Nat) (h_s : s.canonical) : (dcrSetTopology s a).canonical := by
  unfold dcrSetTopology
  try dsimp only
  with_reducible repeat' first | assumption | apply canonical_memRead | apply canonical_dcrChange | split

theorem canonical_dcrRun (s : State) (c : Nat × Nat) (h_s : s.canonical) : (dcrRun s c).canonical := by
  unfold dcrRun
  try dsimp only
  with_reducible repeat' first | assumption | apply canonical_dcrChange | apply canonical_dcrSetTopology | split

theorem canonical_dcrRunAll : ∀ (y0 : List (Nat × Nat)) (y1 : State), y1.canonical → (dcrRunAll  y0 y1).canonical := by
  intro y0 y1
  induction y0 generalizing y1 with
  | nil =>
    intro h1; unfold dcrRunAll
    try dsimp only
    with_reducible repeat' first | assumption | apply ih | apply canonical_dcrRun | split | simp only [canonical_mk, canon_fold, id_eq]
  | cons a l ih =>
    intro h1; unfold dcrRunAll
    try dsimp only
    with_reducible repeat' first | assumption | apply ih | apply canonical_dcrRun | split | simp only [canonical_mk, canon_fold, id_eq]

theorem canonical_dcrResume (s : State) (h_s : s.canonical) : (dcrResume s).canonical := by
  unfold dcrResume
  try dsimp only
  with_reducible repeat' first | assumption | apply canonical_dcrRunAll | simp only [canonical_mk, canon_fold, id_eq]

theorem canonical_dcrWrite (s : State) (bad : Bool) (h_s : s.canonical) : (dcrWrite s bad).canonical := by
  unfold dcrWrite
  try dsimp only
  with_reducible repeat' first | assumption | apply canonical_beginWrite | apply canonical_dcrRecord | apply canonical_State_setFld | apply canonical_State_raiseIrq | apply canonical_dcrResume | apply canonical_endWrite | split | simp only [canonical_mk, canon_fold, id_eq]

theorem canonical_dcrCmdWrite (s : State) (a : Acc) (v : Nat) (h_s : s.canonical) : (dcrCmdWrite s a v).canonical := by
  unfold dcrCmdWrite
  try dsimp only
  with_reducible repeat' first | assumption | apply canonical_State_setReg64 | apply canonical_dcrRun | split | simp only [canonical_mk, canon_fold, id_eq]

theorem canonical_evaluateJoin (s : State) (h_s : s.canonical) : (evaluateJoin s).canonical := by
  unfold evaluateJoin
  try dsimp only
  with_reducible repeat' first | assumption | apply canonical_State_setFld | apply canonical_State_appendRecord | split | simp only [canonical_mk, canon_fold, id_eq]

theorem canonical_joinOnUp (s : State) (n : Nat) (h_s : s.canonical) : (joinOnUp s n).canonical := by
  unfold joinOnUp
  try dsimp only
  with_reducible repeat' first | assumption | apply canonical_evaluateJoin | split

theorem canonical_coldState (s : State) (h_s : s.canonical) : (coldState s).canonical := by
  unfold coldState
  try dsimp only
  with_reducible repeat' first | assumption | apply canonical_mountFtl | apply canonical_State_setReg | apply canon_cold | simp only [canonical_mk, canon_fold, id_eq]

theorem canonical_beginStart (s : State) (kind step : Nat) (h_s : s.canonical) : (beginStart s kind step).canonical := by
  unfold beginStart
  try dsimp only
  with_reducible repeat' first | assumption | apply canonical_State_setFld | simp only [canonical_mk, canon_fold, id_eq]

theorem canonical_coldStart (s : State) (h_s : s.canonical) : (coldStart s).canonical := by
  unfold coldStart
  try dsimp only
  with_reducible repeat' first | assumption | apply canonical_beginStart | apply canonical_coldState

theorem canonical_keepRecord (s c : State) (h_s : s.canonical) (h_c : c.canonical) : (keepRecord s c).canonical := by
  unfold keepRecord
  try dsimp only
  with_reducible repeat' first | assumption | apply canonical_State_setReg | apply canonical_State_setReg64 | apply canonical_foldl | intro _

theorem canonical_warmStart (s : State) (h_s : s.canonical) : (warmStart s).canonical := by
  unfold warmStart
  try dsimp only
  with_reducible repeat' first | assumption | apply canonical_coldState | apply canonical_State_setReg | apply canonical_beginStart | apply canonical_keepRecord | split | simp only [canonical_mk, canon_fold, id_eq]

theorem canonical_computeStart (s : State) (h_s : s.canonical) : (computeStart s).canonical := by
  unfold computeStart
  try dsimp only
  with_reducible repeat' first | assumption | apply canonical_beginStart | apply canonical_State_setFld | apply canonical_State_beginTeardown | apply canonical_foldl | simp only [canonical_mk, canon_fold, id_eq] | intro _

theorem canonical_resetRej (s : State) (err : Nat) (h_s : s.canonical) : (resetRej s err).canonical := by
  unfold resetRej
  try dsimp only
  with_reducible repeat' first | assumption | apply canonical_State_setFld

theorem canonical_hubResetWrite (s : State) (v : Nat) (h_s : s.canonical) : (hubResetWrite s v).canonical := by
  unfold hubResetWrite
  try dsimp only
  with_reducible repeat' first | assumption | apply canonical_State_setFld | apply canonical_resetRej | apply canonical_warmStart | apply canonical_computeStart | apply canonical_coldStart | split

theorem canonical_endStart (s : State) (code : Nat) (h_s : s.canonical) : (endStart s code).canonical := by
  unfold endStart
  try dsimp only
  with_reducible repeat' first | assumption | apply canonical_State_setFld | apply canonical_State_appendRecord | apply canonical_State_raiseIrq | split | simp only [canonical_mk, canon_fold, id_eq]

theorem canonical_stepFail (s : State) (code : Nat) (h_s : s.canonical) : (stepFail s code).canonical := by
  unfold stepFail
  try dsimp only
  with_reducible repeat' first | assumption | apply canonical_endStart | split | simp only [canonical_mk, canon_fold, id_eq]

theorem canonical_showUid (s : State) (uid : Nat) (h_s : s.canonical) : (showUid s uid).canonical := by
  unfold showUid
  try dsimp only
  with_reducible repeat' first | assumption | apply canonical_State_setReg64 | simp only [canonical_mk, canon_fold, id_eq]

theorem canonical_loadImage (s : State) (h_s : s.canonical) : (loadImage s).canonical := by
  unfold loadImage
  with_reducible repeat' first | assumption | apply canonical_State_setReg | apply canonical_showUid | apply canonical_foldl | simp only [canonical_mk, canon_fold, id_eq] | intro _

theorem canonical_loadRepair (s : State) (h_s : s.canonical) : (loadRepair s).canonical := by
  unfold loadRepair
  try dsimp only
  with_reducible repeat' first | assumption | apply canonical_State_setReg | apply canonical_foldl | split | intro _

theorem canonical_memoryReady (s : State) (full : Nat) (h_s : s.canonical) : (memoryReady s full).canonical := by
  unfold memoryReady
  try dsimp only
  with_reducible repeat' first | assumption | apply canonical_loadRepair | apply canonical_dcrResume | apply canonical_serveHeld | apply canon_cleared | simp only [canonical_mk, canon_fold, id_eq]

theorem canonical_failSlot (s : State) (k : Nat) (h_s : s.canonical) : (failSlot s k).canonical := by
  unfold failSlot
  try dsimp only
  with_reducible repeat' first | assumption | apply canonical_setSlot | apply canonical_State_appendRecord

theorem canonical_railOff (s : State) (v : Nat) (h_s : s.canonical) : (railOff s v).canonical := by
  unfold railOff
  try dsimp only
  with_reducible repeat' first | assumption | apply canonical_setSlot | apply canonical_State_modEng | apply canonical_foldl | split | intro _

theorem canonical_darkRails (s : State) (h_s : s.canonical) : (darkRails s).canonical := by
  unfold darkRails
  try dsimp only
  with_reducible repeat' first | assumption | apply canonical_countSpares | apply canonical_railOff | apply canonical_foldl

theorem canonical_knownAnswer (s : State) (pass : Nat) (h_s : s.canonical) : (knownAnswer s pass).canonical := by
  unfold knownAnswer
  try dsimp only
  with_reducible repeat' first | assumption | apply canonical_setSlot | apply canonical_failSlot | apply canonical_foldl | split | simp only [canonical_mk, canon_fold, id_eq] | intro _

theorem canonical_setLp (s : State) (v lp : Nat) (h_s : s.canonical) : (setLp s v lp).canonical := by
  unfold setLp
  try dsimp only
  with_reducible repeat' first | assumption | apply canonical_State_setFld

theorem canonical_leaveLp (s : State) (h_s : s.canonical) : (leaveLp s).canonical := by
  unfold leaveLp
  try dsimp only
  with_reducible repeat' first | assumption | apply canonical_setLp | apply canonical_foldl | split | intro _

theorem canonical_numberDie (s : State) (base d : Nat) (h_s : s.canonical) : (numberDie s base d).1.canonical := by
  unfold numberDie
  try dsimp only
  with_reducible repeat' first | assumption | apply canonical_setSlot | apply canonical_State_setEng | apply canonical_foldl | intro _

theorem canonical_numbering (s : State) (h_s : s.canonical) : (numbering s).canonical := by
  unfold numbering
  try dsimp only
  with_reducible repeat' first | assumption | apply canonical_numberDie | apply canonical_leaveLp | apply canonical_darkRails | apply canonical_State_setReg

theorem canonical_restoreBinding (s : State) (h_s : s.canonical) : (restoreBinding s).canonical := by
  unfold restoreBinding
  try dsimp only
  with_reducible repeat' first | assumption | apply canonical_State_setReg | apply canonical_State_setEng | apply canonical_leaveLp | apply canonical_darkRails | apply canonical_foldl | split | intro _

theorem canonical_trainSlips (s : State) (h_s : s.canonical) : (trainSlips s).canonical := by
  unfold trainSlips
  try dsimp only
  with_reducible repeat' first | assumption | apply canonical_slipDetect | apply canonical_foldl | split | intro _

theorem canonical_becomeReady (s : State) (h_s : s.canonical) : (becomeReady s).canonical := by
  unfold becomeReady
  with_reducible repeat' first | assumption | apply canonical_State_setFld | apply canonical_State_setReg | apply canonical_State_appendRecord | apply canonical_State_raiseIrq | split | rw [canonical_mk, canon_fold]

theorem canonical_goStep (s : State) (k : Nat) (h_s : s.canonical) : (goStep s k).canonical := by
  unfold goStep
  try dsimp only
  with_reducible repeat' first | assumption | apply canonical_State_setFld | simp only [canonical_mk, canon_fold, id_eq]

theorem canonical_fullStep (s : State) (pass : Nat) (h_s : s.canonical) : (fullStep s pass).canonical := by
  unfold fullStep
  try extract_lets
  with_reducible repeat' first | assumption | apply canonical_goStep | apply canonical_stepFail | apply canonical_loadImage | apply canonical_noteExhausted | apply canonical_loadRecord | apply canonical_memoryReady | apply canonical_knownAnswer | apply canonical_restoreBinding | apply canonical_numbering | apply canonical_endStart | apply canonical_trainSlips | apply canonical_becomeReady | apply canonical_evaluateJoin | split | (simp +zetaDelta only [canonical_mk, canon_fold])

theorem canonical_resetEngines (s : State) (h_s : s.canonical) : (resetEngines s).canonical := by
  unfold resetEngines
  try dsimp only
  with_reducible repeat' first | assumption | apply canonical_State_modEng | apply canonical_foldl | intro _

theorem canonical_clearLanding (s : State) (h_s : s.canonical) : (clearLanding s).canonical := by
  unfold clearLanding
  try dsimp only
  with_reducible repeat' first | assumption | apply canon_noLanding | simp only [canonical_mk, canon_fold, id_eq]

theorem canonical_lowestLevels (s : State) (h_s : s.canonical) : (lowestLevels s).canonical := by
  unfold lowestLevels
  try dsimp only
  with_reducible repeat' first | assumption | simp only [canonical_mk, canon_fold, id_eq]

theorem canonical_computeFailures (s : State) (pass : Nat) (h_s : s.canonical) : (computeFailures s pass).canonical := by
  unfold computeFailures
  try dsimp only
  with_reducible repeat' first | assumption | apply canonical_retireFailed | apply canonical_startRebind | apply canonical_foldl | split | intro _

theorem canonical_computeStep (s : State) (pass : Nat) (h_s : s.canonical) : (computeStep s pass).canonical := by
  unfold computeStep
  try dsimp only
  with_reducible repeat' first | assumption | apply canonical_goStep | apply canonical_setLp | apply canonical_lowestLevels | apply canonical_resetEngines | apply canonical_clearLanding | apply canonical_dcrResume | apply canonical_serveHeld | apply canonical_becomeReady | apply canonical_computeFailures | apply canonical_leaveLp | apply canonical_foldl | split | simp only [canonical_mk, canon_fold, id_eq] | intro _

theorem canonical_startDone (s : State) (step pass : Nat) (h_s : s.canonical) : (startDone s step pass).canonical := by
  unfold startDone
  try dsimp only
  with_reducible repeat' first | assumption | apply canonical_computeStep | apply canonical_fullStep | split

theorem canonical_startTimeout (s : State) (code : Nat) (h_s : s.canonical) : (startTimeout s code).canonical := by
  unfold startTimeout
  try dsimp only
  with_reducible repeat' first | assumption | apply canonical_becomeReady | apply canonical_evaluateJoin | apply canonical_goStep | apply canonical_stepFail | split | simp only [canonical_mk, canon_fold, id_eq]

theorem canonical_powerGood (s : State) (mid : Nat) (h_s : s.canonical) : (powerGood s mid).canonical := by
  unfold powerGood
  try dsimp only
  with_reducible repeat' first | assumption | apply canonical_coldStart | split | simp only [canonical_mk, canon_fold, id_eq]

theorem canonical_cutFlash (s : State) (h_s : s.canonical) : (cutFlash s).canonical := by
  unfold cutFlash
  try dsimp only
  with_reducible repeat' first | assumption | apply canonical_flashPart | apply canonical_foldl | split | intro _

theorem canonical_powerLoss (s : State) (h_s : s.canonical) : (powerLoss s).canonical := by
  unfold powerLoss
  try dsimp only
  with_reducible repeat' first | assumption | apply canonical_cutFlash | apply canonical_State_draw | apply canonical_coldState | apply canonical_State_setReg | split | simp only [canonical_mk, canon_fold, id_eq]

theorem canonical_pwrRej (s : State) (h_s : s.canonical) : (pwrRej s).canonical := by
  unfold pwrRej
  try dsimp only
  with_reducible repeat' first | assumption | apply canonical_State_setFld

theorem canonical_reqWrite (s : State) (c v : Nat) (h_s : s.canonical) : (reqWrite s c v).canonical := by
  unfold reqWrite
  try dsimp only
  with_reducible repeat' first | assumption | apply canonical_pwrRej | apply canonical_plainWrite | split

theorem canonical_budgetWrite (s : State) (v : Nat) (h_s : s.canonical) : (budgetWrite s v).canonical := by
  unfold budgetWrite
  try dsimp only
  with_reducible repeat' first | assumption | apply canonical_pwrRej | apply canonical_plainWrite | split

theorem canonical_oppWrite (s : State) (l v : Nat) (h_s : s.canonical) : (oppWrite s l v).canonical := by
  unfold oppWrite
  try dsimp only
  with_reducible repeat' first | assumption | apply canonical_plainWrite | apply canonical_pwrRej | split

theorem canonical_setMhz (s : State) (g l : Nat) (h_s : s.canonical) : (setMhz s g l).canonical := by
  unfold setMhz
  try dsimp only
  with_reducible repeat' first | assumption | apply canonical_State_modEng | apply canonical_foldl | split | simp only [canonical_mk, canon_fold, id_eq] | intro _

theorem canonical_advance (s : State) (c : Nat) (h_s : s.canonical) : (advance s c).canonical := by
  unfold advance
  try dsimp only
  with_reducible repeat' first | assumption | apply canonical_setMhz | split | simp only [canonical_mk, canon_fold, id_eq]

theorem canonical_advanceAll (s : State) (h_s : s.canonical) : (advanceAll s).canonical := by
  unfold advanceAll
  try dsimp only
  with_reducible repeat' first | assumption | apply canonical_advance | apply canonical_foldl

theorem canonical_levelDone (s : State) (c : Nat) (h_s : s.canonical) : (levelDone s c).canonical := by
  unfold levelDone
  try dsimp only
  with_reducible repeat' first | assumption | apply canonical_advanceAll | apply canonical_setMhz | split | simp only [canonical_mk, canon_fold, id_eq]

theorem canonical_vfail (s : State) (g : Nat) (h_s : s.canonical) : (vfail s g).canonical := by
  unfold vfail
  try dsimp only
  with_reducible repeat' first | assumption | apply canonical_advanceAll | apply canonical_State_appendRecord | split | simp only [canonical_mk, canon_fold, id_eq]

theorem canonical_throttle (s : State) (i tj : Nat) (h_s : s.canonical) : (throttle s i tj).canonical := by
  unfold throttle
  try dsimp only
  with_reducible repeat' first | assumption | apply canonical_State_appendRecord | split | simp only [canonical_mk, canon_fold, id_eq]

theorem canonical_countDown (s : State) (h_s : s.canonical) : (countDown s).canonical := by
  unfold countDown
  try dsimp only
  with_reducible repeat' first | assumption | split | simp only [canonical_mk, canon_fold, id_eq]

theorem canonical_takeReadings (s : State) (temps : List Nat) (input : Nat) (h_s : s.canonical) : (takeReadings s temps input).canonical := by
  unfold takeReadings
  try dsimp only
  with_reducible repeat' first | assumption | apply canonical_State_setFld | simp only [canonical_mk, canon_fold, id_eq]

theorem canonical_retarget (s : State) (f : Nat → Nat) (h_s : s.canonical) : (retarget s f).canonical := by
  unfold retarget
  try dsimp only
  with_reducible repeat' first | assumption | simp only [canonical_mk, canon_fold, id_eq]

theorem canonical_arbitrate (s : State) (h_s : s.canonical) : (arbitrate s).canonical := by
  unfold arbitrate
  try dsimp only
  with_reducible repeat' first | assumption | apply canonical_advanceAll | apply canonical_retarget | apply canonical_State_setFld

theorem canonical_overdraw (s : State) (mw run : Nat) (h_s : s.canonical) : (overdraw s mw run).canonical := by
  unfold overdraw
  try dsimp only
  with_reducible repeat' first | assumption | apply canonical_setMhz | apply canonical_State_setFld | apply canonical_State_appendRecord | apply canonical_State_raiseIrq | apply canonical_foldl | split | simp only [canonical_mk, canon_fold, id_eq] | intro _

theorem canonical_coolant (s : State) (c : Nat) (h_s : s.canonical) : (coolant s c).canonical := by
  unfold coolant
  with_reducible repeat' first | assumption | apply canonical_State_setFld | apply canonical_State_appendRecord | split | rw [canonical_mk, canon_fold]

theorem canonical_dropGroups (s : State) (v : Nat) (h_s : s.canonical) : (dropGroups s v).canonical := by
  unfold dropGroups
  try dsimp only
  with_reducible repeat' first | assumption | apply canonical_setMhz | apply canonical_foldl | simp only [canonical_mk, canon_fold, id_eq] | intro _

theorem canonical_brownInRun (s : State) (v : Nat) (h_s : s.canonical) : (brownInRun s v).canonical := by
  unfold brownInRun
  try dsimp only
  with_reducible repeat' first | assumption | simp only [canonical_mk, canon_fold, id_eq]

theorem canonical_brownOff (s : State) (v : Nat) (h_s : s.canonical) : (brownOff s v).canonical := by
  unfold brownOff
  try dsimp only
  with_reducible repeat' first | assumption | apply canonical_State_beginTeardown | apply canonical_dropGroups | apply canonical_countSpares | apply canonical_railOff | apply canonical_foldl | split | simp only [canonical_mk, canon_fold, id_eq] | intro _

theorem canonical_brownout (s : State) (v amps : Nat) (h_s : s.canonical) : (brownout s v amps).canonical := by
  unfold brownout
  try dsimp only
  with_reducible repeat' first | assumption | apply canonical_State_appendRecord | apply canonical_State_setFld | apply canonical_brownInRun | apply canonical_brownOff | split

theorem canonical_ivrWrite (s : State) (v x : Nat) (h_s : s.canonical) : (ivrWrite s v x).canonical := by
  unfold ivrWrite
  with_reducible repeat' first | assumption | apply canonical_plainWrite | apply canonical_dropGroups | apply canonical_setLp | split | rw [canonical_mk, canon_fold]

theorem canonical_spareBack (s : State) (k : Nat) (pass : Bool) (h_s : s.canonical) : (spareBack s k pass).canonical := by
  unfold spareBack
  try dsimp only
  with_reducible repeat' first | assumption | apply canonical_failSlot | apply canonical_countSpares | apply canonical_setSlot | apply canonical_retireFailed | split

theorem canonical_engineBack (s : State) (v pass n : Nat) (h_s : s.canonical) : (engineBack s v pass n).canonical := by
  unfold engineBack
  try dsimp only
  with_reducible repeat' first | assumption | apply canonical_setSlot | apply canonical_State_modEng | apply canonical_startRebind | apply canonical_retireFailed | apply canonical_rebindNext | split

theorem canonical_ivrDone (s : State) (v pass : Nat) (h_s : s.canonical) : (ivrDone s v pass).canonical := by
  unfold ivrDone
  try dsimp only
  with_reducible repeat' first | assumption | apply canonical_spareBack | apply canonical_setLp | apply canonical_engineBack | apply canonical_foldl | split | simp only [canonical_mk, canon_fold, id_eq] | intro _

theorem canonical_setPhase (s : State) (v : Nat) (h_s : s.canonical) : (setPhase s v).canonical := by
  unfold setPhase
  try dsimp only
  with_reducible repeat' first | assumption | apply canonical_State_setFld

theorem canonical_beginEntry (s : State) (goal : Nat) (h_s : s.canonical) : (beginEntry s goal).canonical := by
  unfold beginEntry
  try dsimp only
  with_reducible repeat' first | assumption | apply canonical_setPhase | apply canonical_lpEnter | split | simp only [canonical_mk, canon_fold, id_eq]

theorem canonical_stateRej (s : State) (err : Nat) (h_s : s.canonical) : (stateRej s err).canonical := by
  unfold stateRej
  try dsimp only
  with_reducible repeat' first | assumption | apply canonical_State_setFld

theorem canonical_moor (s : State) (h_s : s.canonical) : (moor s).canonical := by
  unfold moor
  try dsimp only
  with_reducible repeat' first | assumption | apply canonical_stateRej | apply canonical_beginEntry | split

theorem canonical_layup (s : State) (h_s : s.canonical) : (layup s).canonical := by
  unfold layup
  try dsimp only
  with_reducible repeat' first | assumption | apply canonical_stateRej | apply canonical_beginEntry | split

theorem canonical_latchWake (s : State) (h_s : s.canonical) : (latchWake s).canonical := by
  unfold latchWake
  try dsimp only
  with_reducible repeat' first | assumption | apply canonical_State_setFld

theorem canonical_beginExit (s : State) (h_s : s.canonical) : (beginExit s).canonical := by
  unfold beginExit
  try dsimp only
  with_reducible repeat' first | assumption | apply canonical_coldStart | apply canonical_setPhase | split | simp only [canonical_mk, canon_fold, id_eq]

theorem canonical_exitMoored (s : State) (h_s : s.canonical) : (exitMoored s).canonical := by
  unfold exitMoored
  try dsimp only
  with_reducible repeat' first | assumption | apply canonical_stateRej | apply canonical_latchWake | apply canonical_beginExit | split | simp only [canonical_mk, canon_fold, id_eq]

theorem canonical_stateWrite (s : State) (v : Nat) (h_s : s.canonical) : (stateWrite s v).canonical := by
  unfold stateWrite
  try dsimp only
  with_reducible repeat' first | assumption | apply canonical_State_setFld | apply canonical_moor | apply canonical_layup | apply canonical_exitMoored | split

theorem canonical_enterMoored (s : State) (h_s : s.canonical) : (enterMoored s).canonical := by
  unfold enterMoored
  try dsimp only
  with_reducible repeat' first | assumption | apply canonical_clearLanding | apply canonical_lowestLevels | apply canonical_resetEngines | apply canonical_State_setFld | simp only [canonical_mk, canon_fold, id_eq]

theorem canonical_enterLaidUp (s : State) (h_s : s.canonical) : (enterLaidUp s).canonical := by
  unfold enterLaidUp
  try dsimp only
  with_reducible repeat' first | assumption | apply canonical_coldState | apply canonical_allSlipsDown | apply canonical_State_setFld | simp only [canonical_mk, canon_fold, id_eq]

theorem canonical_entryDone (s : State) (h_s : s.canonical) : (entryDone s).canonical := by
  unfold entryDone
  try dsimp only
  with_reducible repeat' first | assumption | apply canonical_enterLaidUp | apply canonical_State_setFld | apply canonical_beginExit | apply canonical_setPhase | apply canonical_enterMoored | apply canonical_State_raiseIrq | split | simp only [canonical_mk, canon_fold, id_eq]

theorem canonical_wakeEvent (s : State) (src n : Nat) (h_s : s.canonical) : (wakeEvent s src n).canonical := by
  unfold wakeEvent
  try dsimp only
  with_reducible repeat' first | assumption | apply canonical_State_setFld | apply canonical_latchWake | apply canonical_beginExit | split | simp only [canonical_mk, canon_fold, id_eq]

theorem canonical_floorsGranted (s : State) (h_s : s.canonical) : (floorsGranted s).canonical := by
  unfold floorsGranted
  try dsimp only
  with_reducible repeat' first | assumption | apply canonical_advanceAll | apply canonical_retarget

theorem canonical_lpUp (s : State) (n : Nat) (h_s : s.canonical) : (lpUp s n).canonical := by
  unfold lpUp
  try dsimp only
  with_reducible repeat' first | assumption | apply canonical_joinOnUp | apply canonical_pump | apply canonical_payOwed | apply canonical_modSlip | apply canonical_setSlipState

theorem canonical_slipsOut (s : State) (h_s : s.canonical) : (slipsOut s).canonical := by
  unfold slipsOut
  try dsimp only
  with_reducible repeat' first | assumption | apply canonical_lpUp | apply canonical_foldl | split | intro _

theorem canonical_exitStepDone (s : State) (h_s : s.canonical) : (exitStepDone s).canonical := by
  unfold exitStepDone
  try dsimp only
  with_reducible repeat' first | assumption | apply canonical_State_setFld | apply canonical_setPhase | apply canonical_dcrResume | apply canonical_serveHeld | apply canonical_floorsGranted | apply canonical_slipsOut | apply canonical_State_raiseIrq | split | simp only [canonical_mk, canon_fold, id_eq]

theorem canonical_exitFail (s : State) (h_s : s.canonical) : (exitFail s).canonical := by
  unfold exitFail
  try dsimp only
  with_reducible repeat' first | assumption | apply canonical_setPhase | apply canonical_State_setFld | apply canonical_State_appendRecord | apply canonical_State_raiseIrq | split | simp only [canonical_mk, canon_fold, id_eq]

theorem canonical_thermTrip (s : State) (sensor tj : Nat) (h_s : s.canonical) : (thermTrip s sensor tj).canonical := by
  unfold thermTrip
  try dsimp only
  with_reducible repeat' first | assumption | apply canonical_State_appendRecord | apply canonical_State_setFld | apply canonical_State_beginTeardown | apply canonical_beginEntry | apply canonical_State_raiseIrq | apply canonical_foldl | split | simp only [canonical_mk, canon_fold, id_eq] | intro _

theorem canonical_powerInterval (s : State) (temps : List Nat) (input : Nat) (h_s : s.canonical) : (powerInterval s temps input).canonical := by
  unfold powerInterval
  try dsimp only
  with_reducible repeat' first | assumption | apply canonical_takeReadings | apply canonical_thermTrip | apply canonical_throttle | apply canonical_countDown | apply canonical_arbitrate | apply canonical_State_setFld | apply canonical_foldl | split | simp only [canonical_mk, canon_fold, id_eq] | intro _

theorem canonical_lpExit (s : State) (n : Nat) (partner : Bool) (h_s : s.canonical) : (lpExit s n partner).canonical := by
  unfold lpExit
  try dsimp only
  with_reducible repeat' first | assumption | apply canonical_lpUp | apply canonical_wakeEvent | split

theorem canonical_pmeTurnOff (s : State) (h_s : s.canonical) : (pmeTurnOff s).canonical := by
  unfold pmeTurnOff
  try dsimp only
  with_reducible repeat' first | assumption | split | simp only [canonical_mk, canon_fold, id_eq]

theorem canonical_perstAssert (s : State) (h_s : s.canonical) : (perstAssert s).canonical := by
  unfold perstAssert
  try dsimp only
  with_reducible repeat' first | assumption | apply canonical_wakeEvent | apply canonical_State_setFld | split | simp only [canonical_mk, canon_fold, id_eq]

theorem canonical_perstDeassert (s : State) (h_s : s.canonical) : (perstDeassert s).canonical := by
  unfold perstDeassert
  try dsimp only
  with_reducible repeat' first | assumption | apply canonical_State_setFld | apply canonical_wakeEvent | apply canonical_warmStart | apply canonical_coldStart | split | simp only [canonical_mk, canon_fold, id_eq]

theorem canonical_setHost (s : State) (a : Nat) (bs : List HostByte) (h_s : s.canonical) : (setHost s a bs).canonical := by
  unfold setHost
  try dsimp only
  with_reducible repeat' first | assumption | apply canon_host | apply canonical_host | apply SMap.wf_set | apply wf_foldl | simp only [canonical_mk, canon_fold, id_eq] | intro _

theorem canonical_readCompletion (s : State) (a status : Nat) (bytes : List Byte) (h_s : s.canonical) : (readCompletion s a status bytes).canonical := by
  unfold readCompletion
  try dsimp only
  with_reducible repeat' first | assumption | apply canonical_setHost | apply canonical_reportAer | split

theorem canonical_readTimeout (s : State) (a n : Nat) (h_s : s.canonical) : (readTimeout s a n).canonical := by
  unfold readTimeout
  try dsimp only
  with_reducible repeat' first | assumption | apply canonical_reportAer | apply canonical_setHost

theorem canonical_irqStatWrite (s : State) (v : Nat) (h_s : s.canonical) : (irqStatWrite s v).canonical := by
  unfold irqStatWrite
  try dsimp only
  with_reducible repeat' first | assumption | apply canonical_plainWrite | split

theorem canonical_mateOpen (s : State) (h_s : s.canonical) : (mateOpen s).canonical := by
  unfold mateOpen
  try dsimp only
  with_reducible repeat' first | assumption | simp only [canonical_mk, canon_fold, id_eq]

theorem canonical_fwReject (s : State) (err : Nat) (h_s : s.canonical) : (fwReject s err).canonical := by
  unfold fwReject
  try dsimp only
  with_reducible repeat' first | assumption | apply canonical_State_appendRecord

theorem canonical_commitSvn (s : State) (h_s : s.canonical) : (commitSvn s).canonical := by
  unfold commitSvn
  try dsimp only
  with_reducible repeat' first | assumption | apply canonical_State_setFld | simp only [canonical_mk, canon_fold, id_eq]

theorem canonical_fwUpdWrite (s : State) (a : Acc) (v : Nat) (h_s : s.canonical) : (fwUpdWrite s a v).canonical := by
  unfold fwUpdWrite
  try dsimp only
  with_reducible repeat' first | assumption | apply canonical_State_setFld64 | apply canonical_State_setReg64 | apply canonical_commitSvn | split

theorem canonical_fwEnd (s : State) (state err : Nat) (h_s : s.canonical) : (fwEnd s state err).canonical := by
  unfold fwEnd
  try dsimp only
  with_reducible repeat' first | assumption | apply canonical_State_setFld64 | apply canonical_State_raiseIrq

theorem canonical_fwDone (s : State) (bad : Bool) (h_s : s.canonical) : (fwDone s bad).canonical := by
  unfold fwDone
  try dsimp only
  with_reducible repeat' first | assumption | apply canonical_memRead | apply canonical_fwReject | apply canonical_fwEnd | split | simp only [canonical_mk, canon_fold, id_eq]

theorem canonical_recovRej (s : State) (h_s : s.canonical) : (recovRej s).canonical := by
  unfold recovRej
  try dsimp only
  with_reducible repeat' first | assumption | apply canonical_State_setFld

theorem canonical_recovStart (s : State) (h_s : s.canonical) : (recovStart s).canonical := by
  unfold recovStart
  try dsimp only
  with_reducible repeat' first | assumption | apply canonical_recovRej | apply canonical_State_setFld | split | simp only [canonical_mk, canon_fold, id_eq]

theorem canonical_recovChunk (s : State) (h_s : s.canonical) : (recovChunk s).canonical := by
  unfold recovChunk
  try dsimp only
  with_reducible repeat' first | assumption | apply canonical_recovRej | split | simp only [canonical_mk, canon_fold, id_eq]

theorem canonical_recovDone (s : State) (bad : Bool) (h_s : s.canonical) : (recovDone s bad).canonical := by
  unfold recovDone
  try dsimp only
  with_reducible repeat' first | assumption | apply canonical_recovRej | apply canonical_State_setFld | apply canonical_fwReject | split | simp only [canonical_mk, canon_fold, id_eq]

theorem canonical_recovWrite (s : State) (v : Nat) (bad : Bool) (h_s : s.canonical) : (recovWrite s v bad).canonical := by
  unfold recovWrite
  try dsimp only
  with_reducible repeat' first | assumption | apply canonical_State_setFld | apply canonical_recovStart | apply canonical_recovChunk | apply canonical_recovDone | split

theorem canonical_answer (s : State) (x : Answer) (h_s : s.canonical) : (answer s x).canonical := by
  unfold answer
  try dsimp only
  with_reducible repeat' first | assumption | simp only [canonical_mk, canon_fold, id_eq]

theorem canonical_answerMctp (s : State) (x : Answer) (h_s : s.canonical) : (answerMctp s x).canonical := by
  unfold answerMctp
  try dsimp only
  with_reducible repeat' first | assumption | apply canonical_answer | simp only [canonical_mk, canon_fold, id_eq]

theorem canonical_answerSpdm (s : State) (x : Answer) (h_s : s.canonical) : (answerSpdm s x).canonical := by
  unfold answerSpdm
  try dsimp only
  with_reducible repeat' first | assumption | apply canonical_State_draw | apply canonical_answerMctp | apply canonical_answer | split

theorem canonical_attestRefused (s : State) (h_s : s.canonical) : (attestRefused s).canonical := by
  unfold attestRefused
  try dsimp only
  with_reducible repeat' first | assumption | apply canonical_answerSpdm | apply canonical_noteExhausted | apply canonical_State_count

theorem canonical_getMeasurements (s : State) (i : Nat) (signed : Bool) (nonce : List Byte) (h_s : s.canonical) : (getMeasurements s i signed nonce).canonical := by
  unfold getMeasurements
  try dsimp only
  with_reducible repeat' first | assumption | apply canonical_attestRefused | apply canonical_answerSpdm | apply canonical_noteExhausted | apply canonical_State_setReg | split

theorem canonical_spdmChallenge (s : State) (h_s : s.canonical) : (spdmChallenge s).canonical := by
  unfold spdmChallenge
  try dsimp only
  with_reducible repeat' first | assumption | apply canonical_attestRefused | apply canonical_answerSpdm | split

theorem canonical_getCertificate (s : State) (slot : Nat) (h_s : s.canonical) : (getCertificate s slot).canonical := by
  unfold getCertificate
  try dsimp only
  with_reducible repeat' first | assumption | apply canonical_answerSpdm | split

theorem canonical_openFails (s : State) (o : SessOpen) (err : Nat) (h_s : s.canonical) : (openFails s o err).canonical := by
  unfold openFails
  try dsimp only
  with_reducible repeat' first | assumption | apply canonical_State_setFld64 | apply canonical_State_appendRecord | apply canonical_State_raiseIrq

theorem canonical_dropOpening (s : State) (err : Nat) (h_s : s.canonical) : (dropOpening s err).canonical := by
  unfold dropOpening
  try dsimp only
  with_reducible repeat' first | assumption | apply canonical_openFails | apply canonical_State_setFld | split | simp only [canonical_mk, canon_fold, id_eq]

theorem canonical_dropArmed (s : State) (err : Nat) (h_s : s.canonical) : (dropArmed s err).canonical := by
  unfold dropArmed
  try dsimp only
  with_reducible repeat' first | assumption | apply canonical_openFails | split | simp only [canonical_mk, canon_fold, id_eq]

theorem canonical_sessionOpen (s : State) (o : SessOpen) (msgs : List (List Byte)) (h_s : s.canonical) : (sessionOpen s o msgs).canonical := by
  unfold sessionOpen
  try dsimp only
  with_reducible repeat' first | assumption | apply canonical_State_setReg | apply canonical_State_raiseIrq | simp only [canonical_mk, canon_fold, id_eq]

theorem canonical_putOut (s : State) (bs : List Byte) (h_s : s.canonical) : (putOut s bs).canonical := by
  unfold putOut
  try dsimp only
  with_reducible repeat' first | assumption | apply canonical_State_setReg | apply canonical_State_setFld | apply canonical_State_raiseIrq | apply canonical_foldl | intro _

theorem canonical_sessionRequest (s : State) (k peer : Nat) (h_s : s.canonical) : (sessionRequest s k peer).canonical := by
  unfold sessionRequest
  try dsimp only
  with_reducible repeat' first | assumption | apply canonical_State_setFld64 | apply canonical_putOut | split | simp only [canonical_mk, canon_fold, id_eq]

theorem canonical_sessionRespond (s : State) (k peer : Nat) (h_s : s.canonical) : (sessionRespond s k peer).canonical := by
  unfold sessionRespond
  try dsimp only
  with_reducible repeat' first | assumption | apply canonical_State_setFld64 | split | simp only [canonical_mk, canon_fold, id_eq]

theorem canonical_sessionClose (s : State) (k : Nat) (h_s : s.canonical) : (sessionClose s k).canonical := by
  unfold sessionClose
  try dsimp only
  with_reducible repeat' first | assumption | apply canonical_closeSession | apply canonical_dropOpening | apply canonical_dropArmed | split

theorem canonical_scmdWrite (s : State) (a : Acc) (v : Nat) (h_s : s.canonical) : (scmdWrite s a v).canonical := by
  unfold scmdWrite
  try dsimp only
  with_reducible repeat' first | assumption | apply canonical_State_setReg64 | apply canonical_sessionRequest | apply canonical_sessionRespond | apply canonical_sessionClose | split

theorem canonical_relayWrite (s : State) (v : Nat) (h_s : s.canonical) : (relayWrite s v).canonical := by
  unfold relayWrite
  try dsimp only
  with_reducible repeat' first | assumption | apply canonical_plainWrite | apply canonical_State_setFld | apply canonical_putOut | apply canonical_sessionOpen | apply canonical_dropOpening | split | simp only [canonical_mk, canon_fold, id_eq]

theorem canonical_openTimeout (s : State) (h_s : s.canonical) : (openTimeout s).canonical := by
  unfold openTimeout
  try dsimp only
  with_reducible repeat' first | assumption | apply canonical_dropOpening | split

theorem canonical_secModelWrite (s : State) (v : Nat) (h_s : s.canonical) : (secModelWrite s v).canonical := by
  unfold secModelWrite
  try dsimp only
  with_reducible repeat' first | assumption | apply canonical_modelWrite | apply canonical_dropArmed | apply canonical_dropOpening | split

theorem canonical_spdmRequest (s : State) (code : Nat) (payload : List Byte) (h_s : s.canonical) : (spdmRequest s code payload).canonical := by
  unfold spdmRequest
  try dsimp only
  with_reducible repeat' first | assumption | apply canonical_answerSpdm | apply canonical_sessionOpen | apply canonical_dropArmed | split | simp only [canonical_mk, canon_fold, id_eq]

theorem canonical_pldm (s : State) (i : Nat) (h_s : s.canonical) : (pldm s i).canonical := by
  unfold pldm
  try dsimp only
  with_reducible repeat' first | assumption | apply canonical_answerMctp | apply canonical_State_draw | split

theorem canonical_mctpControl (s : State) (cmd eid : Nat) (h_s : s.canonical) : (mctpControl s cmd eid).canonical := by
  unfold mctpControl
  try dsimp only
  with_reducible repeat' first | assumption | apply canonical_answerMctp | split | simp only [canonical_mk, canon_fold, id_eq]

theorem canonical_i3cAssign (s : State) (a : Option Nat) (h_s : s.canonical) : (i3cAssign s a).canonical := by
  unfold i3cAssign
  try dsimp only
  with_reducible repeat' first | assumption | split | simp only [canonical_mk, canon_fold, id_eq]

theorem canonical_doeDiscovery (s : State) (i : Nat) (h_s : s.canonical) : (doeDiscovery s i).canonical := by
  unfold doeDiscovery
  try dsimp only
  with_reducible repeat' first | assumption | apply canonical_answer | split

theorem canonical_searchBlocks (m : Search) (pred : Nat) : ∀ (y0 : List Nat) (y1 : State), y1.canonical → (searchBlocks m pred y0 y1).1.canonical := by
  intro y0 y1
  induction y0 generalizing y1 with
  | nil =>
    intro h1; unfold searchBlocks
    try dsimp only
    with_reducible repeat' first | assumption | apply ih | apply canonical_memReadNat | apply canonical_memWrite | apply canonical_State_count | split
  | cons a l ih =>
    intro h1; unfold searchBlocks
    try dsimp only
    with_reducible repeat' first | assumption | apply ih | apply canonical_memReadNat | apply canonical_memWrite | apply canonical_State_count | split

theorem canonical_searchJob (s : State) (j : CJob) (h_s : s.canonical) : (searchJob s j).canonical := by
  unfold searchJob
  try dsimp only
  with_reducible repeat' first | assumption | apply canonical_memRead | apply canonical_endJob | apply canonical_readPlane | apply canonical_searchBlocks | apply canonical_endWith | split

theorem canonical_codecSearch (s : State) (u : Nat) (h_s : s.canonical) : (codecSearch s u).canonical := by
  unfold codecSearch
  try dsimp only
  with_reducible repeat' first | assumption | apply canonical_onUnit | apply canonical_searchJob | split | intro _

theorem canonical_windowWrite (s : State) (n x : Nat) (a : Acc) (v : Nat) (h_s : s.canonical) : (windowWrite s n x a v).canonical := by
  unfold windowWrite
  try dsimp only
  with_reducible repeat' first | assumption | apply canonical_State_modEng | apply canonical_writeHalt | apply canonical_dbgWrite | apply canonical_writeSem | split

theorem canonical_tlyRead (s : State) (off : Nat) (a : Acc) (h_s : s.canonical) : (tlyRead s off a).1.canonical := by
  unfold tlyRead
  try dsimp only
  with_reducible repeat' first | assumption | apply canonical_State_setReg64 | split | simp only [canonical_mk, canon_fold, id_eq]

theorem canonical_regRead (s : State) (off : Nat) (a : Acc) (h_s : s.canonical) : (regRead s off a).1.canonical := by
  unfold regRead
  try dsimp only
  with_reducible repeat' first | assumption | apply canonical_dbgRead | apply canonical_tlyRead | apply canonical_plainRead | split

theorem canonical_read32 (s : State) (off : Nat) (h_s : s.canonical) : (read32 s off).1.canonical := by
  unfold read32
  try dsimp only
  with_reducible repeat' first | assumption | apply canonical_regRead | split

theorem canonical_serveRead (s : State) (off : Nat) (go : State → State × Nat) (ones : Nat) (h_s : s.canonical) (h_go : ∀ x0, x0.canonical → (go x0).1.canonical) : (serveRead s off go ones).1.canonical := by
  unfold serveRead
  try dsimp only
  with_reducible repeat' first | assumption | apply h_go | split

theorem canonical_bar0Read (s : State) (off n : Nat) (h_s : s.canonical) : (bar0Read s off n).canonical := by
  unfold bar0Read
  try dsimp only
  with_reducible repeat' first | assumption | apply canonical_answerWord | apply canonical_serveRead | apply canonical_regRead | apply canonical_read32 | split | simp only [canonical_mk, canon_fold, id_eq] | intro _

theorem canonical_ctxCtlWrite (s : State) (c v : Nat) (h_s : s.canonical) : (ctxCtlWrite s c v).canonical := by
  unfold ctxCtlWrite
  try dsimp only
  with_reducible repeat' first | assumption | apply canonical_plainWrite | apply canonical_ctxOpen | apply canonical_ctxPreempt | apply canonical_ctxResume | apply canonical_ctxTeardown | apply canonical_ctxEnd | split

theorem canonical_msixWrite (s : State) (off v : Nat) (h_s : s.canonical) : (msixWrite s off v).canonical := by
  unfold msixWrite
  try dsimp only
  with_reducible repeat' first | assumption | apply canonical_plainWrite | apply canonical_State_setFld | apply canonical_State_sendVector | split

theorem canonical_hubWrite (s : State) (off : Nat) (a : Acc) (v : Nat) (h_s : s.canonical) : (hubWrite s off a v).canonical := by
  unfold hubWrite
  try dsimp only
  with_reducible repeat' first | assumption | apply canonical_hubResetWrite | apply canonical_dcrCmdWrite | apply canonical_retireWrite | apply canonical_bar2BaseWrite | apply canonical_recovWrite | apply canonical_msixWrite | apply canonical_plainWriteAcc | split

theorem canonical_pwrWrite (s : State) (off v : Nat) (h_s : s.canonical) : (pwrWrite s off v).canonical := by
  unfold pwrWrite
  try dsimp only
  with_reducible repeat' first | assumption | apply canonical_budgetWrite | apply canonical_stateWrite | apply canonical_reqWrite | apply canonical_oppWrite | apply canonical_ivrWrite | apply canonical_plainWrite | split

theorem canonical_schWrite (s : State) (off : Nat) (a : Acc) (v : Nat) (h_s : s.canonical) : (schWrite s off a v).canonical := by
  unfold schWrite
  try dsimp only
  with_reducible repeat' first | assumption | apply canonical_ringCtlWrite | apply canonical_ctxCtlWrite | apply canonical_ctxSetWrite | apply canonical_plainWriteAcc | apply canonical_writeMonCtl | split

theorem canonical_secWrite (s : State) (off : Nat) (a : Acc) (v : Nat) (h_s : s.canonical) : (secWrite s off a v).canonical := by
  unfold secWrite
  try dsimp only
  with_reducible repeat' first | assumption | apply canonical_fwUpdWrite | apply canonical_scmdWrite | apply canonical_relayWrite | apply canonical_secModelWrite | apply canonical_kcmdWrite | apply canonical_plainWriteAcc | split

theorem canonical_memBlockWrite (s : State) (off : Nat) (a : Acc) (v : Nat) (h_s : s.canonical) : (memBlockWrite s off a v).canonical := by
  unfold memBlockWrite
  try dsimp only
  with_reducible repeat' first | assumption | apply canonical_mapWrite | apply canonical_partWrite | apply canonical_allocWrite | apply canonical_plainWriteAcc | split

theorem canonical_regWrite (s : State) (off : Nat) (a : Acc) (v : Nat) (h_s : s.canonical) : (regWrite s off a v).canonical := by
  unfold regWrite
  try dsimp only
  with_reducible repeat' first | assumption | apply canonical_windowWrite | apply canonical_hubWrite | apply canonical_pwrWrite | apply canonical_writeErrHead | apply canonical_plainWriteAcc | apply canonical_schWrite | apply canonical_secWrite | apply canonical_ringCtlWrite | apply canonical_linkWrite | apply canonical_memBlockWrite | split

theorem canonical_write32 (s : State) (off v : Nat) (h_s : s.canonical) : (write32 s off v).canonical := by
  unfold write32
  try dsimp only
  with_reducible repeat' first | assumption | apply canonical_regWrite | split

theorem canonical_word32 (s : State) (off v : Nat) (h_s : s.canonical) : (word32 s off v).canonical := by
  unfold word32
  try dsimp only
  with_reducible repeat' first | assumption | apply canonical_write32 | split

theorem canonical_word64 (s : State) (off v : Nat) (h_s : s.canonical) : (word64 s off v).canonical := by
  unfold word64
  try dsimp only
  with_reducible repeat' first | assumption | apply canonical_regWrite | apply canonical_word32 | split

theorem canonical_bar0Write (s : State) (off n : Nat) (poison : Bool) (v : Nat) (h_s : s.canonical) : (bar0Write s off n poison v).canonical := by
  unfold bar0Write
  try dsimp only
  with_reducible repeat' first | assumption | apply canonical_poisonedWrite | apply canonical_word64 | apply canonical_word32 | split

theorem canonical_mctpRead (s : State) (off : Nat) (h_s : s.canonical) : (mctpRead s off).canonical := by
  unfold mctpRead
  try dsimp only
  with_reducible repeat' first | assumption | apply canonical_answerMctp | apply canonical_serveRead | apply canonical_read32 | split | refine canonical_fst (by assumption) ?_ | intro _

theorem canonical_mctpWrite (s : State) (off v : Nat) (h_s : s.canonical) : (mctpWrite s off v).canonical := by
  unfold mctpWrite
  try dsimp only
  with_reducible repeat' first | assumption | apply canonical_word32 | split

theorem canonical_ferryEnd (s : State) (d : FerryDesc) (stat : Nat) (record : Bool) (h_s : s.canonical) : (ferryEnd s d stat record).canonical := by
  unfold ferryEnd
  try dsimp only
  with_reducible repeat' first | assumption | apply canonical_memWrite | apply canonical_State_count | apply canonical_State_appendRecord | apply canonical_State_setFld | apply canonical_State_raiseIrq | split | simp only [canonical_mk, canon_fold, id_eq]

theorem canonical_ferryCopy (s : State) (src dst n : Nat) (h_s : s.canonical) : (ferryCopy s src dst n).1.canonical := by
  unfold ferryCopy
  try dsimp only
  with_reducible repeat' first | assumption | apply canonical_memRead | apply canonical_memWrite | split

theorem canonical_ferryPage (out : Bool) (src dst n : Nat) (s : State) (h_s : s.canonical) : (ferryPage out src dst n s).1.canonical := by
  unfold ferryPage
  try dsimp only
  with_reducible repeat' first | assumption | apply canonical_ferryCopy | split

theorem canonical_ferrySwap (s : State) (d : FerryDesc) (out : Bool) (h_s : s.canonical) : (ferrySwap s d out).canonical := by
  unfold ferrySwap
  try dsimp only
  with_reducible repeat' first | assumption | apply canonical_ferryEnd | apply canonical_memReadNat | apply canonical_ferryPage | apply canonical_writeEdit | split | simp only [canonical_mk, canon_fold, id_eq]

theorem canonical_ferryFetch (s : State) (h_s : s.canonical) : (ferryFetch s).1.canonical := by
  unfold ferryFetch
  try dsimp only
  with_reducible repeat' first | assumption | apply canonical_memRead | apply canonical_ferryEnd | split

theorem canonical_ferryNext (s : State) (takes : Nat → Bool) (go : State → FerryDesc → State) (h_s : s.canonical) (h_go : ∀ x0 x1, x0.canonical → (go x0 x1).canonical) : (ferryNext s takes go).canonical := by
  unfold ferryNext
  try dsimp only
  with_reducible repeat' first | assumption | apply h_go | apply canonical_ferryFetch | split

theorem canonical_ferryCommit (s : State) (h_s : s.canonical) : (ferryCommit s).canonical := by
  unfold ferryCommit
  try dsimp only
  with_reducible repeat' first | assumption | apply canonical_memRead | apply canonical_writeEdit | apply canonical_dropEdit | apply canonical_ferryEnd | split

theorem canonical_tickCtx (s : State) (c : Nat) (h_s : s.canonical) : (tickCtx s c).canonical := by
  unfold tickCtx
  try dsimp only
  with_reducible repeat' first | assumption | apply canonical_State_modCtx | split

theorem canonical_tickLate (s : State) (h_s : s.canonical) : (tickLate s).canonical := by
  unfold tickLate
  try dsimp only
  with_reducible repeat' first | assumption | simp only [canonical_mk, canon_fold, id_eq]

theorem canonical_tickSlip (s : State) (n : Nat) (h_s : s.canonical) : (tickSlip s n).canonical := by
  unfold tickSlip
  try dsimp only
  with_reducible repeat' first | assumption | apply canonical_emitLink | split

theorem canonical_tickFunction (s : State) (h_s : s.canonical) : (tickFunction s).canonical := by
  unfold tickFunction
  try dsimp only
  with_reducible repeat' first | assumption | apply canonical_reportAer | split | simp only [canonical_mk, canon_fold, id_eq]

theorem canonical_tickJobs (s : State) (h_s : s.canonical) : (tickJobs s).canonical := by
  unfold tickJobs
  try dsimp only
  with_reducible repeat' first | assumption | simp only [canonical_mk, canon_fold, id_eq]

theorem canonical_tick (s : State) (h_s : s.canonical) : (tick s).canonical := by
  unfold tick
  try dsimp only
  with_reducible repeat' first | assumption | apply canonical_tickFunction | apply canonical_tickSlip | apply canonical_tickJobs | apply canonical_tickLate | apply canonical_tickCtx | apply canonical_State_modEng | apply canonical_foldl | split | simp only [canonical_mk, canon_fold, id_eq] | intro _

end Sys2Proof.Machine
end

