-- ==== Sys2Proof/Laws/CanonCmds.lean ====
section
/-! SUPPORT. What keeps the canonical form: the meanings of the commands. -/

set_option linter.unusedSimpArgs false

namespace Sys2Proof.Machine

theorem canonical_withHbm (s : State) (go : State → State) (h_s : s.canonical) (h_go : ∀ x0, x0.canonical → (go x0).canonical) : (withHbm s go).canonical := by
  unfold withHbm
  try dsimp only
  with_reducible repeat' first | assumption | apply h_go | split

theorem canonical_onEngine (s : State) (e : Nat) (go : State → State) (h_s : s.canonical) (h_go : ∀ x0, x0.canonical → (go x0).canonical) : (onEngine s e go).canonical := by
  unfold onEngine
  try dsimp only
  with_reducible repeat' first | assumption | apply h_go | split

theorem canonical_onCtx (s : State) (c : Nat) (go : State → Nat → State) (h_s : s.canonical) (h_go : ∀ x0 x1, x0.canonical → (go x0 x1).canonical) : (onCtx s c go).canonical := by
  unfold onCtx
  try dsimp only
  with_reducible repeat' first | assumption | apply h_go | split

theorem canonical_slipWrite (s : State) (n : Nat) (go : State → Nat → State) (h_s : s.canonical) (h_go : ∀ x0 x1, x0.canonical → (go x0 x1).canonical) : (slipWrite s n go).canonical := by
  unfold slipWrite
  try dsimp only
  with_reducible repeat' first | assumption | apply h_go | split

theorem canonical_onCol (s : State) (g : Nat) (go : State → State) (h_s : s.canonical) (h_go : ∀ x0, x0.canonical → (go x0).canonical) : (onCol s g go).canonical := by
  unfold onCol
  try dsimp only
  with_reducible repeat' first | assumption | apply h_go | split

theorem canonical_releaseWrite (s : State) (n : Nat) (h_s : s.canonical) : (releaseWrite s n).canonical := by
  unfold releaseWrite
  try dsimp only
  with_reducible repeat' first | assumption | apply canonical_release | split

theorem canonical_srMsgGo (s : State) (d a : Nat) (h_s : s.canonical) : (srMsgGo s d a).canonical := by
  unfold srMsgGo
  try dsimp only
  with_reducible repeat' first | assumption | apply canonical_srMsgWrite | split

theorem canonical_tlyCounterRead (s : State) (n k : Nat) (a : Acc) (h_s : s.canonical) : (tlyCounterRead s n k a).canonical := by
  unfold tlyCounterRead
  try dsimp only
  with_reducible repeat' first | assumption | apply canonical_serveRead | apply canonical_tlyRead | apply canonical_answerWord | split | intro _

theorem canonical_startNext (s : State) (e : Nat) (fill : Bool) (h_s : s.canonical) : (startNext s e fill).canonical := by
  unfold startNext
  try dsimp only
  with_reducible repeat' first | assumption | apply canonical_collStartNext | apply canonical_startPlain | split

theorem canonical_codecInvalid (s : State) (h_s : s.canonical) : (codecInvalid s).canonical := by
  unfold codecInvalid
  try dsimp only
  with_reducible repeat' first | assumption | apply canonical_endJob | split

theorem canonical_execPowerGood (mid : BitVec 5) (s : State) (h_s : s.canonical) {t : State} (e : (execPowerGood mid s) = .next t) : t.canonical := by
  unfold execPowerGood at e
  injection e with e
  subst e
  try dsimp only
  with_reducible repeat' first | assumption | apply canonical_powerGood

theorem canonical_execPerstDeassert (s : State) (h_s : s.canonical) {t : State} (e : (execPerstDeassert s) = .next t) : t.canonical := by
  unfold execPerstDeassert at e
  injection e with e
  subst e
  try dsimp only
  with_reducible repeat' first | assumption | apply canonical_perstDeassert

theorem canonical_execPerstAssert (s : State) (h_s : s.canonical) {t : State} (e : (execPerstAssert s) = .next t) : t.canonical := by
  unfold execPerstAssert at e
  injection e with e
  subst e
  try dsimp only
  with_reducible repeat' first | assumption | apply canonical_perstAssert

theorem canonical_execPmeTurnOff (s : State) (h_s : s.canonical) {t : State} (e : (execPmeTurnOff s) = .next t) : t.canonical := by
  unfold execPmeTurnOff at e
  injection e with e
  subst e
  try dsimp only
  with_reducible repeat' first | assumption | apply canonical_pmeTurnOff

theorem canonical_execWarmReset (s : State) (h_s : s.canonical) {t : State} (e : (execWarmReset s) = .next t) : t.canonical := by
  unfold execWarmReset at e
  injection e with e
  subst e
  try dsimp only
  with_reducible repeat' first | assumption | apply canonical_hubResetWrite

theorem canonical_execComputeReset (s : State) (h_s : s.canonical) {t : State} (e : (execComputeReset s) = .next t) : t.canonical := by
  unfold execComputeReset at e
  injection e with e
  subst e
  try dsimp only
  with_reducible repeat' first | assumption | apply canonical_hubResetWrite

theorem canonical_execColdReset (s : State) (h_s : s.canonical) {t : State} (e : (execColdReset s) = .next t) : t.canonical := by
  unfold execColdReset at e
  injection e with e
  subst e
  try dsimp only
  with_reducible repeat' first | assumption | apply canonical_hubResetWrite

theorem canonical_execStartStepDone (step : Fin 12) (pass : BitVec 104) (s : State) (h_s : s.canonical) {t : State} (e : (execStartStepDone step pass s) = .next t) : t.canonical := by
  unfold execStartStepDone at e
  injection e with e
  subst e
  try dsimp only
  with_reducible repeat' first | assumption | apply canonical_startDone

theorem canonical_execStartStepTimeout (code : BitVec 8) (s : State) (h_s : s.canonical) {t : State} (e : (execStartStepTimeout code s) = .next t) : t.canonical := by
  unfold execStartStepTimeout at e
  injection e with e
  subst e
  try dsimp only
  with_reducible repeat' first | assumption | apply canonical_startTimeout

theorem canonical_execLateEngineFailure (e : EngId) (s : State) (h_s : s.canonical) {t : State} (e : (execLateEngineFailure e s) = .next t) : t.canonical := by
  unfold execLateEngineFailure at e
  injection e with e
  subst e
  try dsimp only
  with_reducible repeat' first | assumption | apply canonical_lateEngine

theorem canonical_execSpareTestDone (e : EngId) (pass : Bool) (s : State) (h_s : s.canonical) {t : State} (e : (execSpareTestDone e pass s) = .next t) : t.canonical := by
  unfold execSpareTestDone at e
  injection e with e
  subst e
  try dsimp only
  with_reducible repeat' first | assumption | apply canonical_spareTested

theorem canonical_execHubRetire (n : BitVec 7) (s : State) (h_s : s.canonical) {t : State} (e : (execHubRetire n s) = .next t) : t.canonical := by
  unfold execHubRetire at e
  injection e with e
  subst e
  try dsimp only
  with_reducible repeat' first | assumption | apply canonical_retireWrite

theorem canonical_execDcrWrite (bad : Bool) (s : State) (h_s : s.canonical) {t : State} (e : (execDcrWrite bad s) = .next t) : t.canonical := by
  unfold execDcrWrite at e
  injection e with e
  subst e
  try dsimp only
  with_reducible repeat' first | assumption | apply canonical_dcrWrite

theorem canonical_execLmsReservationCommit (s : State) (h_s : s.canonical) {t : State} (e : (execLmsReservationCommit s) = .next t) : t.canonical := by
  unfold execLmsReservationCommit at e
  injection e with e
  subst e
  try dsimp only
  with_reducible repeat' first | assumption | apply canonical_lmsCommit

theorem canonical_execDcrcmdWrite (s : State) (h_s : s.canonical) {t : State} (e : (execDcrcmdWrite s) = .next t) : t.canonical := by
  unfold execDcrcmdWrite at e
  injection e with e
  subst e
  try dsimp only
  with_reducible repeat' first | assumption | apply canonical_dcrCmdWrite

theorem canonical_execDcrcmdSetTopology (a : DevAddr) (s : State) (h_s : s.canonical) {t : State} (e : (execDcrcmdSetTopology a s) = .next t) : t.canonical := by
  unfold execDcrcmdSetTopology at e
  injection e with e
  subst e
  try dsimp only
  with_reducible repeat' first | assumption | apply canonical_dcrCmdWrite

theorem canonical_execDcrcmdClearRetired (s : State) (h_s : s.canonical) {t : State} (e : (execDcrcmdClearRetired s) = .next t) : t.canonical := by
  unfold execDcrcmdClearRetired at e
  injection e with e
  subst e
  try dsimp only
  with_reducible repeat' first | assumption | apply canonical_dcrCmdWrite

theorem canonical_execDcrcmdClearTopology (s : State) (h_s : s.canonical) {t : State} (e : (execDcrcmdClearTopology s) = .next t) : t.canonical := by
  unfold execDcrcmdClearTopology at e
  injection e with e
  subst e
  try dsimp only
  with_reducible repeat' first | assumption | apply canonical_dcrCmdWrite

theorem canonical_execInputPowerLoss (s : State) (h_s : s.canonical) {t : State} (e : (execInputPowerLoss s) = .next t) : t.canonical := by
  unfold execInputPowerLoss at e
  injection e with e
  subst e
  try dsimp only
  with_reducible repeat' first | assumption | apply canonical_powerLoss

theorem canonical_execCollectiveStepStart (e : EngId) (s : State) (h_s : s.canonical) {t : State} (e : (execCollectiveStepStart e s) = .next t) : t.canonical := by
  unfold execCollectiveStepStart at e
  injection e with e
  subst e
  try dsimp only
  with_reducible repeat' first | assumption | apply canonical_collStartNext

theorem canonical_execReadyMsg (s : State) (h_s : s.canonical) {t : State} (e : (execReadyMsg s) = .next t) : t.canonical := by
  unfold execReadyMsg at e
  injection e with e
  subst e
  try dsimp only
  with_reducible repeat' first | assumption | apply canonical_withHbm | apply canonical_onInbox | apply canonical_collMsg | intro _

theorem canonical_execDataMsg (s : State) (h_s : s.canonical) {t : State} (e : (execDataMsg s) = .next t) : t.canonical := by
  unfold execDataMsg at e
  injection e with e
  subst e
  try dsimp only
  with_reducible repeat' first | assumption | apply canonical_withHbm | apply canonical_onInbox | apply canonical_collMsg | intro _

theorem canonical_execPartialMsg (s : State) (h_s : s.canonical) {t : State} (e : (execPartialMsg s) = .next t) : t.canonical := by
  unfold execPartialMsg at e
  injection e with e
  subst e
  try dsimp only
  with_reducible repeat' first | assumption | apply canonical_withHbm | apply canonical_onInbox | apply canonical_collMsg | intro _

theorem canonical_execCreditMsg (s : State) (h_s : s.canonical) {t : State} (e : (execCreditMsg s) = .next t) : t.canonical := by
  unfold execCreditMsg at e
  injection e with e
  subst e
  try dsimp only
  with_reducible repeat' first | assumption | apply canonical_withHbm | apply canonical_onInbox | apply canonical_collMsg | intro _

theorem canonical_execAbortMsg (s : State) (h_s : s.canonical) {t : State} (e : (execAbortMsg s) = .next t) : t.canonical := by
  unfold execAbortMsg at e
  injection e with e
  subst e
  try dsimp only
  with_reducible repeat' first | assumption | apply canonical_withHbm | apply canonical_onInbox | apply canonical_collMsg | intro _

theorem canonical_execAckMsg (s : State) (h_s : s.canonical) {t : State} (e : (execAckMsg s) = .next t) : t.canonical := by
  unfold execAckMsg at e
  injection e with e
  subst e
  try dsimp only
  with_reducible repeat' first | assumption | apply canonical_onInbox | apply canonical_takeAck

theorem canonical_execCollectiveStepComplete (d : Fin 2) (k : Fin 128) (s : State) (h_s : s.canonical) {t : State} (e : (execCollectiveStepComplete d k s) = .next t) : t.canonical := by
  unfold execCollectiveStepComplete at e
  injection e with e
  subst e
  try dsimp only
  with_reducible repeat' first | assumption | apply canonical_collComplete

theorem canonical_execCollectiveStepTimeout (d : Fin 2) (k : Fin 128) (s : State) (h_s : s.canonical) {t : State} (e : (execCollectiveStepTimeout d k s) = .next t) : t.canonical := by
  unfold execCollectiveStepTimeout at e
  injection e with e
  subst e
  try dsimp only
  with_reducible repeat' first | assumption | apply canonical_collTimeout

theorem canonical_execColGroupCfgWrite (g : Fin 256) (a : Acc) (v : Word64) (s : State) (h_s : s.canonical) {t : State} (e : (execColGroupCfgWrite g a v s) = .next t) : t.canonical := by
  unfold execColGroupCfgWrite at e
  injection e with e
  subst e
  try dsimp only
  with_reducible repeat' first | assumption | apply canonical_onCol | apply canonical_colCfgWrite | intro _

theorem canonical_execColGroupMemWrite (g : Fin 256) (a : Acc) (v : Word64) (s : State) (h_s : s.canonical) {t : State} (e : (execColGroupMemWrite g a v s) = .next t) : t.canonical := by
  unfold execColGroupMemWrite at e
  injection e with e
  subst e
  try dsimp only
  with_reducible repeat' first | assumption | apply canonical_onCol | apply canonical_colMemWrite | intro _

theorem canonical_execColActiveWrite (v : Word32) (s : State) (h_s : s.canonical) {t : State} (e : (execColActiveWrite v s) = .next t) : t.canonical := by
  unfold execColActiveWrite at e
  injection e with e
  subst e
  try dsimp only
  with_reducible repeat' first | assumption | apply canonical_onCol | apply canonical_colActiveWrite | intro _

theorem canonical_execCollInvalidKind (s : State) (h_s : s.canonical) {t : State} (e : (execCollInvalidKind s) = .next t) : t.canonical := by
  unfold execCollInvalidKind at e
  injection e with e
  subst e
  try dsimp only
  with_reducible repeat' first | assumption | apply canonical_onInbox | apply canonical_collBad

theorem canonical_execCtxOpen (c : CtxId) (s : State) (h_s : s.canonical) {t : State} (e : (execCtxOpen c s) = .next t) : t.canonical := by
  unfold execCtxOpen at e
  injection e with e
  subst e
  try dsimp only
  with_reducible repeat' first | assumption | apply canonical_onCtx | apply canonical_ctxOpen

theorem canonical_execCtxPreempt (c : CtxId) (s : State) (h_s : s.canonical) {t : State} (e : (execCtxPreempt c s) = .next t) : t.canonical := by
  unfold execCtxPreempt at e
  injection e with e
  subst e
  try dsimp only
  with_reducible repeat' first | assumption | apply canonical_onCtx | apply canonical_ctxPreempt

theorem canonical_execCtxResume (c : CtxId) (s : State) (h_s : s.canonical) {t : State} (e : (execCtxResume c s) = .next t) : t.canonical := by
  unfold execCtxResume at e
  injection e with e
  subst e
  try dsimp only
  with_reducible repeat' first | assumption | apply canonical_onCtx | apply canonical_ctxResume

theorem canonical_execCtxTeardown (c : CtxId) (s : State) (h_s : s.canonical) {t : State} (e : (execCtxTeardown c s) = .next t) : t.canonical := by
  unfold execCtxTeardown at e
  injection e with e
  subst e
  try dsimp only
  with_reducible repeat' first | assumption | apply canonical_onCtx | apply canonical_ctxTeardown

theorem canonical_execCtxEnd (c : CtxId) (s : State) (h_s : s.canonical) {t : State} (e : (execCtxEnd c s) = .next t) : t.canonical := by
  unfold execCtxEnd at e
  injection e with e
  subst e
  try dsimp only
  with_reducible repeat' first | assumption | apply canonical_onCtx | apply canonical_ctxEnd

theorem canonical_execCtxSetWrite (c : CtxId) (k : Fin 3) (v : Word32) (s : State) (h_s : s.canonical) {t : State} (e : (execCtxSetWrite c k v s) = .next t) : t.canonical := by
  unfold execCtxSetWrite at e
  injection e with e
  subst e
  try dsimp only
  with_reducible repeat' first | assumption | apply canonical_onCtx | apply canonical_ctxSetWrite | intro _

theorem canonical_execDispatch (s : State) (h_s : s.canonical) {t : State} (e : (execDispatch s) = .next t) : t.canonical := by
  unfold execDispatch at e
  injection e with e
  subst e
  try dsimp only
  with_reducible repeat' first | assumption | apply canonical_withHbm | apply canonical_dispatch

theorem canonical_execWorkItemComplete (c : CtxId) (s : State) (h_s : s.canonical) {t : State} (e : (execWorkItemComplete c s) = .next t) : t.canonical := by
  unfold execWorkItemComplete at e
  injection e with e
  subst e
  try dsimp only
  with_reducible repeat' first | assumption | apply canonical_workComplete

theorem canonical_execContextSave (c : CtxId) (s : State) (h_s : s.canonical) {t : State} (e : (execContextSave c s) = .next t) : t.canonical := by
  unfold execContextSave at e
  injection e with e
  subst e
  try dsimp only
  with_reducible repeat' first | assumption | apply canonical_withHbm | apply canonical_contextSave | intro _

theorem canonical_execContextRestore (c : CtxId) (s : State) (h_s : s.canonical) {t : State} (e : (execContextRestore c s) = .next t) : t.canonical := by
  unfold execContextRestore at e
  injection e with e
  subst e
  try dsimp only
  with_reducible repeat' first | assumption | apply canonical_withHbm | apply canonical_contextRestore | intro _

theorem canonical_execPreemptTimeout (c : CtxId) (s : State) (h_s : s.canonical) {t : State} (e : (execPreemptTimeout c s) = .next t) : t.canonical := by
  unfold execPreemptTimeout at e
  injection e with e
  subst e
  try dsimp only
  with_reducible repeat' first | assumption | apply canonical_preemptTimeout

theorem canonical_execDeadlineMonitorMark (s : State) (h_s : s.canonical) {t : State} (e : (execDeadlineMonitorMark s) = .next t) : t.canonical := by
  unfold execDeadlineMonitorMark at e
  injection e with e
  subst e
  try dsimp only
  with_reducible repeat' first | assumption | apply canonical_markNext

theorem canonical_execTeardown (c : CtxId) (s : State) (h_s : s.canonical) {t : State} (e : (execTeardown c s) = .next t) : t.canonical := by
  unfold execTeardown at e
  injection e with e
  subst e
  try dsimp only
  with_reducible repeat' first | assumption | apply canonical_teardown

theorem canonical_execTeardownStall (c : CtxId) (s : State) (h_s : s.canonical) {t : State} (e : (execTeardownStall c s) = .next t) : t.canonical := by
  unfold execTeardownStall at e
  injection e with e
  subst e
  try dsimp only
  with_reducible repeat' first | assumption | apply canonical_teardownStall

theorem canonical_execErrHeadWrite (v : Word32) (s : State) (h_s : s.canonical) {t : State} (e : (execErrHeadWrite v s) = .next t) : t.canonical := by
  unfold execErrHeadWrite at e
  injection e with e
  subst e
  try dsimp only
  with_reducible repeat' first | assumption | apply canonical_writeErrHead

theorem canonical_execFatalContainment (cause : BitVec 8) (s : State) (h_s : s.canonical) {t : State} (e : (execFatalContainment cause s) = .next t) : t.canonical := by
  unfold execFatalContainment at e
  injection e with e
  subst e
  try dsimp only
  with_reducible repeat' first | assumption | apply canonical_contain

theorem canonical_execSlipDetect (n : SlipId) (s : State) (h_s : s.canonical) {t : State} (e : (execSlipDetect n s) = .next t) : t.canonical := by
  unfold execSlipDetect at e
  injection e with e
  subst e
  try dsimp only
  with_reducible repeat' first | assumption | apply canonical_detected

theorem canonical_execDetectTimeout (n : SlipId) (s : State) (h_s : s.canonical) {t : State} (e : (execDetectTimeout n s) = .next t) : t.canonical := by
  unfold execDetectTimeout at e
  injection e with e
  subst e
  try dsimp only
  with_reducible repeat' first | assumption | apply canonical_detectTimeout

theorem canonical_execFasteqDone (n : SlipId) (ok : Bool) (s : State) (h_s : s.canonical) {t : State} (e : (execFasteqDone n ok s) = .next t) : t.canonical := by
  unfold execFasteqDone at e
  injection e with e
  subst e
  try dsimp only
  with_reducible repeat' first | assumption | apply canonical_fastEqDone

theorem canonical_execEqAttemptDone (n : SlipId) (ok : Bool) (s : State) (h_s : s.canonical) {t : State} (e : (execEqAttemptDone n ok s) = .next t) : t.canonical := by
  unfold execEqAttemptDone at e
  injection e with e
  subst e
  try dsimp only
  with_reducible repeat' first | assumption | apply canonical_eqDone

theorem canonical_execSlipConfig (n : SlipId) (mine : BitVec 8) (theirs : BitVec 8) (order : Fin 3) (inv : BitVec 8) (uid : Word64) (pslip : SlipId) (peer : BitVec 24) (s : State) (h_s : s.canonical) {t : State} (e : (execSlipConfig n mine theirs order inv uid pslip peer s) = .next t) : t.canonical := by
  unfold execSlipConfig at e
  injection e with e
  subst e
  try dsimp only
  with_reducible repeat' first | assumption | apply canonical_joinOnUp | apply canonical_slipConfig | split

theorem canonical_execRedetectTimer (n : SlipId) (s : State) (h_s : s.canonical) {t : State} (e : (execRedetectTimer n s) = .next t) : t.canonical := by
  unfold execRedetectTimer at e
  injection e with e
  subst e
  try dsimp only
  with_reducible repeat' first | assumption | apply canonical_redetect

theorem canonical_execSlipRetrain (n : SlipId) (s : State) (h_s : s.canonical) {t : State} (e : (execSlipRetrain n s) = .next t) : t.canonical := by
  unfold execSlipRetrain at e
  injection e with e
  subst e
  try dsimp only
  with_reducible repeat' first | assumption | apply canonical_slipWrite | apply canonical_retrain

theorem canonical_execSlipDisable (n : SlipId) (s : State) (h_s : s.canonical) {t : State} (e : (execSlipDisable n s) = .next t) : t.canonical := by
  unfold execSlipDisable at e
  injection e with e
  subst e
  try dsimp only
  with_reducible repeat' first | assumption | apply canonical_slipWrite | apply canonical_disableSlip

theorem canonical_execLossOfSignal (n : SlipId) (s : State) (h_s : s.canonical) {t : State} (e : (execLossOfSignal n s) = .next t) : t.canonical := by
  unfold execLossOfSignal at e
  injection e with e
  subst e
  try dsimp only
  with_reducible repeat' first | assumption | apply canonical_linkDown

theorem canonical_execDataFlitReceive (n : SlipId) (bytes : List Byte) (s : State) (h_s : s.canonical) {t : State} (e : (execDataFlitReceive n bytes s) = .next t) : t.canonical := by
  unfold execDataFlitReceive at e
  injection e with e
  subst e
  try dsimp only
  with_reducible repeat' first | assumption | apply canonical_dataFlit

theorem canonical_execIdleFlitReceive (n : SlipId) (bytes : List Byte) (s : State) (h_s : s.canonical) {t : State} (e : (execIdleFlitReceive n bytes s) = .next t) : t.canonical := by
  unfold execIdleFlitReceive at e
  injection e with e
  subst e
  try dsimp only
  with_reducible repeat' first | assumption | apply canonical_idleFlit

theorem canonical_execNak (n : SlipId) (bytes : List Byte) (s : State) (h_s : s.canonical) {t : State} (e : (execNak n bytes s) = .next t) : t.canonical := by
  unfold execNak at e
  injection e with e
  subst e
  try dsimp only
  with_reducible repeat' first | assumption | apply canonical_nakFlit

theorem canonical_execCut (n : SlipId) (bytes : List Byte) (s : State) (h_s : s.canonical) {t : State} (e : (execCut n bytes s) = .next t) : t.canonical := by
  unfold execCut at e
  injection e with e
  subst e
  try dsimp only
  with_reducible repeat' first | assumption | apply canonical_cutFlit

theorem canonical_execLpreq (n : SlipId) (bytes : List Byte) (s : State) (h_s : s.canonical) {t : State} (e : (execLpreq n bytes s) = .next t) : t.canonical := by
  unfold execLpreq at e
  injection e with e
  subst e
  try dsimp only
  with_reducible repeat' first | assumption | apply canonical_lpReq

theorem canonical_execLpack (n : SlipId) (bytes : List Byte) (s : State) (h_s : s.canonical) {t : State} (e : (execLpack n bytes s) = .next t) : t.canonical := by
  unfold execLpack at e
  injection e with e
  subst e
  try dsimp only
  with_reducible repeat' first | assumption | apply canonical_lpAck

theorem canonical_execLpExit (n : SlipId) (partner : Bool) (s : State) (h_s : s.canonical) {t : State} (e : (execLpExit n partner s) = .next t) : t.canonical := by
  unfold execLpExit at e
  injection e with e
  subst e
  try dsimp only
  with_reducible repeat' first | assumption | apply canonical_lpExit

theorem canonical_execRouteMessage (s : State) (h_s : s.canonical) {t : State} (e : (execRouteMessage s) = .next t) : t.canonical := by
  unfold execRouteMessage at e
  injection e with e
  subst e
  try dsimp only
  with_reducible repeat' first | assumption | apply canonical_routeNext

theorem canonical_execRd (s : State) (h_s : s.canonical) {t : State} (e : (execRd s) = .next t) : t.canonical := by
  unfold execRd at e
  injection e with e
  subst e
  try dsimp only
  with_reducible repeat' first | assumption | apply canonical_onRequest | apply canonical_serveRd

theorem canonical_execWr (s : State) (h_s : s.canonical) {t : State} (e : (execWr s) = .next t) : t.canonical := by
  unfold execWr at e
  injection e with e
  subst e
  try dsimp only
  with_reducible repeat' first | assumption | apply canonical_onRequest | apply canonical_serveWr

theorem canonical_execRemoteAddw (s : State) (h_s : s.canonical) {t : State} (e : (execRemoteAddw s) = .next t) : t.canonical := by
  unfold execRemoteAddw at e
  injection e with e
  subst e
  try dsimp only
  with_reducible repeat' first | assumption | apply canonical_onRequest | apply canonical_serveAddw

theorem canonical_execRemoteAtom (s : State) (h_s : s.canonical) {t : State} (e : (execRemoteAtom s) = .next t) : t.canonical := by
  unfold execRemoteAtom at e
  injection e with e
  subst e
  try dsimp only
  with_reducible repeat' first | assumption | apply canonical_onRequest | apply canonical_serveAtom

theorem canonical_execRdrsp (s : State) (h_s : s.canonical) {t : State} (e : (execRdrsp s) = .next t) : t.canonical := by
  unfold execRdrsp at e
  injection e with e
  subst e
  try dsimp only
  with_reducible repeat' first | assumption | apply canonical_onInbox | apply canonical_takeRsp

theorem canonical_execWrack (s : State) (h_s : s.canonical) {t : State} (e : (execWrack s) = .next t) : t.canonical := by
  unfold execWrack at e
  injection e with e
  subst e
  try dsimp only
  with_reducible repeat' first | assumption | apply canonical_onInbox | apply canonical_takeRsp

theorem canonical_execAtomrsp (s : State) (h_s : s.canonical) {t : State} (e : (execAtomrsp s) = .next t) : t.canonical := by
  unfold execAtomrsp at e
  injection e with e
  subst e
  try dsimp only
  with_reducible repeat' first | assumption | apply canonical_onInbox | apply canonical_takeRsp

theorem canonical_execRemoteRequestTimeout (tag : BitVec 16) (s : State) (h_s : s.canonical) {t : State} (e : (execRemoteRequestTimeout tag s) = .next t) : t.canonical := by
  unfold execRemoteRequestTimeout at e
  injection e with e
  subst e
  try dsimp only
  with_reducible repeat' first | assumption | apply canonical_requestTimeout

theorem canonical_execProbe (s : State) (h_s : s.canonical) {t : State} (e : (execProbe s) = .next t) : t.canonical := by
  unfold execProbe at e
  injection e with e
  subst e
  try dsimp only
  with_reducible repeat' first | assumption | apply canonical_onInbox | apply canonical_takeProbe

theorem canonical_execPreply (s : State) (h_s : s.canonical) {t : State} (e : (execPreply s) = .next t) : t.canonical := by
  unfold execPreply at e
  injection e with e
  subst e
  try dsimp only
  with_reducible repeat' first | assumption | apply canonical_onInbox | apply canonical_takeReply

theorem canonical_execCfgrd (s : State) (h_s : s.canonical) {t : State} (e : (execCfgrd s) = .next t) : t.canonical := by
  unfold execCfgrd at e
  injection e with e
  subst e
  try dsimp only
  with_reducible repeat' first | assumption | apply canonical_onInbox | apply canonical_takeCfgRd

theorem canonical_execCfgwr (s : State) (h_s : s.canonical) {t : State} (e : (execCfgwr s) = .next t) : t.canonical := by
  unfold execCfgwr at e
  injection e with e
  subst e
  try dsimp only
  with_reducible repeat' first | assumption | apply canonical_onInbox | apply canonical_takeCfgWr

theorem canonical_execCfgrsp (s : State) (h_s : s.canonical) {t : State} (e : (execCfgrsp s) = .next t) : t.canonical := by
  unfold execCfgrsp at e
  injection e with e
  subst e
  try dsimp only
  with_reducible repeat' first | assumption | apply canonical_onInbox | apply canonical_takeReply

theorem canonical_execFabSrMsgGo (d : Fin 2) (a : DevAddr) (s : State) (h_s : s.canonical) {t : State} (e : (execFabSrMsgGo d a s) = .next t) : t.canonical := by
  unfold execFabSrMsgGo at e
  injection e with e
  subst e
  try dsimp only
  with_reducible repeat' first | assumption | apply canonical_srMsgGo

theorem canonical_execWakePatternSend (n : SlipId) (s : State) (h_s : s.canonical) {t : State} (e : (execWakePatternSend n s) = .next t) : t.canonical := by
  unfold execWakePatternSend at e
  injection e with e
  subst e
  try dsimp only
  with_reducible repeat' first | assumption | apply canonical_slipWrite | apply canonical_sendWake

theorem canonical_execPartnerLinkDown (n : SlipId) (s : State) (h_s : s.canonical) {t : State} (e : (execPartnerLinkDown n s) = .next t) : t.canonical := by
  unfold execPartnerLinkDown at e
  injection e with e
  subst e
  try dsimp only
  with_reducible repeat' first | assumption | apply canonical_linkDown

theorem canonical_execFwUpdate (a : DevAddr) (s : State) (h_s : s.canonical) {t : State} (e : (execFwUpdate a s) = .next t) : t.canonical := by
  unfold execFwUpdate at e
  injection e with e
  subst e
  try dsimp only
  with_reducible repeat' first | assumption | apply canonical_fwUpdWrite

theorem canonical_execCommitsvn (s : State) (h_s : s.canonical) {t : State} (e : (execCommitsvn s) = .next t) : t.canonical := by
  unfold execCommitsvn at e
  injection e with e
  subst e
  try dsimp only
  with_reducible repeat' first | assumption | apply canonical_fwUpdWrite

theorem canonical_execRecovStart (len : BitVec 23) (s : State) (h_s : s.canonical) {t : State} (e : (execRecovStart len s) = .next t) : t.canonical := by
  unfold execRecovStart at e
  injection e with e
  subst e
  try dsimp only
  with_reducible repeat' first | assumption | apply canonical_recovWrite | apply canonical_State_setReg

theorem canonical_execRecovChunk (off : BitVec 23) (s : State) (h_s : s.canonical) {t : State} (e : (execRecovChunk off s) = .next t) : t.canonical := by
  unfold execRecovChunk at e
  injection e with e
  subst e
  try dsimp only
  with_reducible repeat' first | assumption | apply canonical_recovWrite | apply canonical_State_setReg

theorem canonical_execRecovDone (bad : Bool) (s : State) (h_s : s.canonical) {t : State} (e : (execRecovDone bad s) = .next t) : t.canonical := by
  unfold execRecovDone at e
  injection e with e
  subst e
  try dsimp only
  with_reducible repeat' first | assumption | apply canonical_recovWrite

theorem canonical_execGetMeasurements (index : BitVec 8) (signed : Bool) (nonce : List Byte) (s : State) (h_s : s.canonical) {t : State} (e : (execGetMeasurements index signed nonce s) = .next t) : t.canonical := by
  unfold execGetMeasurements at e
  injection e with e
  subst e
  try dsimp only
  with_reducible repeat' first | assumption | apply canonical_getMeasurements

theorem canonical_execChallenge (s : State) (h_s : s.canonical) {t : State} (e : (execChallenge s) = .next t) : t.canonical := by
  unfold execChallenge at e
  injection e with e
  subst e
  try dsimp only
  with_reducible repeat' first | assumption | apply canonical_spdmChallenge

theorem canonical_execGetCertificate (slot : Fin 8) (s : State) (h_s : s.canonical) {t : State} (e : (execGetCertificate slot s) = .next t) : t.canonical := by
  unfold execGetCertificate at e
  injection e with e
  subst e
  try dsimp only
  with_reducible repeat' first | assumption | apply canonical_getCertificate

theorem canonical_execSpdmRequest (code : BitVec 8) (payload : List Byte) (s : State) (h_s : s.canonical) {t : State} (e : (execSpdmRequest code payload s) = .next t) : t.canonical := by
  unfold execSpdmRequest at e
  injection e with e
  subst e
  try dsimp only
  with_reducible repeat' first | assumption | apply canonical_spdmRequest

theorem canonical_execSessionRequest (k : Fin 16) (peer : BitVec 12) (s : State) (h_s : s.canonical) {t : State} (e : (execSessionRequest k peer s) = .next t) : t.canonical := by
  unfold execSessionRequest at e
  injection e with e
  subst e
  try dsimp only
  with_reducible repeat' first | assumption | apply canonical_scmdWrite

theorem canonical_execSessionRespond (k : Fin 16) (peer : BitVec 12) (s : State) (h_s : s.canonical) {t : State} (e : (execSessionRespond k peer s) = .next t) : t.canonical := by
  unfold execSessionRespond at e
  injection e with e
  subst e
  try dsimp only
  with_reducible repeat' first | assumption | apply canonical_scmdWrite

theorem canonical_execSessionClose (k : Fin 16) (s : State) (h_s : s.canonical) {t : State} (e : (execSessionClose k s) = .next t) : t.canonical := by
  unfold execSessionClose at e
  injection e with e
  subst e
  try dsimp only
  with_reducible repeat' first | assumption | apply canonical_scmdWrite

theorem canonical_execRelayIngo (len : BitVec 12) (s : State) (h_s : s.canonical) {t : State} (e : (execRelayIngo len s) = .next t) : t.canonical := by
  unfold execRelayIngo at e
  injection e with e
  subst e
  try dsimp only
  with_reducible repeat' first | assumption | apply canonical_relayWrite

theorem canonical_execSessionOpenTimeout (s : State) (h_s : s.canonical) {t : State} (e : (execSessionOpenTimeout s) = .next t) : t.canonical := by
  unfold execSessionOpenTimeout at e
  injection e with e
  subst e
  try dsimp only
  with_reducible repeat' first | assumption | apply canonical_openTimeout

theorem canonical_execMctpRead32 (off : Word32) (s : State) (h_s : s.canonical) {t : State} (e : (execMctpRead32 off s) = .next t) : t.canonical := by
  unfold execMctpRead32 at e
  injection e with e
  subst e
  try dsimp only
  with_reducible repeat' first | assumption | apply canonical_mctpRead

theorem canonical_execMctpWrite32 (off : Word32) (v : Word32) (s : State) (h_s : s.canonical) {t : State} (e : (execMctpWrite32 off v s) = .next t) : t.canonical := by
  unfold execMctpWrite32 at e
  injection e with e
  subst e
  try dsimp only
  with_reducible repeat' first | assumption | apply canonical_mctpWrite

theorem canonical_execPldmRequest (sensor : Nat) (s : State) (h_s : s.canonical) {t : State} (e : (execPldmRequest sensor s) = .next t) : t.canonical := by
  unfold execPldmRequest at e
  injection e with e
  subst e
  try dsimp only
  with_reducible repeat' first | assumption | apply canonical_pldm

theorem canonical_execMctpControl (cmd : BitVec 8) (eid : BitVec 8) (s : State) (h_s : s.canonical) {t : State} (e : (execMctpControl cmd eid s) = .next t) : t.canonical := by
  unfold execMctpControl at e
  injection e with e
  subst e
  try dsimp only
  with_reducible repeat' first | assumption | apply canonical_mctpControl

theorem canonical_execI3cAddressAssignment (a : Option (BitVec 7)) (s : State) (h_s : s.canonical) {t : State} (e : (execI3cAddressAssignment a s) = .next t) : t.canonical := by
  unfold execI3cAddressAssignment at e
  injection e with e
  subst e
  try dsimp only
  with_reducible repeat' first | assumption | apply canonical_i3cAssign

theorem canonical_execMateOpen (s : State) (h_s : s.canonical) {t : State} (e : (execMateOpen s) = .next t) : t.canonical := by
  unfold execMateOpen at e
  injection e with e
  subst e
  try dsimp only
  with_reducible repeat' first | assumption | apply canonical_mateOpen

theorem canonical_execHubIrqstatWrite (v : Word32) (s : State) (h_s : s.canonical) {t : State} (e : (execHubIrqstatWrite v s) = .next t) : t.canonical := by
  unfold execHubIrqstatWrite at e
  injection e with e
  subst e
  try dsimp only
  with_reducible repeat' first | assumption | apply canonical_irqStatWrite

theorem canonical_execPcieCompletionTimeout (a : Word64) (n : Nat) (s : State) (h_s : s.canonical) {t : State} (e : (execPcieCompletionTimeout a n s) = .next t) : t.canonical := by
  unfold execPcieCompletionTimeout at e
  injection e with e
  subst e
  try dsimp only
  with_reducible repeat' first | assumption | apply canonical_readTimeout

theorem canonical_execFwUpdateComplete (bad : Bool) (s : State) (h_s : s.canonical) {t : State} (e : (execFwUpdateComplete bad s) = .next t) : t.canonical := by
  unfold execFwUpdateComplete at e
  injection e with e
  subst e
  try dsimp only
  with_reducible repeat' first | assumption | apply canonical_fwDone

theorem canonical_execPcieReadCompletion (a : Word64) (status : Fin 4) (bytes : List Byte) (s : State) (h_s : s.canonical) {t : State} (e : (execPcieReadCompletion a status bytes s) = .next t) : t.canonical := by
  unfold execPcieReadCompletion at e
  injection e with e
  subst e
  try dsimp only
  with_reducible repeat' first | assumption | apply canonical_readCompletion

theorem canonical_execDoeDiscovery (index : BitVec 8) (s : State) (h_s : s.canonical) {t : State} (e : (execDoeDiscovery index s) = .next t) : t.canonical := by
  unfold execDoeDiscovery at e
  injection e with e
  subst e
  try dsimp only
  with_reducible repeat' first | assumption | apply canonical_doeDiscovery

theorem canonical_execHbmRead (a : DevAddr) (s : State) (h_s : s.canonical) {t : State} (e : (execHbmRead a s) = .next t) : t.canonical := by
  unfold execHbmRead at e
  injection e with e
  subst e
  try dsimp only
  with_reducible repeat' first | assumption | apply canonical_withHbm | apply canonical_lineRead | intro _

theorem canonical_execHbmWrite (a : DevAddr) (bytes : List Byte) (s : State) (h_s : s.canonical) {t : State} (e : (execHbmWrite a bytes s) = .next t) : t.canonical := by
  unfold execHbmWrite at e
  injection e with e
  subst e
  try dsimp only
  with_reducible repeat' first | assumption | apply canonical_withHbm | apply canonical_lineWrite | intro _

theorem canonical_execHbmAddWrite (a : DevAddr) (aty : Fin 4) (aop : Fin 3) (v : Word64) (s : State) (h_s : s.canonical) {t : State} (e : (execHbmAddWrite a aty aop v s) = .next t) : t.canonical := by
  unfold execHbmAddWrite at e
  injection e with e
  subst e
  try dsimp only
  with_reducible repeat' first | assumption | apply canonical_withHbm | apply canonical_lineAdd | intro _

theorem canonical_execHbmAtomic (a : DevAddr) (aty : Fin 4) (aop : Fin 3) (v : Word64) (s : State) (h_s : s.canonical) {t : State} (e : (execHbmAtomic a aty aop v s) = .next t) : t.canonical := by
  unfold execHbmAtomic at e
  injection e with e
  subst e
  try dsimp only
  with_reducible repeat' first | assumption | apply canonical_withHbm | apply canonical_lineAtomic | intro _

theorem canonical_execScrubLine (st : StackId) (line : Nat) (s : State) (h_s : s.canonical) {t : State} (e : (execScrubLine st line s) = .next t) : t.canonical := by
  unfold execScrubLine at e
  injection e with e
  subst e
  try dsimp only
  with_reducible repeat' first | assumption | apply canonical_withHbm | apply canonical_scrubLine | intro _

theorem canonical_execMemMapWrite (n : Fin 64) (second : Bool) (a : Acc) (v : Word64) (s : State) (h_s : s.canonical) {t : State} (e : (execMemMapWrite n second a v s) = .next t) : t.canonical := by
  unfold execMemMapWrite at e
  injection e with e
  subst e
  try dsimp only
  with_reducible repeat' first | assumption | apply canonical_mapWrite

theorem canonical_execMapCopiesUpdated (s : State) (h_s : s.canonical) {t : State} (e : (execMapCopiesUpdated s) = .next t) : t.canonical := by
  unfold execMapCopiesUpdated at e
  injection e with e
  subst e
  try dsimp only
  with_reducible repeat' first | assumption | apply canonical_mapCopied

theorem canonical_execLandingRead (d : Fin 2) (lpol : Fin 3) (a : DevAddr) (s : State) (h_s : s.canonical) {t : State} (e : (execLandingRead d lpol a s) = .next t) : t.canonical := by
  unfold execLandingRead at e
  injection e with e
  subst e
  try dsimp only
  with_reducible repeat' first | assumption | apply canonical_withHbm | apply canonical_landingRead | intro _

theorem canonical_execLndPartWrite (d : Fin 2) (v : Word32) (s : State) (h_s : s.canonical) {t : State} (e : (execLndPartWrite d v s) = .next t) : t.canonical := by
  unfold execLndPartWrite at e
  injection e with e
  subst e
  try dsimp only
  with_reducible repeat' first | assumption | apply canonical_partWrite

theorem canonical_execPartitionDropDone (d : Fin 2) (s : State) (h_s : s.canonical) {t : State} (e : (execPartitionDropDone d s) = .next t) : t.canonical := by
  unfold execPartitionDropDone at e
  injection e with e
  subst e
  try dsimp only
  with_reducible repeat' first | assumption | apply canonical_dropDone

theorem canonical_execLndDallocWrite (d : Fin 2) (k : Fin 16) (a : Acc) (v : Word64) (s : State) (h_s : s.canonical) {t : State} (e : (execLndDallocWrite d k a v s) = .next t) : t.canonical := by
  unfold execLndDallocWrite at e
  injection e with e
  subst e
  try dsimp only
  with_reducible repeat' first | assumption | apply canonical_allocWrite

theorem canonical_execLandingDirectAccess (a : DevAddr) (n : Nat) (w : Option (List Byte)) (s : State) (h_s : s.canonical) {t : State} (e : (execLandingDirectAccess a n w s) = .next t) : t.canonical := by
  unfold execLandingDirectAccess at e
  injection e with e
  subst e
  try dsimp only
  with_reducible repeat' first | assumption | apply canonical_withHbm | apply canonical_directAccess | intro _

theorem canonical_execPowerInterval (temps : List Nat) (input : Nat) (s : State) (h_s : s.canonical) {t : State} (e : (execPowerInterval temps input s) = .next t) : t.canonical := by
  unfold execPowerInterval at e
  injection e with e
  subst e
  try dsimp only
  with_reducible repeat' first | assumption | apply canonical_powerInterval

theorem canonical_execLevelChangeComplete (c : Fin 40) (s : State) (h_s : s.canonical) {t : State} (e : (execLevelChangeComplete c s) = .next t) : t.canonical := by
  unfold execLevelChangeComplete at e
  injection e with e
  subst e
  try dsimp only
  with_reducible repeat' first | assumption | apply canonical_levelDone

theorem canonical_execVfail (g : Fin 26) (s : State) (h_s : s.canonical) {t : State} (e : (execVfail g s) = .next t) : t.canonical := by
  unfold execVfail at e
  injection e with e
  subst e
  try dsimp only
  with_reducible repeat' first | assumption | apply canonical_vfail

theorem canonical_execThermtrip (sensor : Fin 25) (tj : Nat) (s : State) (h_s : s.canonical) {t : State} (e : (execThermtrip sensor tj s) = .next t) : t.canonical := by
  unfold execThermtrip at e
  injection e with e
  subst e
  try dsimp only
  with_reducible repeat' first | assumption | apply canonical_thermTrip

theorem canonical_execOverdraw (mw : Nat) (run : Nat) (s : State) (h_s : s.canonical) {t : State} (e : (execOverdraw mw run s) = .next t) : t.canonical := by
  unfold execOverdraw at e
  injection e with e
  subst e
  try dsimp only
  with_reducible repeat' first | assumption | apply canonical_overdraw

theorem canonical_execCoolant (inlet : BitVec 8) (s : State) (h_s : s.canonical) {t : State} (e : (execCoolant inlet s) = .next t) : t.canonical := by
  unfold execCoolant at e
  injection e with e
  subst e
  try dsimp only
  with_reducible repeat' first | assumption | apply canonical_coolant

theorem canonical_execBrownout (v : Fin 8) (amps : Nat) (s : State) (h_s : s.canonical) {t : State} (e : (execBrownout v amps s) = .next t) : t.canonical := by
  unfold execBrownout at e
  injection e with e
  subst e
  try dsimp only
  with_reducible repeat' first | assumption | apply canonical_brownout

theorem canonical_execIvrRestart (v : Fin 8) (s : State) (h_s : s.canonical) {t : State} (e : (execIvrRestart v s) = .next t) : t.canonical := by
  unfold execIvrRestart at e
  injection e with e
  subst e
  try dsimp only
  with_reducible repeat' first | assumption | apply canonical_ivrWrite

theorem canonical_execPwrReqWrite (c : Fin 40) (v : Word32) (s : State) (h_s : s.canonical) {t : State} (e : (execPwrReqWrite c v s) = .next t) : t.canonical := by
  unfold execPwrReqWrite at e
  injection e with e
  subst e
  try dsimp only
  with_reducible repeat' first | assumption | apply canonical_reqWrite

theorem canonical_execPwrBudgetWrite (v : Word32) (s : State) (h_s : s.canonical) {t : State} (e : (execPwrBudgetWrite v s) = .next t) : t.canonical := by
  unfold execPwrBudgetWrite at e
  injection e with e
  subst e
  try dsimp only
  with_reducible repeat' first | assumption | apply canonical_budgetWrite

theorem canonical_execPwrOppWrite (l : Fin 11) (v : Word32) (s : State) (h_s : s.canonical) {t : State} (e : (execPwrOppWrite l v s) = .next t) : t.canonical := by
  unfold execPwrOppWrite at e
  injection e with e
  subst e
  try dsimp only
  with_reducible repeat' first | assumption | apply canonical_oppWrite

theorem canonical_execMoor (s : State) (h_s : s.canonical) {t : State} (e : (execMoor s) = .next t) : t.canonical := by
  unfold execMoor at e
  injection e with e
  subst e
  try dsimp only
  with_reducible repeat' first | assumption | apply canonical_stateWrite

theorem canonical_execLayup (s : State) (h_s : s.canonical) {t : State} (e : (execLayup s) = .next t) : t.canonical := by
  unfold execLayup at e
  injection e with e
  subst e
  try dsimp only
  with_reducible repeat' first | assumption | apply canonical_stateWrite

theorem canonical_execExitMoored (s : State) (h_s : s.canonical) {t : State} (e : (execExitMoored s) = .next t) : t.canonical := by
  unfold execExitMoored at e
  injection e with e
  subst e
  try dsimp only
  with_reducible repeat' first | assumption | apply canonical_stateWrite

theorem canonical_execPowerEntryComplete (s : State) (h_s : s.canonical) {t : State} (e : (execPowerEntryComplete s) = .next t) : t.canonical := by
  unfold execPowerEntryComplete at e
  injection e with e
  subst e
  try dsimp only
  with_reducible repeat' first | assumption | apply canonical_entryDone

theorem canonical_execWakeEvent (src : Fin 4) (n : SlipId) (s : State) (h_s : s.canonical) {t : State} (e : (execWakeEvent src n s) = .next t) : t.canonical := by
  unfold execWakeEvent at e
  injection e with e
  subst e
  try dsimp only
  with_reducible repeat' first | assumption | apply canonical_wakeEvent

theorem canonical_execExitStepDone (s : State) (h_s : s.canonical) {t : State} (e : (execExitStepDone s) = .next t) : t.canonical := by
  unfold execExitStepDone at e
  injection e with e
  subst e
  try dsimp only
  with_reducible repeat' first | assumption | apply canonical_exitStepDone

theorem canonical_execExitfail (s : State) (h_s : s.canonical) {t : State} (e : (execExitfail s) = .next t) : t.canonical := by
  unfold execExitfail at e
  injection e with e
  subst e
  try dsimp only
  with_reducible repeat' first | assumption | apply canonical_exitFail

theorem canonical_execIvrRestartComplete (v : Fin 8) (pass : BitVec 104) (s : State) (h_s : s.canonical) {t : State} (e : (execIvrRestartComplete v pass s) = .next t) : t.canonical := by
  unfold execIvrRestartComplete at e
  injection e with e
  subst e
  try dsimp only
  with_reducible repeat' first | assumption | apply canonical_ivrDone

theorem canonical_execEngCtrlHalt (e : EngId) (v : Bool) (s : State) (h_s : s.canonical) {t : State} (e : (execEngCtrlHalt e v s) = .next t) : t.canonical := by
  unfold execEngCtrlHalt at e
  injection e with e
  subst e
  try dsimp only
  with_reducible repeat' first | assumption | apply canonical_onEngine | apply canonical_writeHalt | intro _

theorem canonical_execEngineHalted (e : EngId) (s : State) (h_s : s.canonical) {t : State} (e : (execEngineHalted e s) = .next t) : t.canonical := by
  unfold execEngineHalted at e
  injection e with e
  subst e
  try dsimp only
  with_reducible repeat' first | assumption | apply canonical_engineHalted

theorem canonical_execEngSemWrite (e : EngId) (i : Fin 32) (v : Word32) (s : State) (h_s : s.canonical) {t : State} (e : (execEngSemWrite e i v s) = .next t) : t.canonical := by
  unfold execEngSemWrite at e
  injection e with e
  subst e
  try dsimp only
  with_reducible repeat' first | assumption | apply canonical_onEngine | apply canonical_writeSem | intro _

theorem canonical_execEngDbgDataRead (e : EngId) (a : Acc) (s : State) (h_s : s.canonical) {t : State} (e : (execEngDbgDataRead e a s) = .next t) : t.canonical := by
  unfold execEngDbgDataRead at e
  injection e with e
  subst e
  try dsimp only
  with_reducible repeat' first | assumption | apply canonical_bar0Read

theorem canonical_execEngDbgDataWrite (e : EngId) (a : Acc) (v : Word64) (s : State) (h_s : s.canonical) {t : State} (e : (execEngDbgDataWrite e a v s) = .next t) : t.canonical := by
  unfold execEngDbgDataWrite at e
  injection e with e
  subst e
  try dsimp only
  with_reducible repeat' first | assumption | apply canonical_onEngine | apply canonical_dbgWrite | intro _

theorem canonical_execHubBar2BaseWrite (v : Word32) (s : State) (h_s : s.canonical) {t : State} (e : (execHubBar2BaseWrite v s) = .next t) : t.canonical := by
  unfold execHubBar2BaseWrite at e
  injection e with e
  subst e
  try dsimp only
  with_reducible repeat' first | assumption | apply canonical_bar2BaseWrite

theorem canonical_execBar2Read (x : BitVec 36) (n : Nat) (s : State) (h_s : s.canonical) {t : State} (e : (execBar2Read x n s) = .next t) : t.canonical := by
  unfold execBar2Read at e
  injection e with e
  subst e
  try dsimp only
  with_reducible repeat' first | assumption | apply canonical_bar2Request

theorem canonical_execBar2Write (x : BitVec 36) (d : HostData (List Byte)) (s : State) (h_s : s.canonical) {t : State} (e : (execBar2Write x d s) = .next t) : t.canonical := by
  unfold execBar2Write at e
  injection e with e
  subst e
  try dsimp only
  with_reducible repeat' first | assumption | apply canonical_poisonedWrite | apply canonical_bar2Request | split

theorem canonical_execRegisterWrite (off : BitVec 26) (n : Nat) (d : HostData Word64) (s : State) (h_s : s.canonical) {t : State} (e : (execRegisterWrite off n d s) = .next t) : t.canonical := by
  unfold execRegisterWrite at e
  injection e with e
  subst e
  try dsimp only
  with_reducible repeat' first | assumption | apply canonical_bar0Write

theorem canonical_execRcCounterRead (off : BitVec 26) (n : Nat) (s : State) (h_s : s.canonical) {t : State} (e : (execRcCounterRead off n s) = .next t) : t.canonical := by
  unfold execRcCounterRead at e
  injection e with e
  subst e
  try dsimp only
  with_reducible repeat' first | assumption | apply canonical_bar0Read

theorem canonical_execTlyCounterRead (n : EngId) (k : Fin 12) (a : Acc) (s : State) (h_s : s.canonical) {t : State} (e : (execTlyCounterRead n k a s) = .next t) : t.canonical := by
  unfold execTlyCounterRead at e
  injection e with e
  subst e
  try dsimp only
  with_reducible repeat' first | assumption | apply canonical_tlyCounterRead

theorem canonical_execMonitorFeed (s : State) (h_s : s.canonical) {t : State} (e : (execMonitorFeed s) = .next t) : t.canonical := by
  unfold execMonitorFeed at e
  injection e with e
  subst e
  try dsimp only
  with_reducible repeat' first | assumption | apply canonical_feedNext

theorem canonical_execWidenRequest (s : State) (h_s : s.canonical) {t : State} (e : (execWidenRequest s) = .next t) : t.canonical := by
  unfold execWidenRequest at e
  injection e with e
  subst e
  try dsimp only
  with_reducible repeat' first | assumption | apply canonical_judgeNext

theorem canonical_execWidenGrantAccepted (s : State) (h_s : s.canonical) {t : State} (e : (execWidenGrantAccepted s) = .next t) : t.canonical := by
  unfold execWidenGrantAccepted at e
  injection e with e
  subst e
  try dsimp only
  with_reducible repeat' first | assumption | apply canonical_grantNext

theorem canonical_execMonitorRelease (n : Fin 256) (s : State) (h_s : s.canonical) {t : State} (e : (execMonitorRelease n s) = .next t) : t.canonical := by
  unfold execMonitorRelease at e
  injection e with e
  subst e
  try dsimp only
  with_reducible repeat' first | assumption | apply canonical_releaseWrite

theorem canonical_execSchMonCtlWrite (n : Fin 256) (v : Word32) (s : State) (h_s : s.canonical) {t : State} (e : (execSchMonCtlWrite n v s) = .next t) : t.canonical := by
  unfold execSchMonCtlWrite at e
  injection e with e
  subst e
  try dsimp only
  with_reducible repeat' first | assumption | apply canonical_writeMonCtl

theorem canonical_execNop (e : EngId) (w : Word64) (s : State) (h_s : s.canonical) {t : State} (e : (execNop e w s) = .next t) : t.canonical := by
  unfold execNop at e
  injection e with e
  subst e
  try dsimp only
  with_reducible repeat' first | assumption | apply canonical_issue

theorem canonical_execSig (e : EngId) (q : Fin 4) (f : Fields) (s : State) (h_s : s.canonical) {t : State} (e : (execSig e q f s) = .next t) : t.canonical := by
  unfold execSig at e
  injection e with e
  subst e
  try dsimp only
  with_reducible repeat' first | assumption | apply canonical_issue

theorem canonical_execWait (e : EngId) (q : Fin 4) (f : Fields) (s : State) (h_s : s.canonical) {t : State} (e : (execWait e q f s) = .next t) : t.canonical := by
  unfold execWait at e
  injection e with e
  subst e
  try dsimp only
  with_reducible repeat' first | assumption | apply canonical_issue

theorem canonical_execDone (e : EngId) (f : Fields) (s : State) (h_s : s.canonical) {t : State} (e : (execDone e f s) = .next t) : t.canonical := by
  unfold execDone at e
  injection e with e
  subst e
  try dsimp only
  with_reducible repeat' first | assumption | apply canonical_issue

theorem canonical_execBr (e : EngId) (f : Fields) (s : State) (h_s : s.canonical) {t : State} (e : (execBr e f s) = .next t) : t.canonical := by
  unfold execBr at e
  injection e with e
  subst e
  try dsimp only
  with_reducible repeat' first | assumption | apply canonical_issue

theorem canonical_execJal (e : EngId) (f : Fields) (s : State) (h_s : s.canonical) {t : State} (e : (execJal e f s) = .next t) : t.canonical := by
  unfold execJal at e
  injection e with e
  subst e
  try dsimp only
  with_reducible repeat' first | assumption | apply canonical_issue

theorem canonical_execJr (e : EngId) (f : Fields) (s : State) (h_s : s.canonical) {t : State} (e : (execJr e f s) = .next t) : t.canonical := by
  unfold execJr at e
  injection e with e
  subst e
  try dsimp only
  with_reducible repeat' first | assumption | apply canonical_issue

theorem canonical_execLoop (e : EngId) (f : Fields) (s : State) (h_s : s.canonical) {t : State} (e : (execLoop e f s) = .next t) : t.canonical := by
  unfold execLoop at e
  injection e with e
  subst e
  try dsimp only
  with_reducible repeat' first | assumption | apply canonical_issue

theorem canonical_execAlu (e : EngId) (f : Fields) (s : State) (h_s : s.canonical) {t : State} (e : (execAlu e f s) = .next t) : t.canonical := by
  unfold execAlu at e
  injection e with e
  subst e
  try dsimp only
  with_reducible repeat' first | assumption | apply canonical_issue

theorem canonical_execAlui (e : EngId) (f : Fields) (s : State) (h_s : s.canonical) {t : State} (e : (execAlui e f s) = .next t) : t.canonical := by
  unfold execAlui at e
  injection e with e
  subst e
  try dsimp only
  with_reducible repeat' first | assumption | apply canonical_issue

theorem canonical_execCmp (e : EngId) (f : Fields) (s : State) (h_s : s.canonical) {t : State} (e : (execCmp e f s) = .next t) : t.canonical := by
  unfold execCmp at e
  injection e with e
  subst e
  try dsimp only
  with_reducible repeat' first | assumption | apply canonical_issue

theorem canonical_execCmpi (e : EngId) (f : Fields) (s : State) (h_s : s.canonical) {t : State} (e : (execCmpi e f s) = .next t) : t.canonical := by
  unfold execCmpi at e
  injection e with e
  subst e
  try dsimp only
  with_reducible repeat' first | assumption | apply canonical_issue

theorem canonical_execPlog (e : EngId) (f : Fields) (s : State) (h_s : s.canonical) {t : State} (e : (execPlog e f s) = .next t) : t.canonical := by
  unfold execPlog at e
  injection e with e
  subst e
  try dsimp only
  with_reducible repeat' first | assumption | apply canonical_issue

theorem canonical_execAdda (e : EngId) (f : Fields) (s : State) (h_s : s.canonical) {t : State} (e : (execAdda e f s) = .next t) : t.canonical := by
  unfold execAdda at e
  injection e with e
  subst e
  try dsimp only
  with_reducible repeat' first | assumption | apply canonical_issue

theorem canonical_execLds (e : EngId) (f : Fields) (s : State) (h_s : s.canonical) {t : State} (e : (execLds e f s) = .next t) : t.canonical := by
  unfold execLds at e
  injection e with e
  subst e
  try dsimp only
  with_reducible repeat' first | assumption | apply canonical_issue

theorem canonical_execSts (e : EngId) (f : Fields) (s : State) (h_s : s.canonical) {t : State} (e : (execSts e f s) = .next t) : t.canonical := by
  unfold execSts at e
  injection e with e
  subst e
  try dsimp only
  with_reducible repeat' first | assumption | apply canonical_issue

theorem canonical_execSget (e : EngId) (f : Fields) (s : State) (h_s : s.canonical) {t : State} (e : (execSget e f s) = .next t) : t.canonical := by
  unfold execSget at e
  injection e with e
  subst e
  try dsimp only
  with_reducible repeat' first | assumption | apply canonical_issue

theorem canonical_execFlgclr (e : EngId) (f : Fields) (s : State) (h_s : s.canonical) {t : State} (e : (execFlgclr e f s) = .next t) : t.canonical := by
  unfold execFlgclr at e
  injection e with e
  subst e
  try dsimp only
  with_reducible repeat' first | assumption | apply canonical_issue

theorem canonical_execTset (e : EngId) (f : Fields) (s : State) (h_s : s.canonical) {t : State} (e : (execTset e f s) = .next t) : t.canonical := by
  unfold execTset at e
  injection e with e
  subst e
  try dsimp only
  with_reducible repeat' first | assumption | apply canonical_issue

theorem canonical_execTget (e : EngId) (f : Fields) (s : State) (h_s : s.canonical) {t : State} (e : (execTget e f s) = .next t) : t.canonical := by
  unfold execTget at e
  injection e with e
  subst e
  try dsimp only
  with_reducible repeat' first | assumption | apply canonical_issue

theorem canonical_execBload (e : EngId) (f : Fields) (s : State) (h_s : s.canonical) {t : State} (e : (execBload e f s) = .next t) : t.canonical := by
  unfold execBload at e
  injection e with e
  subst e
  try dsimp only
  with_reducible repeat' first | assumption | apply canonical_issue

theorem canonical_execBext (e : EngId) (f : Fields) (s : State) (h_s : s.canonical) {t : State} (e : (execBext e f s) = .next t) : t.canonical := by
  unfold execBext at e
  injection e with e
  subst e
  try dsimp only
  with_reducible repeat' first | assumption | apply canonical_issue

theorem canonical_execLi64 (e : EngId) (f : Fields) (w2 : Word64) (s : State) (h_s : s.canonical) {t : State} (e : (execLi64 e f w2 s) = .next t) : t.canonical := by
  unfold execLi64 at e
  injection e with e
  subst e
  try dsimp only
  with_reducible repeat' first | assumption | apply canonical_issue

theorem canonical_execPreempt (e : EngId) (f : Fields) (w2 : Word64) (s : State) (h_s : s.canonical) {t : State} (e : (execPreempt e f w2 s) = .next t) : t.canonical := by
  unfold execPreempt at e
  injection e with e
  subst e
  try dsimp only
  with_reducible repeat' first | assumption | apply canonical_issue

theorem canonical_execMmaLoad (e : EngId) (f : Fields) (w2 : Word64) (s : State) (h_s : s.canonical) {t : State} (e : (execMmaLoad e f w2 s) = .next t) : t.canonical := by
  unfold execMmaLoad at e
  injection e with e
  subst e
  try dsimp only
  with_reducible repeat' first | assumption | apply canonical_issue

theorem canonical_execMmaCompute (e : EngId) (f : Fields) (w2 : Word64) (s : State) (h_s : s.canonical) {t : State} (e : (execMmaCompute e f w2 s) = .next t) : t.canonical := by
  unfold execMmaCompute at e
  injection e with e
  subst e
  try dsimp only
  with_reducible repeat' first | assumption | apply canonical_issue

theorem canonical_execDrain (e : EngId) (f : Fields) (w2 : Word64) (s : State) (h_s : s.canonical) {t : State} (e : (execDrain e f w2 s) = .next t) : t.canonical := by
  unfold execDrain at e
  injection e with e
  subst e
  try dsimp only
  with_reducible repeat' first | assumption | apply canonical_issue

theorem canonical_execWgpush (e : EngId) (f : Fields) (w2 : Word64) (n1 : Word64) (n2 : Word64) (s : State) (h_s : s.canonical) {t : State} (e : (execWgpush e f w2 n1 n2 s) = .next t) : t.canonical := by
  unfold execWgpush at e
  injection e with e
  subst e
  try dsimp only
  with_reducible repeat' first | assumption | apply canonical_issue

theorem canonical_execWgdrain (e : EngId) (f : Fields) (s : State) (h_s : s.canonical) {t : State} (e : (execWgdrain e f s) = .next t) : t.canonical := by
  unfold execWgdrain at e
  injection e with e
  subst e
  try dsimp only
  with_reducible repeat' first | assumption | apply canonical_issue

theorem canonical_execCvt (e : EngId) (f : Fields) (w2 : Word64) (s : State) (h_s : s.canonical) {t : State} (e : (execCvt e f w2 s) = .next t) : t.canonical := by
  unfold execCvt at e
  injection e with e
  subst e
  try dsimp only
  with_reducible repeat' first | assumption | apply canonical_issue

theorem canonical_execVadd (e : EngId) (f : Fields) (s : State) (h_s : s.canonical) {t : State} (e : (execVadd e f s) = .next t) : t.canonical := by
  unfold execVadd at e
  injection e with e
  subst e
  try dsimp only
  with_reducible repeat' first | assumption | apply canonical_issue

theorem canonical_execVsub (e : EngId) (f : Fields) (s : State) (h_s : s.canonical) {t : State} (e : (execVsub e f s) = .next t) : t.canonical := by
  unfold execVsub at e
  injection e with e
  subst e
  try dsimp only
  with_reducible repeat' first | assumption | apply canonical_issue

theorem canonical_execVmul (e : EngId) (f : Fields) (s : State) (h_s : s.canonical) {t : State} (e : (execVmul e f s) = .next t) : t.canonical := by
  unfold execVmul at e
  injection e with e
  subst e
  try dsimp only
  with_reducible repeat' first | assumption | apply canonical_issue

theorem canonical_execVmin (e : EngId) (f : Fields) (s : State) (h_s : s.canonical) {t : State} (e : (execVmin e f s) = .next t) : t.canonical := by
  unfold execVmin at e
  injection e with e
  subst e
  try dsimp only
  with_reducible repeat' first | assumption | apply canonical_issue

theorem canonical_execVmax (e : EngId) (f : Fields) (s : State) (h_s : s.canonical) {t : State} (e : (execVmax e f s) = .next t) : t.canonical := by
  unfold execVmax at e
  injection e with e
  subst e
  try dsimp only
  with_reducible repeat' first | assumption | apply canonical_issue

theorem canonical_execVmov (e : EngId) (f : Fields) (s : State) (h_s : s.canonical) {t : State} (e : (execVmov e f s) = .next t) : t.canonical := by
  unfold execVmov at e
  injection e with e
  subst e
  try dsimp only
  with_reducible repeat' first | assumption | apply canonical_issue

theorem canonical_execVabs (e : EngId) (f : Fields) (s : State) (h_s : s.canonical) {t : State} (e : (execVabs e f s) = .next t) : t.canonical := by
  unfold execVabs at e
  injection e with e
  subst e
  try dsimp only
  with_reducible repeat' first | assumption | apply canonical_issue

theorem canonical_execVneg (e : EngId) (f : Fields) (s : State) (h_s : s.canonical) {t : State} (e : (execVneg e f s) = .next t) : t.canonical := by
  unfold execVneg at e
  injection e with e
  subst e
  try dsimp only
  with_reducible repeat' first | assumption | apply canonical_issue

theorem canonical_execVclamp (e : EngId) (f : Fields) (s : State) (h_s : s.canonical) {t : State} (e : (execVclamp e f s) = .next t) : t.canonical := by
  unfold execVclamp at e
  injection e with e
  subst e
  try dsimp only
  with_reducible repeat' first | assumption | apply canonical_issue

theorem canonical_execVtanh (e : EngId) (f : Fields) (s : State) (h_s : s.canonical) {t : State} (e : (execVtanh e f s) = .next t) : t.canonical := by
  unfold execVtanh at e
  injection e with e
  subst e
  try dsimp only
  with_reducible repeat' first | assumption | apply canonical_issue

theorem canonical_execVlogi (e : EngId) (f : Fields) (s : State) (h_s : s.canonical) {t : State} (e : (execVlogi e f s) = .next t) : t.canonical := by
  unfold execVlogi at e
  injection e with e
  subst e
  try dsimp only
  with_reducible repeat' first | assumption | apply canonical_issue

theorem canonical_execVfma (e : EngId) (f : Fields) (w2 : Word64) (s : State) (h_s : s.canonical) {t : State} (e : (execVfma e f w2 s) = .next t) : t.canonical := by
  unfold execVfma at e
  injection e with e
  subst e
  try dsimp only
  with_reducible repeat' first | assumption | apply canonical_issue

theorem canonical_execVfuse (e : EngId) (f : Fields) (w2 : Word64) (s : State) (h_s : s.canonical) {t : State} (e : (execVfuse e f w2 s) = .next t) : t.canonical := by
  unfold execVfuse at e
  injection e with e
  subst e
  try dsimp only
  with_reducible repeat' first | assumption | apply canonical_issue

theorem canonical_execVrot (e : EngId) (f : Fields) (w2 : Word64) (s : State) (h_s : s.canonical) {t : State} (e : (execVrot e f w2 s) = .next t) : t.canonical := by
  unfold execVrot at e
  injection e with e
  subst e
  try dsimp only
  with_reducible repeat' first | assumption | apply canonical_issue

theorem canonical_execSteprun (e : EngId) (f : Fields) (w2 : Word64) (s : State) (h_s : s.canonical) {t : State} (e : (execSteprun e f w2 s) = .next t) : t.canonical := by
  unfold execSteprun at e
  injection e with e
  subst e
  try dsimp only
  with_reducible repeat' first | assumption | apply canonical_issue

theorem canonical_execRstat (e : EngId) (f : Fields) (w2 : Word64) (s : State) (h_s : s.canonical) {t : State} (e : (execRstat e f w2 s) = .next t) : t.canonical := by
  unfold execRstat at e
  injection e with e
  subst e
  try dsimp only
  with_reducible repeat' first | assumption | apply canonical_issue

theorem canonical_execSmax (e : EngId) (f : Fields) (w2 : Word64) (s : State) (h_s : s.canonical) {t : State} (e : (execSmax e f w2 s) = .next t) : t.canonical := by
  unfold execSmax at e
  injection e with e
  subst e
  try dsimp only
  with_reducible repeat' first | assumption | apply canonical_issue

theorem canonical_execPreemptStop (e : EngId) (s : State) (h_s : s.canonical) {t : State} (e : (execPreemptStop e s) = .next t) : t.canonical := by
  unfold execPreemptStop at e
  injection e with e
  subst e
  try dsimp only
  with_reducible repeat' first | assumption | apply canonical_reportStop

theorem canonical_execTblload (e : EngId) (f : Fields) (w2 : Word64) (s : State) (h_s : s.canonical) {t : State} (e : (execTblload e f w2 s) = .next t) : t.canonical := by
  unfold execTblload at e
  injection e with e
  subst e
  try dsimp only
  with_reducible repeat' first | assumption | apply canonical_issue

theorem canonical_execTblswap (e : EngId) (f : Fields) (s : State) (h_s : s.canonical) {t : State} (e : (execTblswap e f s) = .next t) : t.canonical := by
  unfold execTblswap at e
  injection e with e
  subst e
  try dsimp only
  with_reducible repeat' first | assumption | apply canonical_issue

theorem canonical_execTlyRead (e : EngId) (f : Fields) (s : State) (h_s : s.canonical) {t : State} (e : (execTlyRead e f s) = .next t) : t.canonical := by
  unfold execTlyRead at e
  injection e with e
  subst e
  try dsimp only
  with_reducible repeat' first | assumption | apply canonical_issue

theorem canonical_execTlyMark (e : EngId) (f : Fields) (s : State) (h_s : s.canonical) {t : State} (e : (execTlyMark e f s) = .next t) : t.canonical := by
  unfold execTlyMark at e
  injection e with e
  subst e
  try dsimp only
  with_reducible repeat' first | assumption | apply canonical_issue

theorem canonical_execTlyAdd (e : EngId) (f : Fields) (s : State) (h_s : s.canonical) {t : State} (e : (execTlyAdd e f s) = .next t) : t.canonical := by
  unfold execTlyAdd at e
  injection e with e
  subst e
  try dsimp only
  with_reducible repeat' first | assumption | apply canonical_issue

theorem canonical_execRsig (e : EngId) (f : Fields) (s : State) (h_s : s.canonical) {t : State} (e : (execRsig e f s) = .next t) : t.canonical := by
  unfold execRsig at e
  injection e with e
  subst e
  try dsimp only
  with_reducible repeat' first | assumption | apply canonical_issue

theorem canonical_execRsigDelivery (e : EngId) (s : State) (h_s : s.canonical) {t : State} (e : (execRsigDelivery e s) = .next t) : t.canonical := by
  unfold execRsigDelivery at e
  injection e with e
  subst e
  try dsimp only
  with_reducible repeat' first | assumption | apply canonical_deliverRsig

theorem canonical_execFill (e : EngId) (f : Fields) (w2 : Word64) (s : State) (h_s : s.canonical) {t : State} (e : (execFill e f w2 s) = .next t) : t.canonical := by
  unfold execFill at e
  injection e with e
  subst e
  try dsimp only
  with_reducible repeat' first | assumption | apply canonical_issue

theorem canonical_execSpill (e : EngId) (f : Fields) (w2 : Word64) (s : State) (h_s : s.canonical) {t : State} (e : (execSpill e f w2 s) = .next t) : t.canonical := by
  unfold execSpill at e
  injection e with e
  subst e
  try dsimp only
  with_reducible repeat' first | assumption | apply canonical_issue

theorem canonical_execCopy (e : EngId) (f : Fields) (w2 : Word64) (s : State) (h_s : s.canonical) {t : State} (e : (execCopy e f w2 s) = .next t) : t.canonical := by
  unfold execCopy at e
  injection e with e
  subst e
  try dsimp only
  with_reducible repeat' first | assumption | apply canonical_issue

theorem canonical_execPref (e : EngId) (f : Fields) (w2 : Word64) (s : State) (h_s : s.canonical) {t : State} (e : (execPref e f w2 s) = .next t) : t.canonical := by
  unfold execPref at e
  injection e with e
  subst e
  try dsimp only
  with_reducible repeat' first | assumption | apply canonical_issue

theorem canonical_execAddw (e : EngId) (f : Fields) (w2 : Word64) (s : State) (h_s : s.canonical) {t : State} (e : (execAddw e f w2 s) = .next t) : t.canonical := by
  unfold execAddw at e
  injection e with e
  subst e
  try dsimp only
  with_reducible repeat' first | assumption | apply canonical_issue

theorem canonical_execAtom (e : EngId) (f : Fields) (w2 : Word64) (s : State) (h_s : s.canonical) {t : State} (e : (execAtom e f w2 s) = .next t) : t.canonical := by
  unfold execAtom at e
  injection e with e
  subst e
  try dsimp only
  with_reducible repeat' first | assumption | apply canonical_issue

theorem canonical_execWinfill (e : EngId) (f : Fields) (w2 : Word64) (s : State) (h_s : s.canonical) {t : State} (e : (execWinfill e f w2 s) = .next t) : t.canonical := by
  unfold execWinfill at e
  injection e with e
  subst e
  try dsimp only
  with_reducible repeat' first | assumption | apply canonical_issue

theorem canonical_execSkidderDescriptorStart (e : EngId) (fill : Bool) (s : State) (h_s : s.canonical) {t : State} (e : (execSkidderDescriptorStart e fill s) = .next t) : t.canonical := by
  unfold execSkidderDescriptorStart at e
  injection e with e
  subst e
  try dsimp only
  with_reducible repeat' first | assumption | apply canonical_startNext

theorem canonical_execSkidderTransferComplete (e : EngId) (fill : Bool) (k : Fin 32) (s : State) (h_s : s.canonical) {t : State} (e : (execSkidderTransferComplete e fill k s) = .next t) : t.canonical := by
  unfold execSkidderTransferComplete at e
  injection e with e
  subst e
  try dsimp only
  with_reducible repeat' first | assumption | apply canonical_completeTransfer

theorem canonical_execKvwalk (e : EngId) (f : Fields) (w2 : Word64) (s : State) (h_s : s.canonical) {t : State} (e : (execKvwalk e f w2 s) = .next t) : t.canonical := by
  unfold execKvwalk at e
  injection e with e
  subst e
  try dsimp only
  with_reducible repeat' first | assumption | apply canonical_issue

theorem canonical_execKvWalkStart (e : EngId) (s : State) (h_s : s.canonical) {t : State} (e : (execKvWalkStart e s) = .next t) : t.canonical := by
  unfold execKvWalkStart at e
  injection e with e
  subst e
  try dsimp only
  with_reducible repeat' first | assumption | apply canonical_startWalkNext

theorem canonical_execKvWalkComplete (e : EngId) (s : State) (h_s : s.canonical) {t : State} (e : (execKvWalkComplete e s) = .next t) : t.canonical := by
  unfold execKvWalkComplete at e
  injection e with e
  subst e
  try dsimp only
  with_reducible repeat' first | assumption | apply canonical_completeWalk

theorem canonical_execKvmap (e : EngId) (f : Fields) (w2 : Word64) (s : State) (h_s : s.canonical) {t : State} (e : (execKvmap e f w2 s) = .next t) : t.canonical := by
  unfold execKvmap at e
  injection e with e
  subst e
  try dsimp only
  with_reducible repeat' first | assumption | apply canonical_issue

theorem canonical_execKvmapDeferredWrite (s : State) (h_s : s.canonical) {t : State} (e : (execKvmapDeferredWrite s) = .next t) : t.canonical := by
  unfold execKvmapDeferredWrite at e
  injection e with e
  subst e
  try dsimp only
  with_reducible repeat' first | assumption | apply canonical_writeDeferred

theorem canonical_execXch (e : EngId) (f : Fields) (w2 : Word64) (s : State) (h_s : s.canonical) {t : State} (e : (execXch e f w2 s) = .next t) : t.canonical := by
  unfold execXch at e
  injection e with e
  subst e
  try dsimp only
  with_reducible repeat' first | assumption | apply canonical_issue

theorem canonical_execXredAllReduce (e : EngId) (f : Fields) (w2 : Word64) (s : State) (h_s : s.canonical) {t : State} (e : (execXredAllReduce e f w2 s) = .next t) : t.canonical := by
  unfold execXredAllReduce at e
  injection e with e
  subst e
  try dsimp only
  with_reducible repeat' first | assumption | apply canonical_issue

theorem canonical_execXredReduceScatter (e : EngId) (f : Fields) (w2 : Word64) (s : State) (h_s : s.canonical) {t : State} (e : (execXredReduceScatter e f w2 s) = .next t) : t.canonical := by
  unfold execXredReduceScatter at e
  injection e with e
  subst e
  try dsimp only
  with_reducible repeat' first | assumption | apply canonical_issue

theorem canonical_execXgather (e : EngId) (f : Fields) (w2 : Word64) (s : State) (h_s : s.canonical) {t : State} (e : (execXgather e f w2 s) = .next t) : t.canonical := by
  unfold execXgather at e
  injection e with e
  subst e
  try dsimp only
  with_reducible repeat' first | assumption | apply canonical_issue

theorem canonical_execFlashRead (s : State) (h_s : s.canonical) {t : State} (e : (execFlashRead s) = .next t) : t.canonical := by
  unfold execFlashRead at e
  injection e with e
  subst e
  try dsimp only
  with_reducible repeat' first | assumption | apply canonical_withHbm | apply canonical_flashOp | intro _

theorem canonical_execFlashWrite (s : State) (h_s : s.canonical) {t : State} (e : (execFlashWrite s) = .next t) : t.canonical := by
  unfold execFlashWrite at e
  injection e with e
  subst e
  try dsimp only
  with_reducible repeat' first | assumption | apply canonical_withHbm | apply canonical_flashOp | intro _

theorem canonical_execFlashTrim (s : State) (h_s : s.canonical) {t : State} (e : (execFlashTrim s) = .next t) : t.canonical := by
  unfold execFlashTrim at e
  injection e with e
  subst e
  try dsimp only
  with_reducible repeat' first | assumption | apply canonical_withHbm | apply canonical_flashOp | intro _

theorem canonical_execFlashImport (s : State) (h_s : s.canonical) {t : State} (e : (execFlashImport s) = .next t) : t.canonical := by
  unfold execFlashImport at e
  injection e with e
  subst e
  try dsimp only
  with_reducible repeat' first | assumption | apply canonical_withHbm | apply canonical_flashOp | intro _

theorem canonical_execFlashNfetch (s : State) (h_s : s.canonical) {t : State} (e : (execFlashNfetch s) = .next t) : t.canonical := by
  unfold execFlashNfetch at e
  injection e with e
  subst e
  try dsimp only
  with_reducible repeat' first | assumption | apply canonical_withHbm | apply canonical_flashOp | intro _

theorem canonical_execFlashGatePoll (s : State) (h_s : s.canonical) {t : State} (e : (execFlashGatePoll s) = .next t) : t.canonical := by
  unfold execFlashGatePoll at e
  injection e with e
  subst e
  try dsimp only
  with_reducible repeat' first | assumption | apply canonical_withHbm | apply canonical_gatePoll

theorem canonical_execFlashCommandComplete (k : Fin 16) (s : State) (h_s : s.canonical) {t : State} (e : (execFlashCommandComplete k s) = .next t) : t.canonical := by
  unfold execFlashCommandComplete at e
  injection e with e
  subst e
  try dsimp only
  with_reducible repeat' first | assumption | apply canonical_withHbm | apply canonical_flashComplete | intro _

theorem canonical_execFtlReadDisturbRelocate (b : Nat) (s : State) (h_s : s.canonical) {t : State} (e : (execFtlReadDisturbRelocate b s) = .next t) : t.canonical := by
  unfold execFtlReadDisturbRelocate at e
  injection e with e
  subst e
  try dsimp only
  with_reducible repeat' first | assumption | apply canonical_readDisturb

theorem canonical_execNfetchRequestServe (s : State) (h_s : s.canonical) {t : State} (e : (execNfetchRequestServe s) = .next t) : t.canonical := by
  unfold execNfetchRequestServe at e
  injection e with e
  subst e
  try dsimp only
  with_reducible repeat' first | assumption | apply canonical_onRequest | apply canonical_serveNfetch

theorem canonical_execNfetchResponse (s : State) (h_s : s.canonical) {t : State} (e : (execNfetchResponse s) = .next t) : t.canonical := by
  unfold execNfetchResponse at e
  injection e with e
  subst e
  try dsimp only
  with_reducible repeat' first | assumption | apply canonical_withHbm | apply canonical_onInbox | apply canonical_takeNfetch | intro _

theorem canonical_execKeyInstall (k : Fin 32) (c : CtxId) (blob : DevAddr) (s : State) (h_s : s.canonical) {t : State} (e : (execKeyInstall k c blob s) = .next t) : t.canonical := by
  unfold execKeyInstall at e
  injection e with e
  subst e
  try dsimp only
  with_reducible repeat' first | assumption | apply canonical_withHbm | apply canonical_kcmdWrite | intro _

theorem canonical_execKeyErase (k : Fin 32) (s : State) (h_s : s.canonical) {t : State} (e : (execKeyErase k s) = .next t) : t.canonical := by
  unfold execKeyErase at e
  injection e with e
  subst e
  try dsimp only
  with_reducible repeat' first | assumption | apply canonical_kcmdWrite

theorem canonical_execModelUnload (s : State) (h_s : s.canonical) {t : State} (e : (execModelUnload s) = .next t) : t.canonical := by
  unfold execModelUnload at e
  injection e with e
  subst e
  try dsimp only
  with_reducible repeat' first | assumption | apply canonical_secModelWrite

theorem canonical_execModelLoad (s : State) (h_s : s.canonical) {t : State} (e : (execModelLoad s) = .next t) : t.canonical := by
  unfold execModelLoad at e
  injection e with e
  subst e
  try dsimp only
  with_reducible repeat' first | assumption | apply canonical_withHbm | apply canonical_secModelWrite | intro _

theorem canonical_execModelCommandComplete (s : State) (h_s : s.canonical) {t : State} (e : (execModelCommandComplete s) = .next t) : t.canonical := by
  unfold execModelCommandComplete at e
  injection e with e
  subst e
  try dsimp only
  with_reducible repeat' first | assumption | apply canonical_modelComplete

theorem canonical_execFerrySwapOut (s : State) (h_s : s.canonical) {t : State} (e : (execFerrySwapOut s) = .next t) : t.canonical := by
  unfold execFerrySwapOut at e
  injection e with e
  subst e
  try dsimp only
  with_reducible repeat' first | assumption | apply canonical_withHbm | apply canonical_ferryNext | apply canonical_ferrySwap | intro _

theorem canonical_execFerrySwapIn (s : State) (h_s : s.canonical) {t : State} (e : (execFerrySwapIn s) = .next t) : t.canonical := by
  unfold execFerrySwapIn at e
  injection e with e
  subst e
  try dsimp only
  with_reducible repeat' first | assumption | apply canonical_withHbm | apply canonical_ferryNext | apply canonical_ferrySwap | intro _

theorem canonical_execFerryCommitDeferred (s : State) (h_s : s.canonical) {t : State} (e : (execFerryCommitDeferred s) = .next t) : t.canonical := by
  unfold execFerryCommitDeferred at e
  injection e with e
  subst e
  try dsimp only
  with_reducible repeat' first | assumption | apply canonical_withHbm | apply canonical_ferryCommit

theorem canonical_execCodecOpen (s : State) (h_s : s.canonical) {t : State} (e : (execCodecOpen s) = .next t) : t.canonical := by
  unfold execCodecOpen at e
  injection e with e
  subst e
  try dsimp only
  with_reducible repeat' first | assumption | apply canonical_withHbm | apply canonical_onJob | apply canonical_codecOpen | intro _

theorem canonical_execCodecDecode (u : Fin 8) (s : State) (h_s : s.canonical) {t : State} (e : (execCodecDecode u s) = .next t) : t.canonical := by
  unfold execCodecDecode at e
  injection e with e
  subst e
  try dsimp only
  with_reducible repeat' first | assumption | apply canonical_withHbm | apply canonical_codecDecode | intro _

theorem canonical_execCodecEncode (u : Fin 8) (s : State) (h_s : s.canonical) {t : State} (e : (execCodecEncode u s) = .next t) : t.canonical := by
  unfold execCodecEncode at e
  injection e with e
  subst e
  try dsimp only
  with_reducible repeat' first | assumption | apply canonical_withHbm | apply canonical_codecEncode | intro _

theorem canonical_execCodecRelease (s : State) (h_s : s.canonical) {t : State} (e : (execCodecRelease s) = .next t) : t.canonical := by
  unfold execCodecRelease at e
  injection e with e
  subst e
  try dsimp only
  with_reducible repeat' first | assumption | apply canonical_withHbm | apply canonical_onJob | apply canonical_codecRelease | intro _

theorem canonical_execCodecClose (s : State) (h_s : s.canonical) {t : State} (e : (execCodecClose s) = .next t) : t.canonical := by
  unfold execCodecClose at e
  injection e with e
  subst e
  try dsimp only
  with_reducible repeat' first | assumption | apply canonical_withHbm | apply canonical_onJob | apply canonical_codecClose | intro _

theorem canonical_execMsearch (u : Fin 8) (s : State) (h_s : s.canonical) {t : State} (e : (execMsearch u s) = .next t) : t.canonical := by
  unfold execMsearch at e
  injection e with e
  subst e
  try dsimp only
  with_reducible repeat' first | assumption | apply canonical_withHbm | apply canonical_codecSearch | intro _

theorem canonical_execCodecJobRead (s : State) (h_s : s.canonical) {t : State} (e : (execCodecJobRead s) = .next t) : t.canonical := by
  unfold execCodecJobRead at e
  injection e with e
  subst e
  try dsimp only
  with_reducible repeat' first | assumption | apply canonical_withHbm | apply canonical_jobRead

theorem canonical_execCodecUnitSchedule (u : Fin 8) (s : State) (h_s : s.canonical) {t : State} (e : (execCodecUnitSchedule u s) = .next t) : t.canonical := by
  unfold execCodecUnitSchedule at e
  injection e with e
  subst e
  try dsimp only
  with_reducible repeat' first | assumption | apply canonical_withHbm | apply canonical_unitSchedule | intro _

theorem canonical_execFrameTimeout (u : Fin 8) (s : State) (h_s : s.canonical) {t : State} (e : (execFrameTimeout u s) = .next t) : t.canonical := by
  unfold execFrameTimeout at e
  injection e with e
  subst e
  try dsimp only
  with_reducible repeat' first | assumption | apply canonical_withHbm | apply canonical_frameTimeout | intro _

theorem canonical_execCodecJobComplete (k : Fin 64) (s : State) (h_s : s.canonical) {t : State} (e : (execCodecJobComplete k s) = .next t) : t.canonical := by
  unfold execCodecJobComplete at e
  injection e with e
  subst e
  try dsimp only
  with_reducible repeat' first | assumption | apply canonical_withHbm | apply canonical_jobComplete | intro _

theorem canonical_execWearLevelling (b : Nat) (retire : Bool) (s : State) (h_s : s.canonical) {t : State} (e : (execWearLevelling b retire s) = .next t) : t.canonical := by
  unfold execWearLevelling at e
  injection e with e
  subst e
  try dsimp only
  with_reducible repeat' first | assumption | apply canonical_wearLevel

theorem canonical_execFerryInvalidOp (s : State) (h_s : s.canonical) {t : State} (e : (execFerryInvalidOp s) = .next t) : t.canonical := by
  unfold execFerryInvalidOp at e
  injection e with e
  subst e
  try dsimp only
  with_reducible repeat' first | assumption | apply canonical_withHbm | apply canonical_ferryNext | apply canonical_ferryEnd | intro _

theorem canonical_execFlashInvalidOp (s : State) (h_s : s.canonical) {t : State} (e : (execFlashInvalidOp s) = .next t) : t.canonical := by
  unfold execFlashInvalidOp at e
  injection e with e
  subst e
  try dsimp only
  with_reducible repeat' first | assumption | apply canonical_withHbm | apply canonical_flashOp | intro _

theorem canonical_execCodecInvalidOp (s : State) (h_s : s.canonical) {t : State} (e : (execCodecInvalidOp s) = .next t) : t.canonical := by
  unfold execCodecInvalidOp at e
  injection e with e
  subst e
  try dsimp only
  with_reducible repeat' first | assumption | apply canonical_withHbm | apply canonical_codecInvalid

end Sys2Proof.Machine
end

