-- ==== Sys2Proof/Laws/State.lean ====
section
/-! SUPPORT. What the named operations on State leave alone, field by field, and what they read back. -/

namespace Sys2Proof.Machine.State

variable (s : State) (off hi lo v n c : Nat)

@[simp] theorem setReg_engines : (s.setReg off v).engines = s.engines := rfl
@[simp] theorem setReg_mem : (s.setReg off v).mem = s.mem := rfl
@[simp] theorem setReg_ctxs : (s.setReg off v).ctxs = s.ctxs := rfl
@[simp] theorem setReg_mapOld : (s.setReg off v).mapOld = s.mapOld := rfl
@[simp] theorem setReg_lates : (s.setReg off v).lates = s.lates := rfl
@[simp] theorem setReg_kv : (s.setReg off v).kv = s.kv := rfl
@[simp] theorem setReg_sched : (s.setReg off v).sched = s.sched := rfl
@[simp] theorem setReg_fabric : (s.setReg off v).fabric = s.fabric := rfl
@[simp] theorem setReg_coll : (s.setReg off v).coll = s.coll := rfl
@[simp] theorem setReg_flash : (s.setReg off v).flash = s.flash := rfl
@[simp] theorem setReg_codec : (s.setReg off v).codec = s.codec := rfl
@[simp] theorem setReg_host : (s.setReg off v).host = s.host := rfl
@[simp] theorem setReg_dcr : (s.setReg off v).dcr = s.dcr := rfl
@[simp] theorem setReg_boot : (s.setReg off v).boot = s.boot := rfl
@[simp] theorem setReg_power : (s.setReg off v).power = s.power := rfl
@[simp] theorem setReg_side : (s.setReg off v).side = s.side := rfl
@[simp] theorem setReg_ueNow : (s.setReg off v).ueNow = s.ueNow := rfl
@[simp] theorem setReg_tlyHold : (s.setReg off v).tlyHold = s.tlyHold := rfl
@[simp] theorem setReg_compReset : (s.setReg off v).compReset = s.compReset := rfl
@[simp] theorem setReg_powerFail : (s.setReg off v).powerFail = s.powerFail := rfl
@[simp] theorem setReg_errSeq : (s.setReg off v).errSeq = s.errSeq := rfl
@[simp] theorem setReg_us : (s.setReg off v).us = s.us := rfl
@[simp] theorem setReg_nextId : (s.setReg off v).nextId = s.nextId := rfl
@[simp] theorem setReg_free : (s.setReg off v).free = s.free := rfl
@[simp] theorem setReg_pending : (s.setReg off v).pending = s.pending := rfl

@[simp] theorem setFld_engines : (s.setFld off hi lo v).engines = s.engines := rfl
@[simp] theorem setFld_mem : (s.setFld off hi lo v).mem = s.mem := rfl
@[simp] theorem setFld_ctxs : (s.setFld off hi lo v).ctxs = s.ctxs := rfl
@[simp] theorem setFld_mapOld : (s.setFld off hi lo v).mapOld = s.mapOld := rfl
@[simp] theorem setFld_lates : (s.setFld off hi lo v).lates = s.lates := rfl
@[simp] theorem setFld_kv : (s.setFld off hi lo v).kv = s.kv := rfl
@[simp] theorem setFld_sched : (s.setFld off hi lo v).sched = s.sched := rfl
@[simp] theorem setFld_fabric : (s.setFld off hi lo v).fabric = s.fabric := rfl
@[simp] theorem setFld_coll : (s.setFld off hi lo v).coll = s.coll := rfl
@[simp] theorem setFld_flash : (s.setFld off hi lo v).flash = s.flash := rfl
@[simp] theorem setFld_codec : (s.setFld off hi lo v).codec = s.codec := rfl
@[simp] theorem setFld_host : (s.setFld off hi lo v).host = s.host := rfl
@[simp] theorem setFld_dcr : (s.setFld off hi lo v).dcr = s.dcr := rfl
@[simp] theorem setFld_boot : (s.setFld off hi lo v).boot = s.boot := rfl
@[simp] theorem setFld_power : (s.setFld off hi lo v).power = s.power := rfl
@[simp] theorem setFld_side : (s.setFld off hi lo v).side = s.side := rfl
@[simp] theorem setFld_ueNow : (s.setFld off hi lo v).ueNow = s.ueNow := rfl
@[simp] theorem setFld_tlyHold : (s.setFld off hi lo v).tlyHold = s.tlyHold := rfl
@[simp] theorem setFld_compReset : (s.setFld off hi lo v).compReset = s.compReset := rfl
@[simp] theorem setFld_powerFail : (s.setFld off hi lo v).powerFail = s.powerFail := rfl
@[simp] theorem setFld_errSeq : (s.setFld off hi lo v).errSeq = s.errSeq := rfl
@[simp] theorem setFld_us : (s.setFld off hi lo v).us = s.us := rfl
@[simp] theorem setFld_nextId : (s.setFld off hi lo v).nextId = s.nextId := rfl
@[simp] theorem setFld_free : (s.setFld off hi lo v).free = s.free := rfl
@[simp] theorem setFld_pending : (s.setFld off hi lo v).pending = s.pending := rfl

@[simp] theorem setReg64_engines : (s.setReg64 off v).engines = s.engines := rfl
@[simp] theorem setReg64_mem : (s.setReg64 off v).mem = s.mem := rfl
@[simp] theorem setReg64_ctxs : (s.setReg64 off v).ctxs = s.ctxs := rfl
@[simp] theorem setReg64_mapOld : (s.setReg64 off v).mapOld = s.mapOld := rfl
@[simp] theorem setReg64_lates : (s.setReg64 off v).lates = s.lates := rfl
@[simp] theorem setReg64_kv : (s.setReg64 off v).kv = s.kv := rfl
@[simp] theorem setReg64_sched : (s.setReg64 off v).sched = s.sched := rfl
@[simp] theorem setReg64_fabric : (s.setReg64 off v).fabric = s.fabric := rfl
@[simp] theorem setReg64_coll : (s.setReg64 off v).coll = s.coll := rfl
@[simp] theorem setReg64_flash : (s.setReg64 off v).flash = s.flash := rfl
@[simp] theorem setReg64_codec : (s.setReg64 off v).codec = s.codec := rfl
@[simp] theorem setReg64_host : (s.setReg64 off v).host = s.host := rfl
@[simp] theorem setReg64_dcr : (s.setReg64 off v).dcr = s.dcr := rfl
@[simp] theorem setReg64_boot : (s.setReg64 off v).boot = s.boot := rfl
@[simp] theorem setReg64_power : (s.setReg64 off v).power = s.power := rfl
@[simp] theorem setReg64_side : (s.setReg64 off v).side = s.side := rfl
@[simp] theorem setReg64_ueNow : (s.setReg64 off v).ueNow = s.ueNow := rfl
@[simp] theorem setReg64_tlyHold : (s.setReg64 off v).tlyHold = s.tlyHold := rfl
@[simp] theorem setReg64_compReset : (s.setReg64 off v).compReset = s.compReset := rfl
@[simp] theorem setReg64_powerFail : (s.setReg64 off v).powerFail = s.powerFail := rfl
@[simp] theorem setReg64_errSeq : (s.setReg64 off v).errSeq = s.errSeq := rfl
@[simp] theorem setReg64_us : (s.setReg64 off v).us = s.us := rfl
@[simp] theorem setReg64_nextId : (s.setReg64 off v).nextId = s.nextId := rfl
@[simp] theorem setReg64_free : (s.setReg64 off v).free = s.free := rfl
@[simp] theorem setReg64_pending : (s.setReg64 off v).pending = s.pending := rfl

@[simp] theorem setFld64_engines : (s.setFld64 off hi lo v).engines = s.engines := rfl
@[simp] theorem setFld64_mem : (s.setFld64 off hi lo v).mem = s.mem := rfl
@[simp] theorem setFld64_ctxs : (s.setFld64 off hi lo v).ctxs = s.ctxs := rfl
@[simp] theorem setFld64_mapOld : (s.setFld64 off hi lo v).mapOld = s.mapOld := rfl
@[simp] theorem setFld64_lates : (s.setFld64 off hi lo v).lates = s.lates := rfl
@[simp] theorem setFld64_kv : (s.setFld64 off hi lo v).kv = s.kv := rfl
@[simp] theorem setFld64_sched : (s.setFld64 off hi lo v).sched = s.sched := rfl
@[simp] theorem setFld64_fabric : (s.setFld64 off hi lo v).fabric = s.fabric := rfl
@[simp] theorem setFld64_coll : (s.setFld64 off hi lo v).coll = s.coll := rfl
@[simp] theorem setFld64_flash : (s.setFld64 off hi lo v).flash = s.flash := rfl
@[simp] theorem setFld64_codec : (s.setFld64 off hi lo v).codec = s.codec := rfl
@[simp] theorem setFld64_host : (s.setFld64 off hi lo v).host = s.host := rfl
@[simp] theorem setFld64_dcr : (s.setFld64 off hi lo v).dcr = s.dcr := rfl
@[simp] theorem setFld64_boot : (s.setFld64 off hi lo v).boot = s.boot := rfl
@[simp] theorem setFld64_power : (s.setFld64 off hi lo v).power = s.power := rfl
@[simp] theorem setFld64_side : (s.setFld64 off hi lo v).side = s.side := rfl
@[simp] theorem setFld64_ueNow : (s.setFld64 off hi lo v).ueNow = s.ueNow := rfl
@[simp] theorem setFld64_tlyHold : (s.setFld64 off hi lo v).tlyHold = s.tlyHold := rfl
@[simp] theorem setFld64_compReset : (s.setFld64 off hi lo v).compReset = s.compReset := rfl
@[simp] theorem setFld64_powerFail : (s.setFld64 off hi lo v).powerFail = s.powerFail := rfl
@[simp] theorem setFld64_errSeq : (s.setFld64 off hi lo v).errSeq = s.errSeq := rfl
@[simp] theorem setFld64_us : (s.setFld64 off hi lo v).us = s.us := rfl
@[simp] theorem setFld64_nextId : (s.setFld64 off hi lo v).nextId = s.nextId := rfl
@[simp] theorem setFld64_free : (s.setFld64 off hi lo v).free = s.free := rfl
@[simp] theorem setFld64_pending : (s.setFld64 off hi lo v).pending = s.pending := rfl

@[simp] theorem count_engines : (s.count off hi lo n).engines = s.engines := rfl
@[simp] theorem count_mem : (s.count off hi lo n).mem = s.mem := rfl
@[simp] theorem count_ctxs : (s.count off hi lo n).ctxs = s.ctxs := rfl
@[simp] theorem count_mapOld : (s.count off hi lo n).mapOld = s.mapOld := rfl
@[simp] theorem count_lates : (s.count off hi lo n).lates = s.lates := rfl
@[simp] theorem count_kv : (s.count off hi lo n).kv = s.kv := rfl
@[simp] theorem count_sched : (s.count off hi lo n).sched = s.sched := rfl
@[simp] theorem count_fabric : (s.count off hi lo n).fabric = s.fabric := rfl
@[simp] theorem count_coll : (s.count off hi lo n).coll = s.coll := rfl
@[simp] theorem count_flash : (s.count off hi lo n).flash = s.flash := rfl
@[simp] theorem count_codec : (s.count off hi lo n).codec = s.codec := rfl
@[simp] theorem count_host : (s.count off hi lo n).host = s.host := rfl
@[simp] theorem count_dcr : (s.count off hi lo n).dcr = s.dcr := rfl
@[simp] theorem count_boot : (s.count off hi lo n).boot = s.boot := rfl
@[simp] theorem count_power : (s.count off hi lo n).power = s.power := rfl
@[simp] theorem count_side : (s.count off hi lo n).side = s.side := rfl
@[simp] theorem count_ueNow : (s.count off hi lo n).ueNow = s.ueNow := rfl
@[simp] theorem count_tlyHold : (s.count off hi lo n).tlyHold = s.tlyHold := rfl
@[simp] theorem count_compReset : (s.count off hi lo n).compReset = s.compReset := rfl
@[simp] theorem count_powerFail : (s.count off hi lo n).powerFail = s.powerFail := rfl
@[simp] theorem count_errSeq : (s.count off hi lo n).errSeq = s.errSeq := rfl
@[simp] theorem count_us : (s.count off hi lo n).us = s.us := rfl
@[simp] theorem count_nextId : (s.count off hi lo n).nextId = s.nextId := rfl
@[simp] theorem count_free : (s.count off hi lo n).free = s.free := rfl
@[simp] theorem count_pending : (s.count off hi lo n).pending = s.pending := rfl

@[simp] theorem count64_engines : (s.count64 off n).engines = s.engines := rfl
@[simp] theorem count64_mem : (s.count64 off n).mem = s.mem := rfl
@[simp] theorem count64_ctxs : (s.count64 off n).ctxs = s.ctxs := rfl
@[simp] theorem count64_mapOld : (s.count64 off n).mapOld = s.mapOld := rfl
@[simp] theorem count64_lates : (s.count64 off n).lates = s.lates := rfl
@[simp] theorem count64_kv : (s.count64 off n).kv = s.kv := rfl
@[simp] theorem count64_sched : (s.count64 off n).sched = s.sched := rfl
@[simp] theorem count64_fabric : (s.count64 off n).fabric = s.fabric := rfl
@[simp] theorem count64_coll : (s.count64 off n).coll = s.coll := rfl
@[simp] theorem count64_flash : (s.count64 off n).flash = s.flash := rfl
@[simp] theorem count64_codec : (s.count64 off n).codec = s.codec := rfl
@[simp] theorem count64_host : (s.count64 off n).host = s.host := rfl
@[simp] theorem count64_dcr : (s.count64 off n).dcr = s.dcr := rfl
@[simp] theorem count64_boot : (s.count64 off n).boot = s.boot := rfl
@[simp] theorem count64_power : (s.count64 off n).power = s.power := rfl
@[simp] theorem count64_side : (s.count64 off n).side = s.side := rfl
@[simp] theorem count64_ueNow : (s.count64 off n).ueNow = s.ueNow := rfl
@[simp] theorem count64_tlyHold : (s.count64 off n).tlyHold = s.tlyHold := rfl
@[simp] theorem count64_compReset : (s.count64 off n).compReset = s.compReset := rfl
@[simp] theorem count64_powerFail : (s.count64 off n).powerFail = s.powerFail := rfl
@[simp] theorem count64_errSeq : (s.count64 off n).errSeq = s.errSeq := rfl
@[simp] theorem count64_us : (s.count64 off n).us = s.us := rfl
@[simp] theorem count64_nextId : (s.count64 off n).nextId = s.nextId := rfl
@[simp] theorem count64_free : (s.count64 off n).free = s.free := rfl
@[simp] theorem count64_pending : (s.count64 off n).pending = s.pending := rfl

@[simp] theorem setCtxState_engines : (s.setCtxState c v).engines = s.engines := setFld_engines ..
@[simp] theorem setCtxState_mem : (s.setCtxState c v).mem = s.mem := setFld_mem ..
@[simp] theorem setCtxState_ctxs : (s.setCtxState c v).ctxs = s.ctxs := setFld_ctxs ..
@[simp] theorem setCtxState_mapOld : (s.setCtxState c v).mapOld = s.mapOld := setFld_mapOld ..
@[simp] theorem setCtxState_lates : (s.setCtxState c v).lates = s.lates := setFld_lates ..
@[simp] theorem setCtxState_kv : (s.setCtxState c v).kv = s.kv := setFld_kv ..
@[simp] theorem setCtxState_sched : (s.setCtxState c v).sched = s.sched := setFld_sched ..
@[simp] theorem setCtxState_fabric : (s.setCtxState c v).fabric = s.fabric := setFld_fabric ..
@[simp] theorem setCtxState_coll : (s.setCtxState c v).coll = s.coll := setFld_coll ..
@[simp] theorem setCtxState_flash : (s.setCtxState c v).flash = s.flash := setFld_flash ..
@[simp] theorem setCtxState_codec : (s.setCtxState c v).codec = s.codec := setFld_codec ..
@[simp] theorem setCtxState_host : (s.setCtxState c v).host = s.host := setFld_host ..
@[simp] theorem setCtxState_dcr : (s.setCtxState c v).dcr = s.dcr := setFld_dcr ..
@[simp] theorem setCtxState_boot : (s.setCtxState c v).boot = s.boot := setFld_boot ..
@[simp] theorem setCtxState_power : (s.setCtxState c v).power = s.power := setFld_power ..
@[simp] theorem setCtxState_side : (s.setCtxState c v).side = s.side := setFld_side ..
@[simp] theorem setCtxState_ueNow : (s.setCtxState c v).ueNow = s.ueNow := setFld_ueNow ..
@[simp] theorem setCtxState_tlyHold : (s.setCtxState c v).tlyHold = s.tlyHold := setFld_tlyHold ..
@[simp] theorem setCtxState_compReset : (s.setCtxState c v).compReset = s.compReset := setFld_compReset ..
@[simp] theorem setCtxState_powerFail : (s.setCtxState c v).powerFail = s.powerFail := setFld_powerFail ..
@[simp] theorem setCtxState_errSeq : (s.setCtxState c v).errSeq = s.errSeq := setFld_errSeq ..
@[simp] theorem setCtxState_us : (s.setCtxState c v).us = s.us := setFld_us ..
@[simp] theorem setCtxState_nextId : (s.setCtxState c v).nextId = s.nextId := setFld_nextId ..
@[simp] theorem setCtxState_free : (s.setCtxState c v).free = s.free := setFld_free ..
@[simp] theorem setCtxState_pending : (s.setCtxState c v).pending = s.pending := setFld_pending ..

@[simp] theorem setEng_regs (g : Engine) : (s.setEng n g).regs = s.regs := rfl
@[simp] theorem setEng_mem (g : Engine) : (s.setEng n g).mem = s.mem := rfl
@[simp] theorem setEng_ctxs (g : Engine) : (s.setEng n g).ctxs = s.ctxs := rfl
@[simp] theorem setEng_mapOld (g : Engine) : (s.setEng n g).mapOld = s.mapOld := rfl
@[simp] theorem setEng_lates (g : Engine) : (s.setEng n g).lates = s.lates := rfl
@[simp] theorem setEng_kv (g : Engine) : (s.setEng n g).kv = s.kv := rfl
@[simp] theorem setEng_sched (g : Engine) : (s.setEng n g).sched = s.sched := rfl
@[simp] theorem setEng_fabric (g : Engine) : (s.setEng n g).fabric = s.fabric := rfl
@[simp] theorem setEng_coll (g : Engine) : (s.setEng n g).coll = s.coll := rfl
@[simp] theorem setEng_flash (g : Engine) : (s.setEng n g).flash = s.flash := rfl
@[simp] theorem setEng_codec (g : Engine) : (s.setEng n g).codec = s.codec := rfl
@[simp] theorem setEng_host (g : Engine) : (s.setEng n g).host = s.host := rfl
@[simp] theorem setEng_dcr (g : Engine) : (s.setEng n g).dcr = s.dcr := rfl
@[simp] theorem setEng_boot (g : Engine) : (s.setEng n g).boot = s.boot := rfl
@[simp] theorem setEng_power (g : Engine) : (s.setEng n g).power = s.power := rfl
@[simp] theorem setEng_side (g : Engine) : (s.setEng n g).side = s.side := rfl
@[simp] theorem setEng_ueNow (g : Engine) : (s.setEng n g).ueNow = s.ueNow := rfl
@[simp] theorem setEng_tlyHold (g : Engine) : (s.setEng n g).tlyHold = s.tlyHold := rfl
@[simp] theorem setEng_compReset (g : Engine) : (s.setEng n g).compReset = s.compReset := rfl
@[simp] theorem setEng_powerFail (g : Engine) : (s.setEng n g).powerFail = s.powerFail := rfl
@[simp] theorem setEng_errSeq (g : Engine) : (s.setEng n g).errSeq = s.errSeq := rfl
@[simp] theorem setEng_us (g : Engine) : (s.setEng n g).us = s.us := rfl
@[simp] theorem setEng_nextId (g : Engine) : (s.setEng n g).nextId = s.nextId := rfl
@[simp] theorem setEng_free (g : Engine) : (s.setEng n g).free = s.free := rfl
@[simp] theorem setEng_pending (g : Engine) : (s.setEng n g).pending = s.pending := rfl

@[simp] theorem modEng_regs (g : Engine → Engine) : (s.modEng n g).regs = s.regs := rfl
@[simp] theorem modEng_mem (g : Engine → Engine) : (s.modEng n g).mem = s.mem := rfl
@[simp] theorem modEng_ctxs (g : Engine → Engine) : (s.modEng n g).ctxs = s.ctxs := rfl
@[simp] theorem modEng_mapOld (g : Engine → Engine) : (s.modEng n g).mapOld = s.mapOld := rfl
@[simp] theorem modEng_lates (g : Engine → Engine) : (s.modEng n g).lates = s.lates := rfl
@[simp] theorem modEng_kv (g : Engine → Engine) : (s.modEng n g).kv = s.kv := rfl
@[simp] theorem modEng_sched (g : Engine → Engine) : (s.modEng n g).sched = s.sched := rfl
@[simp] theorem modEng_fabric (g : Engine → Engine) : (s.modEng n g).fabric = s.fabric := rfl
@[simp] theorem modEng_coll (g : Engine → Engine) : (s.modEng n g).coll = s.coll := rfl
@[simp] theorem modEng_flash (g : Engine → Engine) : (s.modEng n g).flash = s.flash := rfl
@[simp] theorem modEng_codec (g : Engine → Engine) : (s.modEng n g).codec = s.codec := rfl
@[simp] theorem modEng_host (g : Engine → Engine) : (s.modEng n g).host = s.host := rfl
@[simp] theorem modEng_dcr (g : Engine → Engine) : (s.modEng n g).dcr = s.dcr := rfl
@[simp] theorem modEng_boot (g : Engine → Engine) : (s.modEng n g).boot = s.boot := rfl
@[simp] theorem modEng_power (g : Engine → Engine) : (s.modEng n g).power = s.power := rfl
@[simp] theorem modEng_side (g : Engine → Engine) : (s.modEng n g).side = s.side := rfl
@[simp] theorem modEng_ueNow (g : Engine → Engine) : (s.modEng n g).ueNow = s.ueNow := rfl
@[simp] theorem modEng_tlyHold (g : Engine → Engine) : (s.modEng n g).tlyHold = s.tlyHold := rfl
@[simp] theorem modEng_compReset (g : Engine → Engine) : (s.modEng n g).compReset = s.compReset := rfl
@[simp] theorem modEng_powerFail (g : Engine → Engine) : (s.modEng n g).powerFail = s.powerFail := rfl
@[simp] theorem modEng_errSeq (g : Engine → Engine) : (s.modEng n g).errSeq = s.errSeq := rfl
@[simp] theorem modEng_us (g : Engine → Engine) : (s.modEng n g).us = s.us := rfl
@[simp] theorem modEng_nextId (g : Engine → Engine) : (s.modEng n g).nextId = s.nextId := rfl
@[simp] theorem modEng_free (g : Engine → Engine) : (s.modEng n g).free = s.free := rfl
@[simp] theorem modEng_pending (g : Engine → Engine) : (s.modEng n g).pending = s.pending := rfl

@[simp] theorem setCtx_regs (x : Ctx) : (s.setCtx c x).regs = s.regs := rfl
@[simp] theorem setCtx_engines (x : Ctx) : (s.setCtx c x).engines = s.engines := rfl
@[simp] theorem setCtx_mem (x : Ctx) : (s.setCtx c x).mem = s.mem := rfl
@[simp] theorem setCtx_mapOld (x : Ctx) : (s.setCtx c x).mapOld = s.mapOld := rfl
@[simp] theorem setCtx_lates (x : Ctx) : (s.setCtx c x).lates = s.lates := rfl
@[simp] theorem setCtx_kv (x : Ctx) : (s.setCtx c x).kv = s.kv := rfl
@[simp] theorem setCtx_sched (x : Ctx) : (s.setCtx c x).sched = s.sched := rfl
@[simp] theorem setCtx_fabric (x : Ctx) : (s.setCtx c x).fabric = s.fabric := rfl
@[simp] theorem setCtx_coll (x : Ctx) : (s.setCtx c x).coll = s.coll := rfl
@[simp] theorem setCtx_flash (x : Ctx) : (s.setCtx c x).flash = s.flash := rfl
@[simp] theorem setCtx_codec (x : Ctx) : (s.setCtx c x).codec = s.codec := rfl
@[simp] theorem setCtx_host (x : Ctx) : (s.setCtx c x).host = s.host := rfl
@[simp] theorem setCtx_dcr (x : Ctx) : (s.setCtx c x).dcr = s.dcr := rfl
@[simp] theorem setCtx_boot (x : Ctx) : (s.setCtx c x).boot = s.boot := rfl
@[simp] theorem setCtx_power (x : Ctx) : (s.setCtx c x).power = s.power := rfl
@[simp] theorem setCtx_side (x : Ctx) : (s.setCtx c x).side = s.side := rfl
@[simp] theorem setCtx_ueNow (x : Ctx) : (s.setCtx c x).ueNow = s.ueNow := rfl
@[simp] theorem setCtx_tlyHold (x : Ctx) : (s.setCtx c x).tlyHold = s.tlyHold := rfl
@[simp] theorem setCtx_compReset (x : Ctx) : (s.setCtx c x).compReset = s.compReset := rfl
@[simp] theorem setCtx_powerFail (x : Ctx) : (s.setCtx c x).powerFail = s.powerFail := rfl
@[simp] theorem setCtx_errSeq (x : Ctx) : (s.setCtx c x).errSeq = s.errSeq := rfl
@[simp] theorem setCtx_us (x : Ctx) : (s.setCtx c x).us = s.us := rfl
@[simp] theorem setCtx_nextId (x : Ctx) : (s.setCtx c x).nextId = s.nextId := rfl
@[simp] theorem setCtx_free (x : Ctx) : (s.setCtx c x).free = s.free := rfl
@[simp] theorem setCtx_pending (x : Ctx) : (s.setCtx c x).pending = s.pending := rfl

@[simp] theorem modCtx_regs (x : Ctx → Ctx) : (s.modCtx c x).regs = s.regs := rfl
@[simp] theorem modCtx_engines (x : Ctx → Ctx) : (s.modCtx c x).engines = s.engines := rfl
@[simp] theorem modCtx_mem (x : Ctx → Ctx) : (s.modCtx c x).mem = s.mem := rfl
@[simp] theorem modCtx_mapOld (x : Ctx → Ctx) : (s.modCtx c x).mapOld = s.mapOld := rfl
@[simp] theorem modCtx_lates (x : Ctx → Ctx) : (s.modCtx c x).lates = s.lates := rfl
@[simp] theorem modCtx_kv (x : Ctx → Ctx) : (s.modCtx c x).kv = s.kv := rfl
@[simp] theorem modCtx_sched (x : Ctx → Ctx) : (s.modCtx c x).sched = s.sched := rfl
@[simp] theorem modCtx_fabric (x : Ctx → Ctx) : (s.modCtx c x).fabric = s.fabric := rfl
@[simp] theorem modCtx_coll (x : Ctx → Ctx) : (s.modCtx c x).coll = s.coll := rfl
@[simp] theorem modCtx_flash (x : Ctx → Ctx) : (s.modCtx c x).flash = s.flash := rfl
@[simp] theorem modCtx_codec (x : Ctx → Ctx) : (s.modCtx c x).codec = s.codec := rfl
@[simp] theorem modCtx_host (x : Ctx → Ctx) : (s.modCtx c x).host = s.host := rfl
@[simp] theorem modCtx_dcr (x : Ctx → Ctx) : (s.modCtx c x).dcr = s.dcr := rfl
@[simp] theorem modCtx_boot (x : Ctx → Ctx) : (s.modCtx c x).boot = s.boot := rfl
@[simp] theorem modCtx_power (x : Ctx → Ctx) : (s.modCtx c x).power = s.power := rfl
@[simp] theorem modCtx_side (x : Ctx → Ctx) : (s.modCtx c x).side = s.side := rfl
@[simp] theorem modCtx_ueNow (x : Ctx → Ctx) : (s.modCtx c x).ueNow = s.ueNow := rfl
@[simp] theorem modCtx_tlyHold (x : Ctx → Ctx) : (s.modCtx c x).tlyHold = s.tlyHold := rfl
@[simp] theorem modCtx_compReset (x : Ctx → Ctx) : (s.modCtx c x).compReset = s.compReset := rfl
@[simp] theorem modCtx_powerFail (x : Ctx → Ctx) : (s.modCtx c x).powerFail = s.powerFail := rfl
@[simp] theorem modCtx_errSeq (x : Ctx → Ctx) : (s.modCtx c x).errSeq = s.errSeq := rfl
@[simp] theorem modCtx_us (x : Ctx → Ctx) : (s.modCtx c x).us = s.us := rfl
@[simp] theorem modCtx_nextId (x : Ctx → Ctx) : (s.modCtx c x).nextId = s.nextId := rfl
@[simp] theorem modCtx_free (x : Ctx → Ctx) : (s.modCtx c x).free = s.free := rfl
@[simp] theorem modCtx_pending (x : Ctx → Ctx) : (s.modCtx c x).pending = s.pending := rfl

/-! ## Reading back -/

/-- A register reads as written. -/
theorem reg_setReg (o : Nat) : (s.setReg off v).reg o = if o = off then v % 2 ^ 32 else s.reg o := by
  simp only [reg, setReg, SMap.get_set]
  split <;> simp

theorem reg_setReg_other {o : Nat} (h : o ≠ off) : (s.setReg off v).reg o = s.reg o := by rw [reg_setReg, if_neg h]

theorem reg_setReg_same : (s.setReg off v).reg off = v % 2 ^ 32 := by rw [reg_setReg, if_pos rfl]

/-- An engine reads as written, and the others as before. -/
theorem eng_setEng (g : Engine) (m : Nat) : (s.setEng n g).eng m = if m = n then g else s.eng m := by
  simp only [eng, setEng, SMap.get_set]

@[simp] theorem eng_setEng_same (g : Engine) : (s.setEng n g).eng n = g := by rw [eng_setEng, if_pos rfl]

theorem eng_setEng_other (g : Engine) {m : Nat} (h : m ≠ n) : (s.setEng n g).eng m = s.eng m := by rw [eng_setEng, if_neg h]

@[simp] theorem eng_modEng_same (f : Engine → Engine) : (s.modEng n f).eng n = f (s.eng n) := by simp [modEng]

theorem eng_modEng_other (f : Engine → Engine) {m : Nat} (h : m ≠ n) : (s.modEng n f).eng m = s.eng m := by
  simp [modEng, eng_setEng_other _ _ _ h]

@[simp] theorem eng_setReg : (s.setReg off v).eng n = s.eng n := rfl
@[simp] theorem eng_setFld : (s.setFld off hi lo v).eng n = s.eng n := rfl
@[simp] theorem ctx_setReg : (s.setReg off v).ctx c = s.ctx c := rfl
@[simp] theorem ctx_setFld : (s.setFld off hi lo v).ctx c = s.ctx c := rfl
@[simp] theorem reg_setEng (g : Engine) : (s.setEng n g).reg off = s.reg off := rfl
@[simp] theorem reg_modEng (f : Engine → Engine) : (s.modEng n f).reg off = s.reg off := rfl
@[simp] theorem ctx_setEng (g : Engine) : (s.setEng n g).ctx c = s.ctx c := rfl
@[simp] theorem ctx_modEng (f : Engine → Engine) : (s.modEng n f).ctx c = s.ctx c := rfl

/-- A context reads as written, and the others as before. -/
theorem ctx_setCtx (x : Ctx) (m : Nat) : (s.setCtx c x).ctx m = if m = c then x else s.ctx m := by
  simp only [ctx, setCtx, SMap.get_set]

@[simp] theorem ctx_setCtx_same (x : Ctx) : (s.setCtx c x).ctx c = x := by rw [ctx_setCtx, if_pos rfl]

@[simp] theorem ctx_modCtx_same (f : Ctx → Ctx) : (s.modCtx c f).ctx c = f (s.ctx c) := by simp [modCtx]

/-- Two writes of an engine in service are one. -/
theorem setEng_setEng (g h : Engine) (hg : g.online = true) (hh : h.online = true) :
    (s.setEng n g).setEng n h = s.setEng n h := by
  have ne : ∀ x : Engine, x.online = true → x ≠ Engine.reset n := by
    intro x hx e; rw [e] at hx; simp [Engine.reset] at hx
  simp only [setEng, SMap.set_set _ _ _ _ _ (ne g hg) (ne h hh)]

/-- Two changes of an engine that stays in service are one. -/
theorem modEng_modEng (f h : Engine → Engine) (hf : (f (s.eng n)).online = true) (hh : (h (f (s.eng n))).online = true) :
    (s.modEng n f).modEng n h = s.modEng n fun g => h (f g) := by
  simp only [modEng, eng_setEng_same]
  exact setEng_setEng s n _ _ hf hh

/-- A change of an engine just written is one write. -/
theorem modEng_setEng (g : Engine) (f : Engine → Engine) (hg : g.online = true) (hf : (f g).online = true) :
    (s.setEng n g).modEng n f = s.setEng n (f g) := by
  simp only [modEng, eng_setEng_same]
  exact setEng_setEng s n _ _ hg hf

end Sys2Proof.Machine.State
end

