-- ==== Sys2Proof/Laws/Crypto.lean ====
section
/-! SUPPORT. Opening what was sealed gives the plaintext back (R283). -/

namespace Sys2Proof.Machine

theorem gcmCrypt_length (key : List Byte) (iv : Nat) (text : List Byte) : (gcmCrypt key iv text).length = text.length := by
  simp [gcmCrypt]

/-- The keystream applied twice gives the text back. -/
theorem gcmCrypt_twice (key : List Byte) (iv : Nat) (text : List Byte) : gcmCrypt key iv (gcmCrypt key iv text) = text := by
  apply List.ext_getElem
  · simp [gcmCrypt]
  · intro i h1 h2
    simp only [gcmCrypt, List.getElem_map, List.getElem_zipIdx, Nat.zero_add, BitVec.xor_assoc, BitVec.xor_self, BitVec.xor_zero]

theorem leBytes_length : ∀ n x, (leBytes n x).length = n
  | 0, _ => rfl
  | n + 1, x => by simp [leBytes, leBytes_length n]

theorem gcmTag_length (key : List Byte) (iv : Nat) (aad ct : List Byte) : (gcmTag key iv aad ct).length = 16 := by
  simp [gcmTag, beBytes, leBytes_length]

/-- What a seal made opens under the same key, IV and associated data. -/
theorem gcmOpen_gcmSeal (key : List Byte) (iv : Nat) (aad pt : List Byte) :
    gcmOpen key iv aad (gcmSeal key iv aad pt).1 (gcmSeal key iv aad pt).2 = some pt := by
  simp [gcmOpen, gcmSeal, gcmCrypt_twice]

/-- The two parts of a sealed text, laid end to end, come apart at the plaintext's length. -/
theorem gcmSeal_split (key : List Byte) (iv : Nat) (aad pt : List Byte) :
    let s := gcmSeal key iv aad pt
    (s.1 ++ s.2).take pt.length = s.1 ∧ ((s.1 ++ s.2).drop pt.length).take 16 = s.2 := by
  have h1 : (gcmSeal key iv aad pt).1.length = pt.length := gcmCrypt_length ..
  have h2 : (gcmSeal key iv aad pt).2.length = 16 := gcmTag_length ..
  constructor
  · rw [← h1, List.take_left']
    rfl
  · rw [← h1, List.drop_left', ← h2, List.take_length]
    rfl

end Sys2Proof.Machine
end

