-- ==== Sys2Proof/Laws/Mem.lean ====
section
/-! SUPPORT. Reads and writes of HBM that holds no error: they reach their memory and end well (R31, R270, R271). -/

namespace Sys2Proof.Machine

/-- The bytes of a range all lie in the HBM. -/
def inHbm (s : State) (a n : Nat) : Prop := ∀ i, i < n → ∃ k, place s (a + i) = .hbm k

/-- A valid entry from block 0 that maps whole 12 stacks covers what lies below its size. -/
theorem mapPlace_isSome {w0 w1 a : Nat} (hv : bit w0 63 = true) (hm : bits w0 62 61 = 0) (hl : bits w0 18 0 = 0)
    (ha : a < 12 * bits w1 15 0 * 2 ^ 21) : (mapPlace w0 w1 a).isSome = true := by
  have h : decide (12 * bits w1 15 0 * 2 ^ 21 ≤ a) = false := decide_eq_false (by omega)
  simp only [mapPlace, hv, hm, hl, mapStacks, Nat.zero_mul, Nat.sub_zero, ↓reduceIte, h, Nat.not_lt_zero, decide_false, Bool.not_true,
    Bool.or_self, Bool.false_eq_true, Option.isSome_some]

/-- The words of an entry that no change is under way for. -/
theorem entryWords_settled {s : State} {n : Nat} (h : SMap.get noOld s.mapOld n = none) (a : Nat) :
    entryWords s n a = (s.reg64 (Off.map0 n), s.reg64 (Off.map1 n)) := by
  simp only [entryWords, h]

/-- Map entry 0 of the spec's reset covers the device addresses below its size. -/
theorem place_hbm {s : State} {a : Nat} (hv : bit (s.reg64 (Off.map0 0)) 63 = true) (hm : bits (s.reg64 (Off.map0 0)) 62 61 = 0)
    (hl : bits (s.reg64 (Off.map0 0)) 18 0 = 0) (ho : SMap.get noOld s.mapOld 0 = none)
    (ha : a < 12 * bits (s.reg64 (Off.map1 0)) 15 0 * 2 ^ 21) (hb : a < hbmSize) :
    ∃ k, place s a = .hbm k := by
  obtain ⟨k, hk⟩ := Option.isSome_iff_exists.mp (mapPlace_isSome hv hm hl ha)
  exact ⟨k, by simp [place, hb, hbmPlace, mapFind, entryWords_settled ho, hk]⟩

/-- Under such an entry a range of low device addresses lies in the HBM. -/
theorem inHbm_low {s : State} {a n : Nat} (hv : bit (s.reg64 (Off.map0 0)) 63 = true) (hm : bits (s.reg64 (Off.map0 0)) 62 61 = 0)
    (hl : bits (s.reg64 (Off.map0 0)) 18 0 = 0) (ho : SMap.get noOld s.mapOld 0 = none)
    (ha : a + n ≤ 12 * bits (s.reg64 (Off.map1 0)) 15 0 * 2 ^ 21) (hb : a + n ≤ hbmSize) :
    inHbm s a n := fun i hi => place_hbm hv hm hl ho (by omega) (by omega)

theorem eccHbm_clean (r : Requester) : ∀ (l : List (Nat × Nat)) (x : State × Bool), x.1.mem.hbmErr = [] → eccHbm r l x = x
  | [], _, _ => rfl
  | (line, dev) :: t, (s, bad), h => by
    have : SMap.get noMark s.mem.hbmErr line = 0 := by simp only at h; simp [h, SMap.get, noMark]
    simp only [eccHbm, this, ↓reduceIte]
    exact eccHbm_clean r t (s, bad) h

theorem writeLines_clean (r : Requester) (ps : List Place) :
    ∀ (l : List (Nat × Nat)) (x : State × List Nat), x.1.mem.hbmErr = [] → writeLines r ps l x = x
  | [], _, _ => rfl
  | (line, dev) :: t, (s, drop), h => by
    have : SMap.get noMark s.mem.hbmErr line = 0 := by simp only at h; simp [h, SMap.get, noMark]
    simp only [writeLines, this, ↓reduceIte]
    exact writeLines_clean r ps t (s, drop) h

theorem place_of_mem {s : State} {a n : Nat} {p : Place} (h : inHbm s a n) (hp : p ∈ places s a n) : ∃ k, p = .hbm k := by
  simp only [places, List.mem_map, List.mem_range] at hp
  obtain ⟨i, hi, rfl⟩ := hp
  exact h i hi

theorem filterMap_hbm {β : Type} {s : State} {a n : Nat} {f : Place → Option β} (h : inHbm s a n) (hf : ∀ k, f (.hbm k) = none) :
    (places s a n).filterMap f = [] := by
  rw [List.filterMap_eq_nil_iff]
  intro p hp
  obtain ⟨k, rfl⟩ := place_of_mem h hp
  exact hf k

theorem landWords_hbm {s : State} {a n : Nat} (h : inHbm s a n) : landWords (places s a n) = [] := by
  rw [landWords, filterMap_hbm h fun _ => rfl]
  rfl

theorem tileWords_hbm {s : State} {a n : Nat} (h : inHbm s a n) : tileWords (places s a n) = [] := by
  rw [tileWords, filterMap_hbm h fun _ => rfl]
  rfl

theorem reaches_hbm {s : State} {r : Requester} {a n : Nat} (h : inHbm s a n) : (places s a n).any (fun p => !reaches r p) = false := by
  rw [List.any_eq_false]
  intro p hp
  obtain ⟨k, rfl⟩ := place_of_mem h hp
  simp [reaches]

theorem hostEnd_hbm {s : State} {a n : Nat} (h : inHbm s a n) : hostEnd s (places s a n) = .ok := by
  rw [hostEnd, filterMap_hbm h fun _ => rfl]
  rfl

/-- A read of HBM without marked lines answers its bytes and changes nothing. -/
theorem memRead_hbm {s : State} {r : Requester} {a n : Nat} (h : inHbm s a n) (he : s.mem.hbmErr = []) :
    memRead s r a n = (s, .ok, (places s a n).map (placeByte s)) := by
  have h1 := eccHbm_clean r (hbmLines a (places s a n)) (s, false) he
  simp [memRead, reaches_hbm h, hostEnd_hbm h, h1, landWords_hbm h, tileWords_hbm h, eccLanding, eccTile]

theorem memRead_hbm_ok {s : State} {r : Requester} {a n : Nat} (h : inHbm s a n) (he : s.mem.hbmErr = []) :
    memRead s r a n = (s, .ok, (memRead s r a n).2.2) := by
  rw [memRead_hbm h he]

/-- A write to HBM without marked lines ends well. -/
theorem memWrite_hbm {s : State} {r : Requester} {a : Nat} {bs : List Byte} (h : inHbm s a bs.length) (he : s.mem.hbmErr = []) :
    (memWrite s r a bs).2 = .ok := by
  have h1 := writeLines_clean r (places s a bs.length) (hbmLines a (places s a bs.length)) (s, []) he
  have h3 : (memStore s r a bs).2 = .ok := by
    rw [memStore]
    simp only [reaches_hbm h, h1, Bool.false_eq_true, ↓reduceIte]
    rw [filterMap_hbm h fun _ => rfl]
    simp [wordMarks, dedup]
  simp [memWrite, h3]

/-- What puts of bytes at places of the HBM leave. -/
theorem putPlaces_hbm (drop : List Nat) : ∀ (l : List (Place × Byte)) (s : State), (∀ x ∈ l, ∃ k, x.1 = .hbm k) →
    let t := putPlaces drop l s
    t.regs = s.regs ∧ t.mapOld = s.mapOld ∧ t.kv = s.kv ∧ t.mem.hbmErr = s.mem.hbmErr ∧ ∀ j, (∀ x ∈ l, x.1 ≠ .hbm j) → t.mem.hbm.rd j = s.mem.hbm.rd j
  | [], s, _ => ⟨rfl, rfl, rfl, rfl, fun _ _ => rfl⟩
  | (p, b) :: t, s, h => by
    obtain ⟨k, hk⟩ := h (p, b) (List.mem_cons_self ..)
    simp only at hk
    subst hk
    have ht : ∀ x ∈ t, ∃ k, x.1 = Place.hbm k := fun x hx => h x (List.mem_cons_of_mem _ hx)
    simp only [putPlaces]
    split
    · obtain ⟨a, o, b, c, d⟩ := putPlaces_hbm drop t s ht
      exact ⟨a, o, b, c, fun j hj => d j fun x hx => hj x (List.mem_cons_of_mem _ hx)⟩
    · obtain ⟨a, o, b', c, d⟩ := putPlaces_hbm drop t (putPlace s (.hbm k) b) ht
      refine ⟨a, o, b', c, fun j hj => ?_⟩
      rw [d j fun x hx => hj x (List.mem_cons_of_mem _ hx)]
      have hne : j ≠ k := fun e => hj _ (List.mem_cons_self ..) (by simp [e])
      simp [putPlace, ByteMap.rd_wr, hne]

/-- The copies of a line that is written: only the marks of the copies change. -/
theorem writeCopies_cached (r : Requester) (ps : List Place) (drop : List Nat) (s : State) (line : Nat) :
    ∃ c, writeCopies r ps drop s line = { s with mem := { s.mem with cached := c } } := by
  unfold writeCopies
  split
  · dsimp only
    split <;> exact ⟨_, rfl⟩
  · exact ⟨_, rfl⟩

theorem writeCopies_fold (r : Requester) (ps : List Place) (drop : List Nat) : ∀ (l : List (Nat × Nat)) (s : State), ∃ c,
    l.foldl (fun t x => writeCopies r ps drop t x.1) s = { s with mem := { s.mem with cached := c } }
  | [], s => ⟨s.mem.cached, rfl⟩
  | x :: t, s => by
    obtain ⟨b, hb⟩ := writeCopies_cached r ps drop s x.1
    obtain ⟨c, hc⟩ := writeCopies_fold r ps drop t (writeCopies r ps drop s x.1)
    exact ⟨c, by rw [List.foldl_cons, hc, hb]⟩

/-- No word dropped: nothing is recorded. -/
@[simp] theorem landDropped_nil (r : Requester) (s : State) : landDropped r [] s = s := by
  unfold landDropped
  split <;> rfl

/-- A store to HBM without marked lines leaves the registers, the map, the walks and edits, the marks, and every byte of the HBM elsewhere. -/
theorem memStore_hbm {s : State} {r : Requester} {a : Nat} {bs : List Byte} (h : inHbm s a bs.length) (he : s.mem.hbmErr = []) :
    let t := (memStore s r a bs).1
    (memStore s r a bs).2 = .ok ∧ t.regs = s.regs ∧ t.mapOld = s.mapOld ∧ t.kv = s.kv ∧ t.mem.hbmErr = [] ∧
      ∀ j, (∀ i, i < bs.length → place s (a + i) ≠ .hbm j) → t.mem.hbm.rd j = s.mem.hbm.rd j := by
  have h1 := writeLines_clean r (places s a bs.length) (hbmLines a (places s a bs.length)) (s, []) he
  obtain ⟨c, hc⟩ := writeCopies_fold r (places s a bs.length) [] (hbmLines a (places s a bs.length)) s
  have hp : ∀ x ∈ (places s a bs.length).zip bs, x.1 ∈ places s a bs.length := fun x hx => (List.of_mem_zip hx).1
  simp only [memStore, reaches_hbm h, h1, hc, tileWords_hbm h, Bool.false_eq_true, ↓reduceIte]
  rw [filterMap_hbm h fun _ => rfl]
  simp only [wordMarks, dedup, List.filter_nil, List.foldl_nil, List.isEmpty_nil, Bool.and_self, ↓reduceIte, true_and, landDropped_nil]
  generalize hk : List.filter _ _ = keep
  have hkeep : ∀ x ∈ keep, x.1 ∈ places s a bs.length := fun x hx => hp x (List.mem_filter.mp (hk ▸ hx)).1
  obtain ⟨a1, o1, a2, a3, a4⟩ := putPlaces_hbm [] keep { s with mem := { s.mem with cached := c } } fun x hx => place_of_mem h (hkeep x hx)
  refine ⟨a1, o1, a2, a3.trans he, fun j hj => a4 j fun x hx e => ?_⟩
  have := hkeep x hx
  simp only [places, List.mem_map, List.mem_range] at this
  obtain ⟨i, hi, hx2⟩ := this
  exact hj i hi (hx2.trans e)

/-- The same of an ordinary store while no walk is active. -/
theorem memWrite_frame_hbm {s : State} {r : Requester} {a : Nat} {bs : List Byte} (h : inHbm s a bs.length) (he : s.mem.hbmErr = [])
    (hw : s.kv.walks = []) : let t := (memWrite s r a bs).1
    t.regs = s.regs ∧ t.mapOld = s.mapOld ∧ t.kv = s.kv ∧ t.mem.hbmErr = [] ∧
      ∀ j, (∀ i, i < bs.length → place s (a + i) ≠ .hbm j) → t.mem.hbm.rd j = s.mem.hbm.rd j := by
  obtain ⟨h0, h1, ho, h2, h3, h4⟩ := memStore_hbm (r := r) h he
  have hn : ∀ (u : State) n, u.kv.walks = [] → noteStore u a n = u := by
    intro u n hu
    unfold noteStore
    split
    · rfl
    · simp only [hu, List.foldl_nil, List.map_nil]
      rw [← hu]
  have : (memWrite s r a bs).1 = (memStore s r a bs).1 := by
    simp only [memWrite, h0]
    exact hn _ _ (by rw [h2]; exact hw)
  simp only [this]
  exact ⟨h1, ho, h2, h3, h4⟩

end Sys2Proof.Machine
end

