-- ==== Sys2Proof/Laws/Ferry.lean ====
section
/-! SUPPORT. A page that the Ferry copies within the HBM: the copy ends well and leaves the entry and the walks (R242, R248). -/

namespace Sys2Proof.Machine

/-- Map entry 0 maps whole 12 stacks from their first block on. -/
abbrev LowMap (s : State) : Prop :=
  bit (s.reg64 (Off.map0 0)) 63 = true ∧ bits (s.reg64 (Off.map0 0)) 62 61 = 0 ∧ bits (s.reg64 (Off.map0 0)) 18 0 = 0 ∧
    bits (s.reg64 (Off.map1 0)) 31 16 = 0 ∧ SMap.get noOld s.mapOld 0 = none ∧ s.mem.hbmErr = []

/-- A range that entry 0 covers. -/
abbrev LowRange (s : State) (a n : Nat) : Prop := a + n ≤ 12 * bits (s.reg64 (Off.map1 0)) 15 0 * 2 ^ 21 ∧ a + n ≤ hbmSize

theorem LowRange.inHbm {s : State} {a n : Nat} (h : LowMap s) (hr : LowRange s a n) : inHbm s a n :=
  inHbm_low h.1 h.2.1 h.2.2.1 h.2.2.2.2.1 hr.1 hr.2

/-- The byte of the stacks that 12 interleaved stacks give an address (R248, mode 0b00, from block 0). -/
def lowPlace (a : Nat) : Nat :=
  (a / 256 % 12 + a / 256 / 12 + a / 256 / 12 / 64 + a / 256 / 12 / 4096) % 12 * stackSize + (a / 256 / 12 * 256 + a % 256)

theorem LowMap.place {s : State} {a : Nat} (h : LowMap s) (hr : LowRange s a 1) : Machine.place s a = .hbm (lowPlace a) := by
  obtain ⟨hv, hm, hl, hb, ho, -⟩ := h
  obtain ⟨h1, h2⟩ := hr
  have hlt : decide (12 * bits (s.reg64 (Off.map1 0)) 15 0 * 2 ^ 21 ≤ a) = false := decide_eq_false (by omega)
  have hb2 : a < hbmSize := by omega
  have hmf : mapPlace (s.reg64 (Off.map0 0)) (s.reg64 (Off.map1 0)) a = some (lowPlace a) := by
    simp only [mapPlace, hv, hm, hl, hb, mapStacks, Nat.zero_mul, Nat.sub_zero, ↓reduceIte, hlt, Nat.not_lt_zero, decide_false, Bool.not_true,
      Bool.or_self, Bool.false_eq_true, Nat.zero_add, (by decide : ¬(0 = 2)), lowPlace]
  simp only [Machine.place, hb2, ↓reduceIte, hbmPlace, mapFind, entryWords_settled ho, hmf, Option.map_some]

/-- Its line of 256 bytes within its stack. -/
theorem lowPlace_line {a : Nat} (h : a < hbmSize) : lowPlace a % stackSize / 256 = a / 3072 := by
  unfold lowPlace
  generalize (a / 256 % 12 + a / 256 / 12 + a / 256 / 12 / 64 + a / 256 / 12 / 4096) % 12 = i
  have : a / 256 / 12 * 256 + a % 256 < stackSize := by
    simp only [hbmSize, stackSize] at *
    omega
  rw [Nat.add_comm, Nat.add_mul_mod_self_right, Nat.mod_eq_of_lt this]
  omega

/-- What a state shares with another whose registers, marks and bytes of some places it has. -/
theorem LowMap.of_regs {s t : State} (h : LowMap s) (hr : t.regs = s.regs) (ho : t.mapOld = s.mapOld) (he : t.mem.hbmErr = []) : LowMap t := by
  have hreg : ∀ o, t.reg64 o = s.reg64 o := fun o => by simp only [State.reg64, State.reg, hr]
  obtain ⟨h1, h2, h3, h4, h5, -⟩ := h
  exact ⟨by rw [hreg]; exact h1, by rw [hreg]; exact h2, by rw [hreg]; exact h3, by rw [hreg]; exact h4, by rw [ho]; exact h5, he⟩

theorem LowRange.of_regs {s t : State} {a n : Nat} (h : LowRange s a n) (hr : t.regs = s.regs) : LowRange t a n := by
  have hreg : ∀ o, t.reg64 o = s.reg64 o := fun o => by simp only [State.reg64, State.reg, hr]
  simpa only [LowRange, hreg] using h

/-- A copy within the HBM ends well, and leaves the registers, the map, the walks and edits, and what lies in other lines. -/
theorem ferryCopy_hbm {s : State} {src dst n : Nat} (h : LowMap s) (hw : s.kv.walks = []) (h1 : LowRange s src n) (h2 : LowRange s dst n) :
    let c := ferryCopy s src dst n
    c.2 = .ok ∧ c.1.regs = s.regs ∧ c.1.mapOld = s.mapOld ∧ c.1.kv = s.kv ∧ c.1.mem.hbmErr = [] ∧
      ∀ j, j % stackSize / 256 < dst / 3072 ∨ (dst + n) / 3072 < j % stackSize / 256 → c.1.mem.hbm.rd j = s.mem.hbm.rd j := by
  have hrd := memRead_hbm (r := .ferry) (h1.inHbm h) h.2.2.2.2.2
  have hlen : ((places s src n).map (placeByte s)).length = n := by simp [places]
  have hin : inHbm s dst ((places s src n).map (placeByte s)).length := by rw [hlen]; exact h2.inHbm h
  obtain ⟨f1, fo, f2, f3, f4⟩ := memWrite_frame_hbm (r := .ferry) hin h.2.2.2.2.2 hw
  simp only [ferryCopy, hrd, ↓reduceIte]
  refine ⟨memWrite_hbm hin h.2.2.2.2.2, f1, fo, f2, f3, fun j hj => f4 j fun i hi e => ?_⟩
  rw [hlen] at hi
  rw [h.place ⟨by have := h2.1; omega, by have := h2.2; omega⟩, Place.hbm.injEq] at e
  have := lowPlace_line (a := dst + i) (by have := h2.2; omega)
  rw [e] at this
  omega

/-- The copies of a page likewise. -/
theorem ferryPage_hbm {s : State} {out : Bool} {src dst n : Nat} (h : LowMap s) (hw : s.kv.walks = [])
    (h1 : LowRange s (ferryData s (!out) src) (16384 * n)) (h2 : LowRange s (ferryData s out dst) (16384 * n))
    (h3 : LowRange s (ferryScales s (!out) src) (64 * n)) (h4 : LowRange s (ferryScales s out dst) (64 * n)) :
    let c := ferryPage out src dst n s
    c.2 = .ok ∧ c.1.regs = s.regs ∧ c.1.mapOld = s.mapOld ∧ c.1.kv = s.kv ∧ c.1.mem.hbmErr = [] ∧
      ∀ j, (j % stackSize / 256 < ferryData s out dst / 3072 ∨ (ferryData s out dst + 16384 * n) / 3072 < j % stackSize / 256) →
        (j % stackSize / 256 < ferryScales s out dst / 3072 ∨ (ferryScales s out dst + 64 * n) / 3072 < j % stackSize / 256) →
        c.1.mem.hbm.rd j = s.mem.hbm.rd j := by
  obtain ⟨a1, a2, ao, a3, a4, a5⟩ := ferryCopy_hbm h hw h1 h2
  generalize hg : ferryCopy s (ferryData s (!out) src) (ferryData s out dst) (16384 * n) = x at *
  obtain ⟨b1, b2, bo, b3, b4, b5⟩ := ferryCopy_hbm (h.of_regs a2 ao a4) (by rw [a3]; exact hw) (h3.of_regs a2) (h4.of_regs a2)
  simp only [ferryPage, hg, a1, ↓reduceIte]
  exact ⟨b1, b2.trans a2, bo.trans ao, b3.trans a3, b4, fun j p q => (b5 j q).trans (a5 j p)⟩

/-- Eight bytes of the entry read the same after them, and its edit takes effect. -/
theorem writeEdit_after {s t : State} {ed : Edit} {v : Nat} (h : LowMap s) (ha : LowRange s ed.addr 8) (hr : t.regs = s.regs)
    (ho : t.mapOld = s.mapOld) (he : t.mem.hbmErr = []) (hv : ed.expect = some v) (hs : (memReadNat s .ferry ed.addr 8).2.2 = v)
    (hb : ∀ j, (ed.addr / 3072 ≤ j % stackSize / 256 ∧ j % stackSize / 256 ≤ (ed.addr + 8) / 3072) → t.mem.hbm.rd j = s.mem.hbm.rd j) :
    (writeEdit t .ferry ed).2 = (true, .ok) := by
  have ht := h.of_regs hr ho he
  have hin := (ha.of_regs hr).inHbm ht
  have hr1 := memRead_hbm (r := .ferry) hin he
  have hr0 := memRead_hbm (r := .ferry) (ha.inHbm h) h.2.2.2.2.2
  have hsame : (places t ed.addr 8).map (placeByte t) = (places s ed.addr 8).map (placeByte s) := by
    simp only [places, List.map_map]
    apply List.map_congr_left
    intro i hi
    rw [List.mem_range] at hi
    have hr8 : LowRange s (ed.addr + i) 1 := ⟨by have := ha.1; omega, by have := ha.2; omega⟩
    have hl := lowPlace_line (a := ed.addr + i) (by have := ha.2; omega)
    simp only [Function.comp, h.place hr8, ht.place (hr8.of_regs hr), placeByte]
    exact hb _ ⟨by omega, by omega⟩
  have hval : leNat ((places t ed.addr 8).map (placeByte t)) = v := by
    rw [hsame, ← hs]
    simp only [memReadNat, hr0]
  have hin2 : inHbm t ed.addr (leBytes 8 ed.value).length := by rw [leBytes_length]; exact hin
  simp only [writeEdit, hv, memReadNat, hr1, hval, ne_eq, not_true_eq_false, ↓reduceIte]
  rw [(memStore_hbm (r := .ferry) hin2 he).1]

end Sys2Proof.Machine
end

