-- ==== Sys2Proof/Laws/Words.lean ====
section
/-! SUPPORT. The words of an engine's instruction and the instruction that words spell agree (R75). -/

namespace Sys2Proof.Machine

theorem firstWord_op {n : Nat} (h : n < 256) (f : Fields) : bits (firstWord n f).toNat 63 56 = n := by
  have hf := f.isLt
  simp only [firstWord, bits, BitVec.toNat_append, BitVec.toNat_ofNat]
  rw [Nat.shiftRight_or_distrib, Nat.shiftLeft_shiftRight, Nat.shiftRight_eq_div_pow f.toNat, Nat.div_eq_of_lt hf]
  simp
  omega

theorem firstWord_fields (n : Nat) (f : Fields) : fieldsOf (firstWord n f) = f := by
  apply BitVec.eq_of_getLsbD_eq
  intro i hi
  rw [fieldsOf, BitVec.getLsbD_setWidth, firstWord]
  refine (congrArg _ (BitVec.getLsbD_append ..)).trans ?_
  simp [hi]

theorem opOf_lt (i : Instr) : opOf i < 256 := by
  unfold opOf
  split
  case h_1 => exact Nat.mod_lt _ (by decide)
  all_goals omega

/-- A first word spells the instruction of its OP, on its fields. -/
theorem decodeWords_first {n : Nat} (h : n < 256) (e : EngId) (f : Fields) (w1 n1 n2 : Word64) :
    decodeWords e (firstWord n f) w1 n1 n2 = instrOfOp e n f (firstWord n f) w1 n1 n2 := by
  rw [decodeWords, firstWord_op h, firstWord_fields]

/-- A word whose OP is NOP's or unassigned spells the NOP that carries it. -/
theorem decodeWords_nop {e : EngId} {w : Word64} (h : (Instr.nop e w).wf = true) (w1 n1 n2 : Word64) : decodeWords e w w1 n1 n2 = .nop e w := by
  simp only [Instr.wf, Bool.or_eq_true, beq_iff_eq, Bool.not_eq_true'] at h
  unfold decodeWords instrOfOp
  generalize bits w.toNat 63 56 = op at h
  split <;> first | rfl | (exfalso; revert h; decide)

/-- Every well-formed instruction of an engine stands for the words that spell it: no operand bit is lost (R75). -/
theorem decodeWords_wordsOf {i : Instr} {e : EngId} {w0 w1 n1 n2 : Word64} (h : i.wf = true) (hw : wordsOf i = some (e, w0, w1, n1, n2)) :
    decodeWords e w0 w1 n1 n2 = i := by
  cases i <;> try cases hw
  case nop => exact decodeWords_nop h ..
  case sig q _ => match q with | 0 | 1 | 2 | 3 => exact decodeWords_first (opOf_lt _) ..
  case wait q _ => match q with | 0 | 1 | 2 | 3 => exact decodeWords_first (opOf_lt _) ..
  all_goals refine (decodeWords_first (opOf_lt _) ..).trans ?_
  all_goals
    first
      | rfl
      | (simp only [Instr.wf, beq_iff_eq, bne_iff_ne] at h; simp [instrOfOp, opOf, h])

end Sys2Proof.Machine
end

