-- ==== Sys2Proof/Laws/Issue.lean ====
section
/-! SUPPORT. What issue does with an instruction that finds its engine free: it has its whole effect at once (R72 to R88). -/

namespace Sys2Proof.Machine

theorem tileRead_clean {s : State} {e a n : Nat} (h : (s.eng e).tileErr = []) :
    tileRead s e a n = (s, false, tileBytes (s.eng e) a n) := by
  simp [tileRead, h, noteCe, State.noteUe]

theorem tileWrite_clean {s : State} {e a : Nat} {bs : List Byte} (h : (s.eng e).tileErr = []) :
    tileWrite s e a bs = (s.setEng e (putTile (s.eng e) a bs), false) := by
  simp [tileWrite, h]

theorem accRead_clean {s : State} {e tile row n : Nat} (h : (s.eng e).accErr = []) :
    accRead s e tile row n =
      (s, false, (List.range n).map fun c => (SMap.get (fun _ => 0#32) (s.eng e).acc (accKey tile row 0 + c)).toNat) := by
  simp [accRead, h, noteCe, State.noteUe]

/-! ## The queues between commands -/

theorem drain_none {s : State} {e : Nat} (h : queueStep s e = none) : drain s e = s := by
  show drainFuel (1023 + 1) e s = s
  simp only [drainFuel, h]

theorem drain_once {s t : State} {e : Nat} (h : queueStep s e = some t) (h' : queueStep t e = none) : drain s e = t := by
  show drainFuel (1022 + 1 + 1) e s = t
  simp only [drainFuel, h, h']

/-- Nothing moves where every queue is empty and no deferred entry is asked for. -/
theorem queueStep_empty {s : State} {e : Nat} (hq : (s.eng e).queues = []) (hd : (s.eng e).deferred = []) : queueStep s e = none := by
  simp [queueStep, headsOf, Engine.queue, hq, hd, SMap.get]

/-- Only a WAIT waits. -/
theorem waits_wait {g : Engine} {x : QEntry} (h : headKind g x = .waits) : ∃ a b f, x.instr = .wait a b f := by
  unfold headKind at h
  split at h
  · cases h
  · split at h
    · exact ⟨_, _, _, ‹_›⟩
    all_goals exfalso; revert h; (repeat' split) <;> simp

/-- The one instruction of all queues moves when it can run or its WAIT is satisfied. -/
theorem queueStep_single {s : State} {e q : Nat} {x : QEntry} (hq : (s.eng e).queues = [(q, [x])]) (h4 : q < 4)
    (hi : (s.eng e).issue = .going) (hk : headKind (s.eng e) x = .runs ∨ headKind (s.eng e) x = .waits) :
    queueStep s e = some (runHead s e q x) := by
  have : q = 0 ∨ q = 1 ∨ q = 2 ∨ q = 3 := by omega
  rcases hk with hk | hk
  · rcases this with rfl | rfl | rfl | rfl <;>
      simp [queueStep, headsOf, waiting, runWaits, runHeads, stayStopped, Engine.queue, hq, SMap.get, hk, hi]
  · obtain ⟨a, b, f, hw⟩ := waits_wait hk
    rcases this with rfl | rfl | rfl | rfl <;>
      simp [queueStep, headsOf, waiting, runWaits, runHeads, Engine.queue, hq, SMap.get, hk, hw]

theorem queueOf_lt {i : Instr} {q : Nat} (h : queueOf i = some q) : q < 4 := by
  simp only [queueOf, Option.ite_none_left_eq_some, Option.some.injEq] at h
  have := opOf_lt i
  omega

/-- An instruction that finds its engine free is not held. -/
theorem not_held {s : State} {e : EngId} {f : Fields} {i : Instr} (h : Issuable s e f i) : heldBack (s.eng e.val) f i = false := by
  have hq : ∀ q, (s.eng e.val).queue q = [] := by intro q; simp [Engine.queue, h.queues, SMap.get]
  simp only [heldBack, Engine.places, mustHold, hq, h.deferred, List.filter_nil, List.append_nil, List.map_nil, List.any_nil, Bool.false_or, List.nil_append,
    List.any_cons, h.slots]
  cases hqo : queueOf i with
  | none => simp
  | some q => simp [queueDepth]; split <;> omega

/-- Issue of an instruction that finds its engine free. -/
theorem issue_free {s : State} {e : EngId} {f : Fields} {i : Instr} (h : Issuable s e f i) :
    followerLegal e i = true → issue e f i s = issueNow e f i (s.eng e.val).pc s := by
  intro hf
  simp [issue, h.runs, not_held h, tileRead_clean h.tileErr, h.legal, hf]

theorem issue_online {s : State} {e : EngId} {f : Fields} {i : Instr} (h : Issuable s e f i) : (s.eng e.val).online = true := by
  have := h.runs; simp only [issues, Bool.and_eq_true] at this; exact this.1.1.1.1

/-- An instruction of a queue that finds its engine free and can run has its effect at once, ENG_PC past its words. -/
theorem issue_runs {s t : State} {e : EngId} {f : Fields} {i : Instr} {q : Nat} (h : Issuable s e f i) (hq : queueOf i = some q)
    (hf : followerLegal e i = true)
    (hk : ∀ g : Engine, g.sems = (s.eng e.val).sems → g.shadow = (s.eng e.val).shadow → g.deferred = [] →
      g.fillQ = (s.eng e.val).fillQ → g.spillQ = (s.eng e.val).spillQ →
      headKind g (entryOf (s.eng e.val) i) = .runs ∨ headKind g (entryOf (s.eng e.val) i) = .waits)
    (ht : runInstr e.val (entryOf (s.eng e.val) i) (s.modEng e.val fun g => g.past (issueBytes true i)) = t)
    (htq : (t.eng e.val).queues = []) (htd : (t.eng e.val).deferred = []) : issue e f i s = t := by
  have hon := issue_online h
  have hpast : setPc s e.val ((s.eng e.val).pc + issueBytes true i) = s.modEng e.val fun g => g.past (issueBytes true i) := by
    simp [setPc, State.modEng, Engine.past]
  rw [issue_free h hf]
  simp only [issueNow, h.guard, hq, hpast, enqueue]
  let x := entryOf (s.eng e.val) i
  have hx : (⟨i, (s.eng e.val).pc, ((s.modEng e.val fun g => g.past (issueBytes true i)).eng e.val).regs, true, false, 0, 0, 0⟩ : QEntry) = x := by
    simp [x, entryOf, Engine.past]
  have hs1 : ((s.modEng e.val fun g => g.past (issueBytes true i)).modEng e.val
      fun g => g.setQueue q (g.queue q ++ [⟨i, (s.eng e.val).pc, g.regs, true, false, 0, 0, 0⟩])) =
      s.modEng e.val fun g => (g.past (issueBytes true i)).setQueue q ((g.past (issueBytes true i)).queue q ++ [x]) := by
    rw [State.modEng_modEng _ _ _ _ (by simpa [Engine.past] using hon) (by simpa [Engine.past, Engine.setQueue] using hon)]
    simp only [State.modEng]
    congr 1
  rw [hs1]
  have hempty : (s.eng e.val).queue q = [] := by simp [Engine.queue, h.queues, SMap.get]
  let s1 := s.modEng e.val fun g => (g.past (issueBytes true i)).setQueue q ((g.past (issueBytes true i)).queue q ++ [x])
  have he1 : s1.eng e.val = ((s.eng e.val).past (issueBytes true i)).setQueue q [x] := by
    simp [s1, Engine.past, Engine.queue, h.queues, SMap.get, Engine.setQueue]
  have hq1 : (s1.eng e.val).queues = [(q, [x])] := by
    rw [he1]; simp [Engine.setQueue, Engine.past, h.queues, SMap.set, SMap.put]
  have hk1 : headKind (s1.eng e.val) x = .runs ∨ headKind (s1.eng e.val) x = .waits := by
    apply hk <;> rw [he1] <;> simp [Engine.setQueue, Engine.past, h.deferred]
  have hi1 : (s1.eng e.val).issue = .going := by
    have := h.runs
    simp only [issues, Bool.and_eq_true, decide_eq_true_eq] at this
    rw [he1]; exact this.2
  have hback : s1.modEng e.val (fun g => g.setQueue q (g.queue q).tail) = s.modEng e.val fun g => g.past (issueBytes true i) := by
    simp only [s1]
    rw [State.modEng_modEng _ _ _ _ (by simpa [Engine.past, Engine.setQueue] using hon)
      (by simpa [Engine.past, Engine.setQueue] using hon)]
    simp only [State.modEng]
    congr 1
    simp [Engine.setQueue, Engine.past, Engine.queue, h.queues, SMap.set, SMap.put, SMap.get]
  have hrun : runHead s1 e.val q x = t := by
    have hl : x.live = true := rfl
    have hw : x.wg = false := rfl
    simp only [runHead, hl, hw, hback, if_true, Bool.false_and, Bool.false_eq_true, if_false]
    exact ht
  exact drain_once ((queueStep_single hq1 (queueOf_lt hq) hi1 hk1).trans (congrArg some hrun)) (queueStep_empty htq htd)

/-- An instruction whose run changes its engine alone. -/
theorem issue_setEng {s : State} {e : EngId} {f : Fields} {i : Instr} {q n : Nat} {G : Engine} (h : Issuable s e f i)
    (hq : queueOf i = some q) (hf : followerLegal e i = true) (hn : issueBytes true i = n)
    (hk : ∀ g : Engine, g.sems = (s.eng e.val).sems → g.shadow = (s.eng e.val).shadow → g.deferred = [] →
      g.fillQ = (s.eng e.val).fillQ → g.spillQ = (s.eng e.val).spillQ →
      headKind g (entryOf (s.eng e.val) i) = .runs ∨ headKind g (entryOf (s.eng e.val) i) = .waits)
    (hr : runInstr e.val (entryOf (s.eng e.val) i) (s.setEng e.val ((s.eng e.val).past n)) = s.setEng e.val G)
    (hgq : G.queues = []) (hgd : G.deferred = []) : issue e f i s = s.setEng e.val G := by
  subst hn
  exact issue_runs h hq hf hk hr (by simpa using hgq) (by simpa using hgd)

end Sys2Proof.Machine
end

