-- ==== Sys2Proof/Tests/Slice0.lean ====
section
/-! SUPPORT. Tests of the model's own: the worked examples of the specification, an ill-formed command for each check of `Instr.wf`, and for every
statement with hypotheses states and operands that meet them. A clause is named by its place in the statement, its conjuncts counted from 0. -/

open Sys2Proof Sys2Proof.Machine

namespace Sys2Proof.Tests

set_option Elab.async false

/-! ## States -/

/-- Registers with values in some of each file: regions t1 to t3 with a pitch of 65, 64 and 64 words. -/
def regs0 : RegFile :=
  { s := [(1, 0x8123456789ABCDEF), (2, 0x40), (7, 1)], a := [(1, 0xFFFFFFFFFFF0)], p := [(1, true), (3, true)],
    t := [(1, 0x0105000000000100), (2, 0x0101000000040000), (3, 0x0101000000080000)] }

/-- An engine that issues: in service, bound to context 5 as rank 0 of one, its set started. -/
def eng0 : Engine :=
  { slot := 2, online := true, bound := true, ctx := 5, nset := 1, started := true, pc := 64, regs := regs0, flags := 0x1F,
    tile := ByteMap.wrN [] 0x100 ((List.range 72).map fun i => BitVec.ofNat 8 (i * 37 + 1)), sems := [(4, 7)], tallies := [(0x1F, 77)] }

/-- It stands under the logical number 3. -/
def s0 : State := State.reset.setEng 3 eng0
/-- An engine. -/
def e0 : EngId := 3

/-- A device that has started. -/
def up : State := State.reset.setFld Off.hubStatus 31 31 1
/-- A powered device that stands in `s0`. -/
def pw : State := { s0 with boot := { s0.boot with powered := true } }
/-- The same with its function reset by PERST#. -/
def sPwIdle : State := { pw with power := { pw.power with perst := true } }
/-- A stop of context 5 is wanted; engine 3 stops, with and without a transfer in progress. -/
def sP : State := s0.modCtx 5 fun c => { c with preempt := true }
def sSt : State := s0.setEng 3 { eng0 with issue := .stopping 0x77 0x88 }
def sSt2 : State := s0.setEng 3 { eng0 with issue := .stopping 0x77 0x88, fillQ := [{ instr := .fill e0 0 0, pc := 0, regs := {} }] }
/-- Semaphore 4 at its top value. -/
def sSemTop : State := s0.setEng 3 { eng0 with sems := [(4, 0xFFFF)] }
/-- A queue of engine 3 is full. -/
def sFullOf (q : Nat) : State := s0.setEng 3 { eng0 with queues := [(q, List.replicate 16 ⟨.vadd e0 0, 0, {}, true, false, 0, 0, 0⟩)] }
/-- It is halted. -/
def sHalt : State := s0.setEng 3 { eng0 with haltReq := true }
/-- A stationary block, active and in the shadow. -/
def st0 : Stationary :=
  ⟨3, 3, false, false, 0, 1, ByteMap.wrN [] 0 ((List.range 8000).map fun i => BitVec.ofNat 8 (i * 13 % 120)),
    ByteMap.wrN [] 0 ((List.range 256).map fun i => BitVec.ofNat 8 (0x70 + i % 9)), []⟩
def sA : State := s0.setEng 3 { eng0 with active := st0, acc := [(5, 0x3f800000)] }
def sB : State := s0.setEng 3 { eng0 with shadow := some st0, acc := [(5, 0x3f800000#32)] }
/-- Two instructions wait deferred behind a queue that is not empty. -/
def sD : State := s0.setEng 3 { eng0 with
  deferred := [⟨.drain e0 0 0, 0, {}, true, true, 0, 0, 0⟩, ⟨.drain e0 1 0, 0, {}, true, true, 0, 0, 0⟩],
  queues := [(2, [⟨.nop e0 0, 0, {}, true, false, 0, 0, 0⟩])] }
/-- The deferred queue is full. -/
def sDefFull : State := s0.setEng 3 { eng0 with deferred := List.replicate 256 ⟨.drain e0 0 0, 0, {}, true, true, 0, 0, 0⟩ }
/-- A state without the message in front of its inbox, where there is one message. -/
def took (s : State) : State := { s with fabric := { s.fabric with inbox := [] } }

/-- Registers for transfers: addresses in a1 to a3, lengths 64 and 0 in s5 and s6, an entry's value in s7, a count of entries in s8. -/
def regsX : RegFile :=
  { s := [(2, 0x40), (5, 64), (7, 0x8000000000000123), (8, 4097), (9, 1)], a := [(1, 0x1000), (2, 0x1001), (3, 0x2000), (4, 0xFFFF00000000)],
    t := [(2, 0x0101000000040000)] }
/-- Operands of a transfer: address a1, region t2, length s5, semaphore 4, increment 2. -/
def fX : Fields := 0x2022908000000
/-- The same from the misaligned a2, and with length 0. -/
def fXmis : Fields := 0x4022908000000
def fXzero : Fields := 0x2023108000000
def skE (i : Instr) (st : Stage) : SkEntry := { instr := i, pc := 64, regs := regsX, id := 9, stage := st }
/-- Engine 3 with one descriptor in a queue. -/
def sFillQ (i : Instr) (st : Stage) : State := s0.setEng 3 { eng0 with fillQ := [skE i st] }
def sSpillQ (i : Instr) (st : Stage) : State := s0.setEng 3 { eng0 with spillQ := [skE i st] }
/-- A signal of semaphore 4 to another rank of a set of two. -/
def rsF (r : Nat) : Fields := BitVec.ofNat 56 (2 ^ 47 * 4 + 2 ^ 40 * r + 7)
def sRs (r : Nat) : State :=
  ((s0.setEng 3 { eng0 with nset := 2, spillQ := [{ skE (.rsig e0 (rsF r)) .waiting with pc := 64 }] }).setEng 4
    { eng0 with slot := 9, rank := 1, nset := 2 }).modCtx 5 fun c => { c with members := [3, 4] }
/-- The transfers that the operands name. -/
def trX : Transfer := ⟨64, 64, 0x1000, 0, 0x40000, false, 0, 0⟩
def trMis : Transfer := { trX with addr := 0x1001 }
def trZero : Transfer := { trX with len := 0 }
/-- Operands of a COPY to a3, and the transfers of a COPY, an ADDW, an ATOM and a WINFILL. -/
def fXcopy : Fields := 0x2022909800000
def trCopy : Transfer := { trX with dest := 0x2000, tile := 0 }
def trAdd : Transfer := { trX with unit := 4, lpol := 1 }
def trAtom : Transfer := { trAdd with len := 4 }
def trWin : Transfer := { trX with len := 1, unit := 1 }
/-- A WINFILL of one row of one block, with its descriptor. -/
def skWin (held : List Byte) : SkEntry := { skE (.winfill e0 fX 0) .started with held := held }
def sWinFill (held : List Byte) : State := s0.setEng 3 { eng0 with fillQ := [skWin held] }
/-- The same transfers to device 7, with one request in a state. -/
def wRem : Word64 := 0x100700000000
def trRem (x : Transfer) : Transfer := { x with remote := true, dev := 7 }
def reqX (status : Nat) : RemoteReq :=
  { tag := 9, rq := 3, id := 9, op := 1, addr := 0x1000, pos := 0, len := 64, us := 0, status := status, data := List.replicate 64 7 }
def sReqX (s : State) (status : Nat) : State := { s with fabric := { reqs := [reqX status] } }

/-- The first direct allocation of die 0 holds its first 64 KiB. -/
def sAlloc : State := (up.setReg64 (Off.dalloc 0 0) (2 ^ 63 + 2 ^ 16))
/-- Eight bytes. -/
def bytes8 : List Byte := [1, 2, 3, 4, 5, 6, 7, 8]
/-- Line 64 of device memory lies where map entry 0 puts it. -/
def sLine : State := { up with mem := { up.mem with hbm := ByteMap.wrN [] 386547056896 bytes8 } }
/-- Stack 0 is scrubbed, and its line 17 has a mark. -/
def sScrub (m : Nat) : State :=
  { up.setFld (Off.memReg 0 0xC) 31 31 1 with boot := { up.boot with powered := true, memReady := true }, mem := { up.mem with hbmErr := [(17, m)] } }

/-- A KVMAP of a1 with the value of s7, and of the misaligned a2. -/
def fMap : Fields := 0x2039080000000
def fMapMis : Fields := 0x4039080000000
def sMap (f : Fields) : State := sSpillQ (.kvmap e0 f 0) .waiting
/-- A KVMAP behind a SPILL to the same line. -/
def sMapBehind : State :=
  s0.setEng 3 { eng0 with spillQ := [{ skE (.spill e0 fX 0) .started with id := 8 }, skE (.kvmap e0 fMap 0) .waiting] }
/-- A walk of engine 5 that pins the entry at 0x1000. -/
def wPin : Walk := { eng := 5, id := 1, ctx := 5, base := 0x1000, n := 1 }
def sMapPinned : State := { sMap fMap with kv := { walks := [wPin] } }
/-- An edit of the entry at an address. -/
def edAt (a : Nat) : Edit := { addr := a, value := 0x55, id := 2, eng := 4, ctx := 5 }
def sMapFull : State := { sMap fMap with kv := { walks := [wPin], edits := List.replicate 64 (edAt 0x1000) } }

/-- Walks of no entry, of 4,097 entries, of one entry, and from a misaligned base. -/
def fWalk : Fields := 0x2030010084000
def fWalkMany : Fields := 0x2040000000000
def fWalkOne : Fields := 0x2048000000000
def fWalkMis : Fields := 0x4030000000000
def sWalk (f : Fields) (st : Stage) : State := sFillQ (.kvwalk e0 f 0) st
def wDone : Walk := { eng := 3, id := 9, ctx := 5, base := 0x1000, n := 0, changed := true }
def sWalkEnd : State := { sWalk fWalk .started with kv := { walks := [wDone] } }
def sWalkBusy : State := { sWalk fWalk .waiting with kv := { walks := [wDone] } }
def sWalkEdit : State := { sWalk fWalkOne .waiting with kv := { edits := [edAt 0x1000] } }
def sEdit : State := { s0 with kv := { edits := [edAt 0x1000] } }

/-- Monitor 7 on for context 5, with a feed of a context waiting for it, a widening request, a grant. -/
def sMon : State := (up.setFld (Off.monReg 7 0) 30 23 0xA5).setReg64 (Off.monReg 7 8) (2 * 2 ^ 48 + 0x3000)
def feedOf (c : Nat) : Feed := ⟨7, c, 3, 100, some 200, 3, false⟩
def sFeed (s : State) (c : Nat) : State := { s with sched := { s.sched with feeds := [feedOf c] } }
def sWiden : State := { (sMon.setFld Off.widenBudget 19 0 2) with sched := { sMon.sched with widenReqs := [7] } }
def sDenied : State := { (sMon.setFld Off.widenBudget 19 0 1) with sched := { sMon.sched with widenReqs := [7] } }
def sGrant : State := { sMon with sched := { sMon.sched with grants := [7] } }
def sWide : State := sMon.setFld (Off.monReg 7 0x10) 30 30 1
/-- A window of 256 elements that the feed fills, a grant whose word lies in a hole, and one that is released meanwhile. -/
def sMonWin : State := (sMon.setFld (Off.monReg 7 4) 23 0 1).setReg (Off.monReg 7 0x14) 253
def sGrantHole : State := sGrant.setReg64 (Off.monReg 7 8) (2 * 2 ^ 48 + 0x040000000000)
def sGrantRel : State := { sGrant with sched := { sGrant.sched with releases := [7] } }

/-- Bytes put into device memory. -/
def putMem (s : State) (a : Nat) (bs : List Byte) : State := (memWrite s .sched a bs).1
/-- A started device with 96 logical engines, of which engine 3 is `eng0`. -/
def sWin : State := (up.setFld Off.engCount 22 16 96).setEng 3 eng0
/-- Its engine 3 halted, and with its debug address advancing. -/
def sWinHalt : State := sWin.setEng 3 { eng0 with haltReq := true, halted := true }
def sWinAinc : State := sWin.setEng 3 { eng0 with dbgAinc := true, dbgAddr := 0x100 }
/-- A started device whose memory is not ready, and one whose memory is. -/
def sHeld : State := { up with boot := { up.boot with powered := true, memReady := false } }
def sMem : State := { up with boot := { up.boot with powered := true, memReady := true } }

/-- Context 5 in a state of Table 13-1, its set engines 3 and 4, its save area at 0x100000 with room of 1 MiB for a rank. -/
def sCtx (st : Nat) : State :=
  let s := ((((up.setFld Off.engCount 22 16 96).setReg (Off.ctxReg 5 0x14) 0x18).setReg64 (Off.ctxReg 5 8) 0x100000).setFld (Off.ctxReg 5 0x10) 15 0 1).setCtxState 5 st
  (s.setEng 3 { slot := 2, online := true }).setEng 4 { slot := 3, online := true }
def sSaved : State := (sCtx 4).modCtx 5 fun c => { c with savedNset := 2 }
def item0 : WorkItem := ⟨0, [0x1400000000000000], 0, 0⟩
/-- Context 5 bound to engines 3 and 4, which stand as told. -/
def sSet (st : Nat) (i3 i4 : IssueState) : State :=
  let s := ((sCtx st).setEng 3 { eng0 with nset := 2, issue := i3 }).setEng 4 { eng0 with slot := 3, rank := 1, nset := 2, issue := i4 }
  { s.modCtx 5 (fun c => { c with members := [3, 4], item := some item0, preempt := true, reqUs := 5 }) with us := 100 }
def stopped0 : IssueState := .stopped 0x0000000000000 0x50000
/-- A set that stopped, with 16 bytes of room. -/
def sNoRoom : State := (sSet 3 stopped0 stopped0).setFld (Off.ctxReg 5 0x10) 15 0 0
/-- A set stopped and saved, then bound again for its restore; and one whose record is not there. -/
def sRestore : State := match exec (.contextSave 5) (sSet 3 stopped0 .done) with
  | .next t => ((t.setCtxState 5 5).setEng 3 { slot := 2, online := true, bound := true, ctx := 5, nset := 2 }).modCtx 5 fun c => { c with members := [3] }
  | _ => up
def sRestoreBad : State := (sCtx 5).modCtx 5 fun c => { c with members := [3] }
def workWords : List Nat := [5 * 2 ^ 58, 0x300000, 64 * 2 ^ 23 + 0x40, 0x48, 0, 0, 0, 0]
/-- Work ring of two entries at 0x200000 with one item of context 5: image of 64 bytes at 0x300000, to tile address 0x40, entry 0x48. -/
def sWork (st : Nat) : State :=
  let s := (sCtx st).setReg64 Off.workRing 0x200000
  let s := ((s.setFld Off.workCtl 31 31 1).setFld Off.workCtl 4 0 1).setFld Off.workTail 15 0 1
  let s := s.setFld 0x402000 1 0 2
  putMem s 0x200000 (workWords.flatMap (leBytes 8))
/-- The item is read; the ring is off. -/
def sWorkOff : State := (sWork 1).setFld Off.workCtl 31 31 0
def sMarkOf (sel : Nat) : State := { sSet 2 .going .going with sched := { s0.sched with marks := [(5, sel, 77)] } }
/-- Contexts in teardown. -/
def sTear : State := ((sSet 6 .torn .torn).modCtx 5 fun c => { c with tearUs := 0 })
def sTearBusy : State := { (sTear.modEng 3 fun g => { g with fillQ := [skE (.fill e0 fX 0) .started] }) with us := 10000 }
def sFatal : State := up.setFld Off.hubStatus 30 30 1
/-- A set that has not stopped 95 µs after its request: PTO is 95, with PTOKILL 0 and 1; and PTO 96. -/
def sSlow (pto : Nat) : State := (sSet 3 stopped0 .going).setFld (Off.ctxReg 5 0) 19 0 pto
def sSlowKill : State := (sSlow 95).setFld (Off.ctxReg 5 0) 27 27 1
/-- The error ring with 63 and 64 records that the host has not taken. -/
def sErr (n : Nat) : State := up.setFld Off.errTail 7 0 n
/-- No entry of the memory map is set. -/
def sNoMap : State := { (sMem.setReg64 (Off.map0 0) 0) with us := 3 }
/-- PERST# is asserted; the device sleeps; a line of device memory is poisoned. -/
def sPerstUp : State := { up with power := { up.power with perst := true } }
def sAsleep : State := sMem.setFld Off.pwrState 1 0 2
def sPoison : State := { sMem with mem := { sMem.mem with hbmErr := [(386547056896 / 64, 2)] } }
/-- A set that is saved, one of whose engines is bound; sets that stopped in a contained device, with no mapped memory, and with a live region that does not decode. -/
def sSavedBusy : State := sSaved.modEng 3 fun g => { g with bound := true }
def sSetFatal : State := (sSet 3 stopped0 .done).setFld Off.hubStatus 30 30 1
def sSetUnmapped : State := (sSet 3 stopped0 stopped0).setReg64 (Off.map0 0) 0
def sSetTrap : State := (sSet 3 (.stopped 0 0x0002000000050000) stopped0).modEng 3 fun g =>
  { g with regs := { g.regs with t := [(1, 64 * 2 ^ 23 + 0x100)] }, tileErr := [(32, 2)] }

/-- The Ferry ring of two entries at 0x240000 with one descriptor: an operation, generation 3, entry address 0x250000, unit 1, slot 2. -/
def sFerry (op gen : Nat) (eaddr : Nat) (entry : Nat) : State :=
  let s := (((sMem.setReg64 Off.ferryRing 0x240000).setFld Off.ferryCtl 31 31 1).setFld Off.ferryCtl 4 0 1).setFld Off.ferryTail 15 0 1
  let s := ((s.setReg64 Off.ferryHost 0x800000100000).setReg64 Off.ferryHscl 0x800000200000)
  let s := ((s.setReg64 Off.boomBase 0x400000).setReg64 Off.boomScale 0x600000)
  let s := putMem s 0x240000 (leBytes 8 (op * 2 ^ 62 + 5 * 2 ^ 56 + gen * 2 ^ 48 + eaddr) ++ leBytes 8 1 ++ leBytes 8 2 ++ leBytes 8 0)
  putMem s 0x250000 (leBytes 8 entry)
/-- The ring moved to a hole. -/
def sFerryHole : State := (sFerry 1 3 0x250000 0).setReg64 Off.ferryRing 0x040000000000
/-- The descriptor. -/
def fdOf (op gen eaddr : Nat) : FerryDesc := ⟨op, 5, gen, eaddr, 1, 2, 0⟩
/-- A valid HB4F entry of generation 3 in device memory at unit 1, and in host memory at slot 2. -/
def entryIn : Nat := 2 ^ 63 + 3 * 2 ^ 48 + 1
def entryOut : Nat := 2 ^ 63 + 2 ^ 62 + 3 * 2 ^ 48 + 2
/-- The same with the host slots laid into device memory far from the entry, with and without an edit of the entry pending. -/
def sFerryFar : State := ((sFerry 1 3 0x250000 entryIn).setReg64 Off.ferryHost 0x1000000).setReg64 Off.ferryHscl 0x1200000
def sFerryPinned : State := { sFerryFar with kv := { edits := [{ addr := 0x250000, value := 0x77, ctx := 5 }] } }
def edFerry : Edit := { addr := 0x250000, value := 0x77, expect := some entryIn, ctx := 5 }
def sFerryCommit : State := { sFerry 1 3 0x250000 entryIn with kv := { ferry := true, edits := [edFerry] } }

/-- A flash descriptor: OP, gated or not, key slot, LBA, blocks, device address, gate word and value. -/
def flsWords (op : Nat) (gate : Nat) (slot lba nlb daddr : Nat) (gaddr gval : Nat) : List Nat :=
  [op * 2 ^ 60 + 5 * 2 ^ 54 + slot * 2 ^ 32 + gate * 2 ^ 8, lba * 2 ^ 24, nlb, daddr, 0, gval, 0, gaddr]
/-- The flash ring of two entries at 0x280000 with one descriptor, a capacity of 16 blocks. -/
def sFls (ws : List Nat) : State :=
  let s := (((sMem.setReg64 flsRing 0x280000).setFld flsCtl 31 31 1).setFld flsCtl 4 0 1).setFld flsTail 15 0 1
  putMem (s.setReg64 flsCap 16) 0x280000 (ws.flatMap (leBytes 8))
def wsRo : List Nat := flsWords 2 0 0 0 1 0x40 0 0
def sFlsRo : State := (sFls wsRo).setFld flsStatus 31 31 1
/-- A gate word of 5 at 0x290000. -/
def wsGate (gval : Nat) : List Nat := flsWords 1 1 0 0 1 0x40 0x290000 gval
def sGate (gval : Nat) : State := putMem (sFls (wsGate gval)) 0x290000 (leBytes 8 5)
/-- Commands in progress. -/
def cmdOf (ws : List Nat) : FlashCmd := { index := 0, words := ws }
def sFlsCmd (ws : List Nat) : State := { sFls ws with flash := { cmds := [cmdOf ws] } }
def cTrim : FlashCmd := cmdOf (flsWords 3 0 0 2 3 0 0 0)
def sFlsTrim : State := sFlsCmd (flsWords 3 0 0 2 3 0 0 0)
/-- A READ of a block that does not decode. -/
def wsMedia : List Nat := flsWords 1 0 0 2 1 0x40 0 0
def sFlsMedia : State := { sFlsCmd wsMedia with flash := { cmds := [cmdOf wsMedia], media := [(2, 2)] } }
/-- A WRITE whose host bytes have not come. -/
def wsWait : List Nat := flsWords 2 0 0 2 1 0x800000000040 0 0
def sFlsWait : State := sFlsCmd wsWait
/-- A TRIM behind another of the same block. -/
def sFlsBehind : State := { sFls [] with flash := { cmds := [{ index := 1, words := flsWords 3 0 0 2 1 0 0 0 }, cTrim] } }
def wsFetch : List Nat := flsWords 5 0 0 0 1 0x40 0 0
def nfReq (st : Nat) : RemoteReq := { tag := 4, rq := nfRq, id := 0, op := 1, addr := 0, pos := 0, len := 4096, us := 0, status := st }
def sFetch (st : Nat) : State := { sFlsCmd wsFetch with fabric := { reqs := [nfReq st] } }
/-- Physical block 8 holds logical block 2 and has been read a given number of times. -/
def sWorn (n : Nat) : State := { sFls [] with flash := { phys := [(2, 9)], reads := if n = 0 then [] else [(9, n)], blocks := [(8192, 7)] } }
/-- The model commands. -/
def sModel (st : Nat) : State := sMem.setFld secModel 1 0 st
def sUnloading : State := { sModel 1 with flash := { unloading := true } }
def sLoadBad : State := { sModel 1 with flash := { loading := some none } }
def sLoadGood : State := { sModel 1 with flash := { loading := some (some (0x55, List.replicate 48 3, List.replicate 32 4)) } }
def sModelBusy : State := (sModel 2).setCtxState 5 1
/-- A gate word at a misaligned address, and power-fail. -/
def wsGateBad : List Nat := flsWords 1 1 0 0 1 0x40 0x290004 5
def sGateBad : State := sFls wsGateBad
def sWornFail : State := { sWorn 0 with powerFail := true }

/-- A stream record: AV1, a frame of 8 by 8, 4:0:0, two buffers of 64 bytes at 0x300000, its state area at 0x400000. -/
def rec0 (enc : Nat) : List Nat :=
  [2 ^ 60 + enc * 2 ^ 59 + 2 ^ 48 + 7 * 2 ^ 34 + 7 * 2 ^ 20, 0x300000, 64, 8, 0, 0x400000, 0x300000, 0xA00000]
/-- One whose buffers lie in a hole. -/
def recHole : List Nat := [2 ^ 60 + 2 ^ 48 + 7 * 2 ^ 34 + 7 * 2 ^ 20, 0x040000000000, 64, 8, 0, 0x400000, 0, 2 ^ 48 - 1]
def slot0 (r : List Nat) : CSlot := { open_ := true, record := r, ctx := 5, outs := 1 }
/-- A job of an OP for slot 3: access unit, source or parameters at 0x500000, 16 bytes. -/
def jobOf (i op : Nat) : CJob :=
  { index := i, words := [op * 2 ^ 60 + 3 * 2 ^ 54 + 5 * 2 ^ 48, 0x500000, 16, 0x600000], stamp := 7 }
/-- The job ring of two entries at 0x2C0000 with one descriptor. -/
def sCodRing : State :=
  let s := (((sMem.setReg64 codRing 0x2C0000).setFld codCtl 31 31 1).setFld codCtl 4 0 1).setFld codTail 15 0 1
  putMem s 0x2C0000 ((jobOf 0 2).words.flatMap (leBytes 8))
/-- Jobs in progress, with slot 3 closed or open. -/
def sJobs (js : List CJob) : State := { sCodRing with codec := { jobs := js } }
def sJobsOpen (js : List CJob) (r : List Nat) : State := { sCodRing with codec := { jobs := js, slots := [(3, slot0 r)] } }
/-- An OPEN whose record is good. -/
def sOpen : State := putMem (sJobs [jobOf 0 1]) 0x500000 ((rec0 0).flatMap (leBytes 8))
/-- A search of one 8 by 8 block over frames of 8 by 8 at 0x700000 and 0x710000. -/
def jobSearch : CJob := { jobOf 0 6 with unit := some 6 }
def parm0 (w : Nat) : List Nat := [0x700000, 0x710000, 64 + 64 * 2 ^ 32, w * 2 ^ 50 + 7 * 2 ^ 36, 0x720000, 0, 0, 0]
def sSearch (w : Nat) : State := putMem (sJobs [jobSearch]) 0x500000 ((parm0 w).flatMap (leBytes 8))
def jobHole : CJob := { jobSearch with words := [6 * 2 ^ 60, 0x040000000000, 0, 0] }
def sSearchHole : State := sJobs [jobHole]
/-- A job on a unit. -/
def jobOn (op u : Nat) : CJob := { jobOf 0 op with unit := some u }
def onUnit0 (op u : Nat) (r : List Nat) : State := sJobsOpen [jobOn op u] r
/-- A DECODE whose access unit is host bytes that have not come. -/
def jobWait : CJob := { jobOn 2 0 with words := [2 * 2 ^ 60 + 3 * 2 ^ 54, 0x800000000000, 16, 0] }
def sDecWait : State := sJobsOpen [jobWait] recHole
def jobEnded : CJob := { jobOf 0 2 with ended := some ⟨3, 0, 0, false⟩ }
def sEnded : State := sJobs [jobEnded]
/-- What the search works on. -/
def search0 : Search := 
  { words := parm0 7, field := 0x600000, w := 8, h := 8, b := 8, gx := 0, gy := 0, lambda := 0, cur := List.replicate 64 0,
    rx := 0, ry := 0, rw := 8, ref := List.replicate 64 0, bps := 1 }

/-- Slip 3 enabled, in a state of Table 14-2. -/
def sSlip (st : Nat) : State := { (((sMem.setFld (slipReg 3 0) 31 31 1).setFld (slipReg 3 4) 30 28 st).setFld (slipReg 3 0) 15 8 1).setFld (slipReg 3 0) 7 0 1 with us := 1000000 }
def sSlipOff : State := (sSlip 0).setFld (slipReg 3 0) 31 31 0
def sSlipAgain (st : Nat) : State := (sSlip st).setFld (slipReg 3 0) 30 30 1
/-- It may not run narrower than two lanes. -/
def sSlipMin : State := (sSlip 4).setFld (slipReg 3 0) 25 24 1
def sSlipWith (st : Nat) (g : Slip) : State := setSlip (sSlip st) 3 g
def sSlipKnown : State := { sSlip 1 with dcr := { slips := [(3, 16 * 9 + 2 + 1)] } }
def sSlipFast : State := { sSlipWith 4 { fast := true } with dcr := { slips := [(3, 16 * 9 + 2 + 1)] } }
def sSlipFastOther : State := { sSlipWith 4 { fast := true } with dcr := { slips := [(3, 7)] } }

/-- Flits: DATA of a sequence number with a message, and the others. -/
def msgRd : Msg := { op := 1, src := 2, dst := 1, rq := 5, tag := 9, len := 64, addr := 0x1000, vc := 0, ttl := 3 }
def flitOf (seq : Nat) (m : Msg) : List Byte := flitBytes (2 ^ 60 + seq * 2 ^ 48) (flitRoute ((m.flits 3).headD { dst := 0, vc := 0, rsp := false, head := false, tail := false, ttl := 0, payload := [] })) m.bytes
def linkOf (type ack : Nat) : List Byte := flitBytes (type * 2 ^ 60 + ack * 2 ^ 36 + 2 ^ 35) 0 []
/-- A flit whose CRC is inverted. -/
def flitInv : List Byte := (linkOf 2 0).take 252 ++ ((linkOf 2 0).drop 252).map fun b => ~~~b
def msgProbe : Msg := { op := 9, src := 2, path := 0, ouid := 5, tag := 9 }
/-- A slip that awaits the acknowledgement of the flits 4 and 5, which it has sent again three times. -/
def flA : Nat × Flit := (4, { dst := 1, vc := 0, rsp := false, head := true, tail := true, ttl := 3, payload := [1] })
def flB : Nat × Flit := (5, { dst := 1, vc := 0, rsp := false, head := true, tail := true, ttl := 3, payload := [2] })
def gRetry (n : Nat) : Slip := { txSeq := 6, retry := [flA, flB], resends := [(4, n), (5, n)] }
def gPart : Slip := { parts := [(0, { goes := .here, flits := [flA.2] })] }

/-- A device with ID 1 that has joined, with a message at its router; slip 3 leads to device 7. -/
def sJoined (st : Nat) : State := ((((sSlip st).setFld (slipReg 3 0) 28 28 1).setFld fabId 11 0 1).setFld fabId 31 31 1).setReg (ldReg 0 0x1001C) (2 ^ 31 + 8)
def sRoute (st : Nat) (m : Msg) : State := { sJoined st with fabric := { routing := [{ msg := m }] } }
def sRouteOut (m : Msg) : State := { up with fabric := { routing := [{ msg := m }] } }
def msgTo (dst ttl : Nat) : Msg := { msgRd with dst := dst, ttl := ttl }
/-- A message in the inbox. -/
def sInbox (m : Msg) : State := { sJoined 5 with fabric := { inbox := [(m, 3)] } }
def sInboxReset (m : Msg) : State := { sInbox m with compReset := true }
def req0 : RemoteReq := { tag := 9, rq := 5, id := 4, op := 1, addr := 0x1000, pos := 0, len := 8, us := 0 }
def sInboxReq (m : Msg) (q : RemoteReq) : State := { sJoined 5 with fabric := { inbox := [(m, 3)], reqs := [q] } }
def msgOp (op : Nat) (data : List Byte) : Msg := { msgRd with op := op, len := 8, data := data, aty := 3, addr := 0x2000 }
def msgHole (op : Nat) : Msg := { msgOp op bytes8 with addr := 0x040000000000 }
/-- Session 2 with device 2 established. -/
def sSess (m : Msg) (peer : Nat) : State := { (sInbox m).setReg (sess 2) (2 ^ 31 + peer) with flash := { sessKeys := [(2, List.replicate 32 1)] } }
def msgFetch : Msg := { msgRd with rq := nfRq, sess := 2, len := 4096, addr := 0x3000 }
/-- Its sealed response, made by the same seal. -/
def plain0 : List Byte := List.replicate 4096 5
def sealed0 : List Byte × List Byte := gcmSeal (List.replicate 32 1) (nfIv 2 0) [] plain0
def msgSealed : Msg := { op := 2, src := 2, dst := 1, rq := nfRq, tag := 4, sess := 2, seq := 0, data := sealed0.1 ++ sealed0.2 }
/-- The request that it answers, and what is known once it is opened. -/
def nfReqRd : RemoteReq := { nfReq 0 with op := 1 }
def cFetch : FlashCmd := cmdOf [5 * 2 ^ 60, 2 * 2 ^ 48, 1, 0x40, 2, 0, 0, 0]
def sSealed : State := { sSess msgSealed 2 with flash := { sessKeys := [(2, List.replicate 32 1)], cmds := [cFetch] }, fabric := { inbox := [(msgSealed, 3)], reqs := [nfReqRd] } }
def sSealedMid : State :=
  { took sSealed with fabric := { (took sSealed).fabric with reqs := [{ nfReqRd with status := 1, data := plain0 }] } }
/-- Source-routed messages: at their end or with a hop to go. -/
def msgSr (op hops : Nat) : Msg := { op := op, src := 2, path := hops * 2 ^ 60 + 3, rpath := 0, ouid := 5, tag := 9, off := 0x2000004, data := [1, 0, 0, 0] }
def sSr (op hops : Nat) : State := sInbox (msgSr op hops)
def sSrSeen : State := { sInbox msgProbe with fabric := { inbox := [(msgProbe, 3)], probes := [(5, 9)] } }
def sSrLock : State := (sSr 0xC 0).setFld fabCtl 31 31 1
def sSrBuf : State := ((sSr 0xA 0).setFld (srStat 0) 31 16 1).setReg64 (srBuf 0) 0x40000
def sSrSend : State := putMem (sJoined 5) 0x50000 (msgSr 9 1).bytes
/-- A request and a response in another channel, an error response, and an add-write that is misaligned. -/
def msgVc : Msg := { msgTo 1 3 with vc := 1 }
def sRouteOpen (m : Msg) : State := (sRoute 5 m).setFld fabCtl 30 30 1
def msgRsp : Msg := { msgTo 8 3 with op := 2 }
def msgBad : Msg := { msgOp 2 [] with err := true, ecode := 3 }
def msgOdd : Msg := { msgOp 5 bytes8 with addr := 0x2004 }
/-- A flit whose CRC is wrong, and the TAIL of a message that came in before; slip 3 with a HEAD at the router, or with one for this device. -/
def flitBad : List Byte := (linkOf 2 0).take 252 ++ [1, 2, 3, 4]
def flitTail : List Byte :=
  flitBytes (2 ^ 60) (flitRoute { dst := 1, vc := 0, rsp := false, head := false, tail := true, ttl := 3, payload := [1] }) [1]
def flitHead : List Byte :=
  flitBytes (2 ^ 60) (flitRoute { dst := 1, vc := 0, rsp := false, head := true, tail := false, ttl := 3, payload := msgRd.bytes }) msgRd.bytes
def gWaiting : Slip := { parts := [(0, { goes := .waiting })] }
/-- A message at the router that came in on slip 3, whole or not. -/
def trIn (m : Msg) (whole : Bool) : Transit := { msg := m, slip := 3, flits := m.flits 3, whole := whole }
def sRouteIn (st : Nat) (m : Msg) (whole : Bool) : State := { sJoined st with fabric := { routing := [trIn m whole] } }
def msgStale : Msg := { msgRd with op := 2, rq := nfRq }
/-- A source-routed message with hops left in its TTL, or none. -/
def msgTtl (op ttl : Nat) : Msg := { msgSr op 1 with ttl := ttl }
def msgSrHole (op : Nat) : Msg := { msgSr op 0 with off := 0x22000 }

/-- Operands of a collective instruction: source a1, destination a3, length s5, and its XM; its group 1. -/
def fColl (xm : Nat) : Fields := BitVec.ofNat 56 (2 ^ 49 + 3 * 2 ^ 41 + 5 * 2 ^ 31 + xm * 2 ^ 14)
def wColl : Word64 := 0x10000000000
/-- Group 1 of devices 1, 2 and 3, for context 5, of epoch 7, with 10 ms, this device of a rank; engine 3 has one descriptor. -/
def sGrp (ring rank : Nat) (i : Instr) (st : Stage) : State :=
  let s := (sJoined 5).setReg64 (colReg 1 0) (2 ^ 63 + ring * 2 ^ 62 + 5 * 2 ^ 54 + 7 * 2 ^ 32 + 10 * 2 ^ 16 + rank)
  let s := s.setReg64 (colReg 1 8) (2 * 2 ^ 48 + 0x2D0000)
  (putMem s 0x2D0000 ([1, 2, 3].flatMap (leBytes 4))).setEng 3 { eng0 with spillQ := [skE i st] }
def iAll (xm : Nat) : Instr := .xredAllReduce e0 (fColl xm) wColl
/-- The group of another context. -/
def sGrpOther : State := (sGrp 0 0 (iAll 0) .waiting).setFld (colReg 1 4) 27 22 6
/-- A step of group 1 at rank 0, an all-reduce of direct exchange. -/
def cs0 : CStep := { eng := 3, id := 9, ctx := 5, gid := 1, step := 0, epoch := 7, ring := false, instr := 1, xm := 0, et := 0, rop := 0, len := 64,
                     src := 0x1000, dst := 0x2000, dl := 0, rank := 0, members := [1, 2, 3], us := 0 }
def csOf (g : Nat) : CStep := { cs0 with gid := g }
def sGrpFull : State :=
  { sGrp 0 0 (iAll 0) .waiting with coll := { steps := (List.range 8).map fun k => csOf (10 + k) } }
def sStep (x : CStep) : State := { sGrp 0 0 (iAll 0) .started with coll := { steps := [x] } }
/-- A collective message at the group's entry, and a state with it, before a step or in one. -/
def msgColl (kind : Nat) : Msg := { op := 8, src := 2, dst := 1, rq := 0x60, tag := 9, gid := 1, kind := kind, epoch := 7, step := 0, instr := 1, frm := 1, cred := 2, dest := 0, off := 0, data := bytes8 }
def sCollMsg (m : Msg) : State := { sGrp 0 0 (iAll 0) .waiting with fabric := { inbox := [(m, 3)] } }
def cs0Both : CStep := { cs0 with awaitReady := [1, 2] }
def sStepMsg (m : Msg) : State := { sStep cs0Both with fabric := { inbox := [(m, 3)] } }
def rq8 : RemoteReq := { tag := 9, rq := 0x60, id := 9, op := 8, addr := 0, pos := 0, len := 0, us := 0 }
def sAck (m : Msg) : State := { sStep cs0 with fabric := { inbox := [(m, 3)], reqs := [rq8] } }
/-- The step started late, done, and awaiting rank 2; messages of another epoch, step, offset or tag. -/
def cs0Young : CStep := { cs0 with us := 995000 }
def cs0Done : CStep := { cs0 with got := 64 }
def cs0Wait : CStep := { cs0 with awaitReady := [2] }
def msgEpoch (k e : Nat) : Msg := { msgColl k with epoch := e }
def msgStep (k : Nat) : Msg := { msgColl k with step := 3 }
def msgOff (k o : Nat) : Msg := { msgColl k with off := o }
def msgTag (t : Nat) : Msg := { msgColl 8 with tag := t }
def sCollWait : State := { sMem with coll := { waiting := [(3, 9)] } }
def sColRej : State := sMem.setFld colCtl 31 31 1
def sGrpFailed : State := (sGrp 0 0 (iAll 0) .waiting).setFld (colReg 1 0x10) 30 27 9
/-- A collective request whose time is over. -/
def sCollLate : State := { sStep cs0 with fabric := { reqs := [{ rq8 with id := 9 }] }, us := 2000000 }

/-- A started device with a budget, whose last interval began at 0. -/
def sPwr (us w : Nat) : State := { (sMem.setFld Off.pwrBudget 10 0 w) with us := us, power := { lastUs := some 0 } }
def sPwrState (st phase : Nat) : State := (sMem.setFld Off.pwrState 1 0 st).setFld Off.pwrState 3 2 phase
def withPower (s : State) (p : Power) : State := { s with power := p }
/-- A device at a fatal error. -/
def sMemFatal : State := sMem.setFld Off.hubStatus 30 30 1
/-- Consumer 5 at level 2 on its way to a level. -/
def sMoving (m : Nat) : State := withPower sWin { level := [(5, 2)], target := [(5, 4)], moving := [(5, m)] }
/-- The same for consumer 0, the group of engine 3. -/
def sMoving0 (m : Nat) : State := withPower sWin { level := [(0, 2)], target := [(0, 4)], moving := [(0, m)] }
/-- A budget that the floors of ten groups take up. -/
def sFloors : State := (List.range 10).foldl (fun t c => t.setReg (Off.pwrReq (16 + c)) 0x8A0AFF00) (sPwr 100 600)
/-- Regulator 0 in low-power mode with a limit of 16 A. -/
def sLow : State := ((sWin.setFld (Off.pwrIvr 0) 31 31 1).setFld (Off.pwrIvr 0) 7 0 16)
def sLowDead : State := withPower sLow { dead := [0] }
def sRestarting : State := withPower sLow { dead := [0], restarting := [0] }
/-- The idle device: the work ring is off. -/
def sIdle : State := sMem.setFld Off.workCtl 31 31 0
def sBusy : State := sMem.setFld Off.workCtl 31 31 1
def sEntry (goal : Nat) : State := withPower (sPwrState 0 1) { entry := goal }
def sEntryTear (goal : Nat) : State := (sEntry goal).setCtxState 5 6
def sExit (k : Nat) (r : Bool) : State := withPower (sPwrState 2 2) { exitStep := k, repeated := r }
def sHot : State := (sPwrState 2 0).setFld Off.pwrTherm 31 24 120
/-- Slip 3 may wake the device. -/
def sWake (st phase : Nat) : State := (sPwrState st phase).setFld (slipReg 3 0) 27 27 1
def sMoving30 : State := withPower sMem { moving := [(30, 9)], level := [(30, 3)] }
def sL2 : State := withPower sIdle { l2 := true }
def sWake3 : State := withPower (sWake 3 0) { wakeEn := 8 }
def sTripped : State := withPower (sWake 2 0) { tripped := true }
def sHeldReset : State := withPower sIdle { perst := true }
def sEntryWake : State := (sEntry 2).setFld Off.pwrWake 31 31 1
/-- Demands of the forty consumers, costs of the eleven operating points, and ceilings. -/
def plansW : List Plan := (List.range 40).map fun c => Plan.mk (c % 4) (c % 3) (c % 3 + 4) c
def oppW : List Nat := (List.range 11).map fun x => 1000 * x
def ceilsW : List Nat := (List.range 40).map fun c => 3 + c % 7
/-- Consumer 5 on its way down. -/
def sDown : State := withPower sWin { level := [(5, 4)], target := [(5, 2)] }
/-- Regulator 0 in low-power mode during the known-answer run of a start. -/
def sAnswer : State := { sLow with boot := { sLow.boot with running := true, kind := 0, step := 8 } }
/-- A trip during an entry, and a wake latched in the entry to P3. -/
def sEntryHot : State := (sEntry 2).setFld Off.pwrTherm 31 24 120
def sEntryWake3 : State := (withPower (sPwrState 0 1) { entry := 3, l2 := true }).setFld Off.pwrWake 31 31 1

/-- A start of a kind at a step. -/
def sStart (kind step : Nat) (rep : Bool) : State :=
  { State.reset with boot := { powered := true, running := true, kind := kind, step := step, repeated := rep, area := some ⟨3, 1, []⟩ } }
def sStartFatal : State := (sStart 0 2 false).setFld Off.hubStatus 30 30 1
/-- A device ready for the fast path. -/
def sFast : State := { (sMem.setFld Off.hubRstctl 31 30 3) with boot := { sMem.boot with prevReady := true, retained := true } }
def sPerst (s : State) : State := withPower s { perst := true }
def sPme (s : State) : State := withPower s { pmeAck := true }
/-- The function in D3hot. -/
def sD3 : State := { sMem with host := { sMem.host with dState := .d3hot } }
/-- A device without power. -/
def sOff : State := State.reset

/-- Die 0 with two slots that passed and one that failed. -/
def sSlots : State := setSlot State.reset 2 3 false 0x7F 0
/-- Engine 3 in service on slot 2, with uncorrectable traps counted for the slot. -/
def sServ : State := setSlot (sWin.setEng 3 { slot := 2, online := true }) 2 1 false 3 0
def sServUe (n : Nat) : State := { sServ with boot := { sServ.boot with ueTraps := [(2, n)] } }
/-- A spare, slot 9, under test for engine 3. -/
def sSpare : State := setSlot (sWin.setEng 3 { slot := 2, online := false, rebind := true, spare := 10 }) 9 5 false 0x7F 0

/-- Records and writes. -/
def rec1 (gen : Nat) : Record := { gen := gen, lmsRsv := 1024 }
def sDcr (d : Dcr) : State := { sMem with dcr := d }
def sDcrAt (n : Nat) : State := sDcr { writing := some (rec1 2), at_ := n }
/-- An LMS reservation that is nearly used up, plainly within, and at its end. -/
def sLms (next rsv : Nat) : State := (sMem.setReg 0x400018 next).setReg 0x40001C rsv
def sPowered : State := { State.reset with boot := { powered := true } }
def sMemWarm : State := sMem.setFld Off.hubRstctl 31 31 1
def sSlow0 : State := sFast.setFld Off.hubRstctl 30 30 0
def recOther : Record := { rec1 2 with retired := 4 }
def sDcrDue : State := sDcr { due := true }
def sDcrFailed : State := sDcr { writing := some (rec1 2), at_ := 2, failed := true }
def sDcrPowerFail : State := { sDcrDue with powerFail := true }
def sTopo : State := putMem sMem 0x50000 (List.replicate 256 7)
/-- A push under way when PERST# is asserted after PME_Turn_Off, and a start that may take the fast path after PERST#. -/
def sPush : State := (sPme sMem).setFld Off.recov 2 0 2
def sTopGen : State := sDcr { writing := some (rec1 2), at_ := 1, cmds := [(3, 0)] }

/-- Olmup runs. -/
def sSpdm (next rsv : Nat) : State := { sLms next rsv with boot := { sMem.boot with image := some ⟨3, 1, []⟩ } }
/-- A firmware update under way from 0x400000; its image has a wrong magic number. -/
def sFw : State := (sMem.setReg64 Off.fwUpd 0x400000).setFld64 Off.fwUpd 55 54 1
def sFwFatal : State := sFw.setFld Off.hubStatus 30 30 1
/-- An image push: waiting for its START, under way, and complete. -/
def sRecov (st len have_ : Nat) : State :=
  let s := State.reset.setFld Off.recov 2 0 st
  { s with boot := { powered := true, step := 3, push := List.replicate have_ 0, pushLen := len } }
def sRecovOff (st len have_ off : Nat) : State := (sRecov st len have_).setReg Off.recovArg off
/-- An open of session 2 with device 7. -/
def open0 : SessOpen := ⟨2, 7, 0, []⟩
def sOpening (us : Nat) : State := { sMem with us := us, side := { opening := some open0 } }
def sArmed : State := { sMem with side := { armed := some open0 } }
def sSessions : State := { sMem with flash := { sessKeys := [(2, List.replicate 32 1), (3, List.replicate 32 2)] } }
def sFwHeld : State := { sFw with boot := { sFw.boot with memReady := false } }
def sSpdmFull : State := { sSpdm 100 1024 with side := { hostSessions := 4 } }
def sOpenSess : State := { sSessions with side := { opening := some open0 } }
def sArmedSess : State := { sSessions with side := { armed := some open0 } }
def sIrqs : State := sMem.setReg Off.irqStat 0xFFF
def sInput : State := sMem.setFld Off.pwrInput 20 0 777
/-- An update with power-fail signalled; Olmup runs and no session is open. -/
def sFwPowerFail : State := { sFw with powerFail := true }

/-- A decidable form of `Free` and of `Issuable`. -/
def freeB (s : State) (e : EngId) (i : Instr) : Bool :=
  let g := s.eng e.val
  issues g && Machine.legal i && g.queues.isEmpty && g.deferred.isEmpty && overlap (runSlots g) (writesOf i) == false && g.tileErr.isEmpty && g.accErr.isEmpty
theorem free_of {s : State} {e : EngId} {i : Instr} (h : freeB s e i = true) : Free s e i := by
  simp only [freeB, Bool.and_eq_true, List.isEmpty_iff] at h
  obtain ⟨⟨⟨⟨⟨⟨a, b⟩, c⟩, d⟩, o⟩, x⟩, f⟩ := h
  exact ⟨a, b, c, d, eq_of_beq o, x, f⟩
theorem issuable_of {s : State} {e : EngId} {f : Fields} {i : Instr}
    (h : (freeB s e i && guardTrue f (s.eng e.val).regs) = true) : Issuable s e f i := by
  rw [Bool.and_eq_true] at h
  exact ⟨free_of h.1, h.2⟩

/-- A place of the Landing. -/
def isLandingB : Place → Bool
  | .landing _ => true
  | _ => false
theorem landing_of {l : List Place} (h : l.all isLandingB = true) : ∀ p, p ∈ l → ∃ i, p = .landing i := by
  intro p hp
  have := List.all_eq_true.mp h p hp
  cases p with
  | landing k => exact ⟨k, rfl⟩
  | _ => cases this
/-- The plaintext of the sealed response, and that it opens. -/
theorem plain0_length : plain0.length = 4096 := List.length_replicate
theorem msgSealed_opens : gcmOpen (SMap.get noBytes sSealed.flash.sessKeys msgSealed.sess) (nfIv msgSealed.sess msgSealed.seq) []
    (msgSealed.data.take 4096) ((msgSealed.data.drop 4096).take 16) = some plain0 := by
  have h := gcmSeal_split (List.replicate 32 1) (nfIv 2 0) [] plain0
  have e : msgSealed.data = (gcmSeal (List.replicate 32 1) (nfIv 2 0) [] plain0).1 ++ (gcmSeal (List.replicate 32 1) (nfIv 2 0) [] plain0).2 := rfl
  rw [plain0_length] at h
  rw [e, h.1, h.2]
  exact gcmOpen_gcmSeal ..
theorem sFetch_in : inHbm (took (sSess msgFetch 2)) 0x3000 4096 :=
  LowRange.inHbm (by decide +kernel) (by decide +kernel)
theorem freeBuffers_zero (s : State) (n vc : Nat) (rsp : Bool) : freeBuffers s n vc rsp 0 = s := by simp [freeBuffers]
theorem sFetch_read : memRead (freeBuffers (took (sSess msgFetch 2)) 3 msgFetch.vc msgFetch.rsp msgFetch.held) .remote msgFetch.addr msgFetch.len =
    (took (sSess msgFetch 2), .ok, (memRead (took (sSess msgFetch 2)) .remote msgFetch.addr msgFetch.len).2.2) := by
  rw [show msgFetch.held = 0 from rfl, freeBuffers_zero]
  exact memRead_hbm_ok sFetch_in (by decide +kernel)
theorem sSealed_write : (memWrite sSealedMid .flash (cFetch.daddr + nfReqRd.pos) plain0).2 = .ok := by
  refine memWrite_hbm (LowRange.inHbm (by decide +kernel) ?_) (by decide +kernel)
  rw [plain0_length]
  decide +kernel
theorem sSealed_front : sSealed.fabric.inbox = [(msgSealed, 3)] := rfl
theorem sSealed_reqs : sSealed.fabric.reqs = [nfReqRd] := rfl
/-- Clause 2.3 of `Obligations.RemoteRequestsAndFetches`: a sealed response that opens for the command that awaits it. -/
theorem witness_sealed_response :
    (sSealed.fatal = false ∧ memDown sSealed = false ∧ msgSealed.rq = nfRq ∧ msgSealed.op = 2 ∧ matches' msgSealed nfReqRd = true ∧
      sSealed.flash.cmds.find? (fun c => c.index == nfReqRd.id && c.op == 5) = some cFetch ∧ msgSealed.err = false ∧ msgSealed.sess = cFetch.f 4 7 0 ∧
      sessValid sSealed msgSealed.sess = true) ∧
    sSealed.fabric.inbox = [(msgSealed, 3)] ∧ sSealed.fabric.reqs = [nfReqRd] ∧
    gcmOpen (SMap.get noBytes sSealed.flash.sessKeys msgSealed.sess) (nfIv msgSealed.sess msgSealed.seq) []
      (msgSealed.data.take 4096) ((msgSealed.data.drop 4096).take 16) = some plain0 ∧
    (memWrite sSealedMid .flash (cFetch.daddr + nfReqRd.pos) plain0).2 = .ok :=
  ⟨by decide +kernel, sSealed_front, sSealed_reqs, msgSealed_opens, sSealed_write⟩
theorem sFw_in {n : Nat} (h : n ≤ 65536) : inHbm sFw (sFw.fld64 Off.fwUpd 47 6 * 64) n := by
  have e : sFw.fld64 Off.fwUpd 47 6 * 64 = 0x400000 ∧ bits (sFw.reg64 (Off.map1 0)) 15 0 = 36864 := by decide +kernel
  refine LowRange.inHbm (by decide +kernel) ⟨?_, ?_⟩
  · rw [e.1, e.2]
    omega
  · rw [e.1]
    simp only [hbmSize, stackSize]
    omega
theorem sFw_read {n : Nat} (h : n ≤ 65536) : memRead sFw .sched (sFw.fld64 Off.fwUpd 47 6 * 64) n =
    (sFw, .ok, (memRead sFw .sched (sFw.fld64 Off.fwUpd 47 6 * 64) n).2.2) := memRead_hbm_ok (sFw_in h) (by decide +kernel)
theorem sFw_len : fwLen (memRead sFw .sched (sFw.fld64 Off.fwUpd 47 6 * 64) 4096).2.2 = 0 := by
  rw [memRead_hbm (sFw_in (by decide)) (by decide +kernel)]
  decide +kernel
theorem sFw_verify : verifyImage (minSvn sFw) (memRead sFw .sched (sFw.fld64 Off.fwUpd 47 6 * 64) (4096 + 0)).2.2 = .inr 1 := by
  rw [memRead_hbm (sFw_in (by decide)) (by decide +kernel)]
  decide +kernel
/-- What the Ferry's copy of one unit from unit 1 to host slot 2 leaves, in a state whose host slots lie at 0x1000000. -/
def farCopy (s : State) : Prop :=
  (ferryPage true 1 2 1 s).2 = .ok ∧ (ferryPage true 1 2 1 s).1.regs = s.regs ∧ (ferryPage true 1 2 1 s).1.mapOld = s.mapOld ∧
    (ferryPage true 1 2 1 s).1.kv = s.kv ∧ (ferryPage true 1 2 1 s).1.mem.hbmErr = [] ∧
    ∀ j, j % stackSize / 256 < 0x1008000 / 3072 → (ferryPage true 1 2 1 s).1.mem.hbm.rd j = s.mem.hbm.rd j
theorem farCopy_of {s : State}
    (h : ((LowMap s ∧ s.kv.walks = []) ∧ (LowRange s (ferryData s (!true) 1) (16384 * 1) ∧ LowRange s (ferryData s true 2) (16384 * 1)) ∧
      LowRange s (ferryScales s (!true) 1) (64 * 1) ∧ LowRange s (ferryScales s true 2) (64 * 1)) ∧
      ferryData s true 2 = 0x1008000 ∧ ferryScales s true 2 = 0x1200080) : farCopy s := by
  obtain ⟨⟨⟨hl, hw⟩, ⟨h1, h2⟩, h3, h4⟩, hd, hs⟩ := h
  obtain ⟨a, b, o, c, d, e⟩ := ferryPage_hbm (out := true) (src := 1) (dst := 2) (n := 1) hl hw h1 h2 h3 h4
  rw [hd, hs] at e
  exact ⟨a, b, o, c, d, fun j hj => e j (.inl hj) (.inl (by omega))⟩
theorem sFerryFar_copy : farCopy sFerryFar := farCopy_of (by decide +kernel)
theorem sFerryPinned_copy : farCopy sFerryPinned := farCopy_of (by decide +kernel)
def edFar : Edit := { addr := 0x250000, value := ({ pte entryIn with loc := true, frame := 2, gen := 4 } : Pte).word, expect := some entryIn, ctx := 5 }
theorem sFerryFar_edit : (writeEdit (ferryPage true 1 2 1 sFerryFar).1 .ferry edFar).2 = (true, .ok) := by
  obtain ⟨-, h1, ho, h2, h3, h4⟩ := sFerryFar_copy
  refine writeEdit_after (s := sFerryFar) (v := entryIn) (by decide +kernel) (by decide +kernel) h1 ho h3 rfl (by decide +kernel) fun j hj => h4 j ?_
  have : edFar.addr = 0x250000 := rfl
  omega
theorem sFerryFar_defer : mustDefer (ferryPage true 1 2 1 sFerryFar).1 0x250000 = false := by
  simp only [mustDefer, sFerryFar_copy.2.2.2.1]
  decide +kernel
theorem sFerryPinned_defer : mustDefer (ferryPage true 1 2 1 sFerryPinned).1 0x250000 = true ∧ (ferryPage true 1 2 1 sFerryPinned).1.kv.edits.length < 64 := by
  simp only [mustDefer, sFerryPinned_copy.2.2.2.1]
  decide +kernel
/-- A record whose geometry is good, and an OPEN of it. -/
def recGood : List Nat := [2 ^ 60 + 2 ^ 48 + 7 * 2 ^ 34 + 7 * 2 ^ 20, 0x300000, 512, 64, 0, 0x400000, 0x300000, 0xA00000]
def sOpenGood : State := putMem (sJobs [jobOf 0 1]) 0x500000 (recGood.flatMap (leBytes 8))
/-- A stream of one sample a frame, with a decode past its bound, or an encode, on a unit. -/
def recOne (enc : Nat) : List Nat := [2 ^ 60 + enc * 2 ^ 59 + 2 ^ 48, 0x300000, 64, 64, 0, 0x400000, 0x300000, 0xA00000]
def jobLong : CJob := { jobOn 2 0 with ran := 2 ^ 20 }
def sLate : State := sJobsOpen [jobLong] (recOne 0)
/-- The same, and its access unit has not come. -/
def jobLost : CJob := { jobWait with ran := 2 ^ 20 }
def sLost : State := sJobsOpen [jobLost] (recOne 0)
def jobCode : CJob := { jobOn 3 4 with words := [3 * 2 ^ 60 + 3 * 2 ^ 54 + 5 * 2 ^ 48, 0x500000, 2 ^ 32 - 1, 0x600000, 0] }
def sCode : State := sJobsOpen [jobCode] (recOne 1)
/-- The slot that takes bytes. -/
def takenBy (s : State) (j : CJob) (cut : Nat) (bs : List Byte) : CSlot := ((cslot s j.slot).leave j.buf).take cut bs
theorem refRows_zero (x : CSlot) : refRows x 0 = [] := by
  have h (b : Nat) : bit 0 b = false := by simp [bit]
  simp [refRows, h]
/-- One row of one sample that is at hand goes to device memory without marked lines. -/
theorem writeFrame_one {s : State} {x : CSlot} {p : Nat × Nat × Nat} {buf : Nat} {row : Nat → Nat → State → State × MemEnd × List Byte} {b : List Byte}
    (hr : row 0 0 s = (s, .ok, b)) (h : inHbm s (planeAt x.record buf (p.1, p.2.1, p.2.2, 1) + p.2.1 * 0) b.length) (he : s.mem.hbmErr = []) :
    ∃ w, writeFrame x.record buf row [((p.1, p.2.1, p.2.2, 1), 0)] s = (w, .ok) := by
  have hw := memWrite_hbm (r := .codec) h he
  simp only [writeFrame, List.range_one, writePlane, hr, ne_eq, not_true_eq_false, ↓reduceIte]
  split <;> simp_all
theorem sLate_rows (bs : List Byte) (x : CSlot) (hx : x = takenBy sLate jobLong 1 bs) :
    planes x.record (frameSize x).1 (frameSize x).2 = [(0, 64, 1, 1)] ∧ x.refs = 0 ∧ x.last = none ∧ x.record = recOne 0 := by
  have hr : x.record = recOne 0 := by rw [hx]; rfl
  refine ⟨?_, by rw [hx]; rfl, by rw [hx]; rfl, hr⟩
  have h1 : frameSize x = (1, 1) := by
    have a : bits ((recOne 0).getD 0 0) 47 34 = 0 := by decide
    have b : bits ((recOne 0).getD 0 0) 33 20 = 0 := by decide
    simp only [frameSize, hr, a, b]
    by_cases hc : beyondRecord x = true
    · simp [hc]
    · rw [Bool.not_eq_true] at hc
      have h2 := hc
      simp only [beyondRecord, hr, a, b, Bool.or_eq_false_iff, decide_eq_false_iff_not] at h2
      simp only [hc, Bool.false_or, decide_eq_true_eq, Prod.mk.injEq]
      constructor <;> split <;> omega
  rw [hr, h1]
  decide
theorem sLate_hbm (n : Nat) (h : n ≤ 4096) : inHbm sLate 0x300000 n := by
  have e : bits (sLate.reg64 (Off.map1 0)) 15 0 = 36864 := by decide +kernel
  refine LowRange.inHbm (by decide +kernel) ⟨?_, ?_⟩
  · rw [e]
    omega
  · simp only [hbmSize, stackSize]
    omega
theorem one_row {r : List Nat} {buf : Nat} (h : rowOutside r (planeAt r buf (0, 64, 1, 1) + 64 * 0) 1 = false) :
    ∀ p ∈ [((0, 64, 1, 1) : Nat × Nat × Nat × Nat)], ∀ y < p.2.2.2, rowOutside r (planeAt r buf p + p.2.1 * y) p.2.2.1 = false := by
  intro p hp y hy
  rw [List.mem_singleton] at hp
  subst hp
  have : y = 0 := by simp only at hy; omega
  subst this
  exact h
/-- The premises of the last clause on a frame that its time-out ends. -/
theorem sLate_ends (bs : List Byte) :
    let x := takenBy sLate jobLong 1 bs
    let ps := planes x.record (frameSize x).1 (frameSize x).2
    (∀ p ∈ ps, ∀ y < p.2.2.2, rowOutside x.record (planeAt x.record jobLong.buf p + p.2.1 * y) p.2.2.1 = false) ∧
      loadArea sLate x = (sLate, .ok) ∧ readAll (refRows x x.used) sLate = (sLate, .ok) ∧
      ∀ f, ∃ w, writeFrame x.record jobLong.buf (decodedRow x ps f) ps.zipIdx sLate = (w, .ok) := by
  intro x ps
  obtain ⟨h1, h2, h3, h4⟩ := sLate_rows bs x rfl
  have hp : ps = [(0, 64, 1, 1)] := h1
  refine ⟨?_, rfl, by rw [CSlot.used, h2, Nat.and_zero, refRows_zero]; rfl, fun f => ?_⟩
  · rw [hp, h4]
    exact one_row (by decide)
  · rw [hp]
    have hm (c : Nat) (l : List Nat) : concealRow x (0, 64, 1, 1) c l sLate = (sLate, .ok, fun _ => 128) := by
      simp only [concealRow, h3, h4]
      rfl
    have hk : sampleBytes x.record = 1 := by rw [h4]; decide
    refine writeFrame_one (b := [BitVec.ofNat 8 (if f 0 0 0 then 128 else Config.decodeSample x.record x.hist 0 0 0)]) (p := (0, 64, 1)) ?_ ?_
      (by decide +kernel)
    · simp only [decodedRow, List.getD_cons_zero, hm, hk]
      by_cases hf : f 0 0 0 = true <;> simp [hf, leBytes, List.range_succ]
    · rw [h4]
      exact sLate_hbm 1 (by omega)
theorem sCode_map : LowMap sCode := by decide +kernel
theorem sCode_range {a n : Nat} (h : a + n ≤ 2 ^ 33) : LowRange sCode a n := by
  have : bits (sCode.reg64 (Off.map1 0)) 15 0 = 36864 := by decide +kernel
  constructor
  · rw [this]
    omega
  · simp only [hbmSize, stackSize]
    omega
/-- The premises of the last clause on a frame that is coded, where its bytes fit the buffer. -/
theorem sCode_ends (src : List Byte) :
    let x := takenBy sCode jobCode 0 src
    let n := Config.encode (recOne 1) x.hist none
    n ≤ jobCode.f 2 31 0 → loadArea sCode x = (sCode, .ok) ∧ readAll (refRows x (if jobCode.f 4 8 8 = 1 then 0 else x.refs)) sCode = (sCode, .ok) ∧
      ∃ w z, memWrite sCode .codec (jobCode.f 3 47 0) ((List.range n).map fun i => BitVec.ofNat 8 (Config.encode (recOne 1) x.hist (some i))) = (w, .ok) ∧
        writeFrame (recOne 1) jobCode.buf (encodedRow x [(0, 64, 1, 1)]) [((0, 64, 1, 1), 0)] w = (z, .ok) := by
  intro x n hn
  have hx : x.record = recOne 1 := rfl
  have hr : x.refs = 0 := rfl
  have hb : jobCode.f 2 31 0 = 2 ^ 32 - 1 := by decide
  have ha : jobCode.f 3 47 0 = 0x600000 := by decide
  rw [hb] at hn
  refine ⟨rfl, by rw [hr, ite_self, refRows_zero]; rfl, ?_⟩
  rw [ha]
  generalize hbs : (List.range n).map (fun i => BitVec.ofNat 8 (Config.encode (recOne 1) x.hist (some i))) = bs
  have hl : bs.length = n := by rw [← hbs]; simp
  have hh := LowRange.inHbm sCode_map (sCode_range (a := 0x600000) (n := bs.length) (by omega))
  have he : sCode.mem.hbmErr = [] := sCode_map.2.2.2.2.2
  have hw := memWrite_hbm (r := .codec) hh he
  obtain ⟨f1, f2, -, f3, -⟩ := memWrite_frame_hbm (r := .codec) hh he (by decide +kernel)
  have hm := LowMap.of_regs sCode_map f1 f2 f3
  have hk : sampleBytes x.record = 1 := by rw [hx]; decide
  obtain ⟨z, hz⟩ := writeFrame_one (s := (memWrite sCode .codec 0x600000 bs).1) (x := x) (buf := jobCode.buf) (p := (0, 64, 1))
    (row := encodedRow x [(0, 64, 1, 1)]) (b := [BitVec.ofNat 8 (Config.encodeSample x.record x.hist 0 0 0)])
    (by simp [encodedRow, hk, leBytes, List.range_succ])
    (LowRange.inHbm hm (LowRange.of_regs (sCode_range (n := 1) (by rw [hx]; decide)) f1)) f3
  exact ⟨_, z, by rw [← hw], hz⟩
/-- The premise of the last clause on a search. -/
theorem sSearch_ends : ∃ z, searchBlocks search0 0x720000 (List.range search0.blocks) (sSearch 7) = (z, .ok) := by
  have hb : List.range search0.blocks = [0] := by decide
  have hq : memReadNat (sSearch 7) .codec (0x720000 + 8 * 0) 8 = (sSearch 7, .ok, 0) := by decide +kernel
  have hi : inHbm (sSearch 7) (search0.field + 8 * 0) 8 := LowRange.inHbm (by decide +kernel) (by decide +kernel)
  have hl (v : Nat) : (leBytes 8 v).length = 8 := by simp [leBytes]
  have hw (v : Nat) : (memWrite (sSearch 7) .codec (search0.field + 8 * 0) (leBytes 8 v)).2 = .ok :=
    memWrite_hbm (by rw [hl]; exact hi) (by decide +kernel)
  simp only [Nat.mul_zero, Nat.add_zero] at hw
  rw [hb]
  simp [searchBlocks, hq, hw]
/-- A frame of a slot behind another on a unit. -/
def jobBehind : CJob := { jobOf 1 2 with unit := some 1 }
def sBehind : State := sJobsOpen [jobOn 2 0, jobBehind] recGood
/-- Clause 3 of `Obligations.CodecResults` where the access unit of a frame that its time-out ends has not come. -/
theorem witness_codec_lost :
    memDown sLost = false ∧ sLost.fatal = false ∧ sLost.codec.jobs.find? (fun j => j.unit == some 0) = some jobLost ∧ jobLost.op = 2 ∧
      frameBehind sLost jobLost = false ∧ frameBound (cslot sLost jobLost.slot) ≤ jobLost.ran ∧
      memRead sLost .codec (jobLost.f 1 47 0) (jobLost.f 2 31 0) = (sLost, .wait, []) :=
  by decide +kernel
/-- Clauses 3, 4 and 5.2 of `Obligations.CodecResults`, with what is left of their premises in `sLate_ends`, `sCode_ends` and `sSearch_ends`. -/
theorem witness_codec_ends :
    (memDown sLate = false ∧ sLate.fatal = false ∧ sLate.codec.jobs.find? (fun j => j.unit == some 0) = some jobLong ∧ jobLong.op = 2 ∧
      frameBehind sLate jobLong = false ∧ frameBound (cslot sLate jobLong.slot) ≤ jobLong.ran ∧
      memRead sLate .codec (jobLong.f 1 47 0) (jobLong.f 2 31 0) = (sLate, .ok, List.replicate 16 0)) ∧
    (memDown sCode = false ∧ sCode.fatal = false ∧ sCode.codec.jobs.find? (fun j => j.unit == some 4) = some jobCode ∧ jobCode.op = 3 ∧
      frameBehind sCode jobCode = false ∧ (cslot sCode jobCode.slot).record = recOne 1 ∧
      planes (recOne 1) (bits ((recOne 1).getD 0 0) 47 34 + 1) (bits ((recOne 1).getD 0 0) 33 20 + 1) = [(0, 64, 1, 1)] ∧
      readFrame (jobCode.f 1 47 0) [(0, 64, 1, 1)] sCode = (sCode, .ok, [0])) ∧
    (memDown (sSearch 7) = false ∧ (sSearch 7).fatal = false ∧ (sSearch 7).codec.jobs.find? (fun j => j.unit == some 6) = some jobSearch ∧
      jobSearch.op = 6 ∧ jobSearch.f 3 47 0 = search0.field ∧
      memRead (sSearch 7) .codec (jobSearch.f 1 47 0) 64 = (sSearch 7, .ok, (parm0 7).flatMap (leBytes 8)) ∧
      readPlane 0x700000 64 8 (List.range 8) (sSearch 7) = (sSearch 7, .ok, search0.cur) ∧
      readPlane 0x710000 64 8 (List.range 8) (sSearch 7) = (sSearch 7, .ok, search0.ref) ∧
      windowSpan 8 8 0 256 512 = (search0.rx, search0.rw) ∧ windowSpan 8 8 0 128 256 = (search0.ry, 8)) := by
  decide +kernel
/-- The digest of nothing, and an image without a body, whose signatures are zeros. -/
def digest0 : List Byte := beBytes 48 0x38b060a751ac96384cd9327eb1b1e36a21fdb71114be07434c0cc7bf63f6e1da274edebfe76f65fbd51ad2f14898b95b
theorem sha384_nil : sha384 [] = digest0 := by decide +kernel
def head0 : List Byte := fwMagic ++ List.replicate 16 0 ++ digest0
def image0 : List Byte := head0 ++ List.replicate 4024 0
def fwImage0 : FwImage := ⟨0, 0, digest0⟩
def sFwGood : State := { sFw with mem := { sFw.mem with hbm := (putMem sMem 0x400000 head0).mem.hbm } }
def sRecovGood : State := { sRecov 2 4096 0 with boot := { (sRecov 2 4096 0).boot with push := image0, fuses := some 0 } }
theorem image0_verifies (h1 : ecdsaGood (Config.caivoKey 0) (image0.take 72) ((image0.drop 72).take 96) = true)
    (h2 : lmsGood (Config.caivoLms 0) (image0.take 72) ((image0.drop 168).take 2828) = true) : verifyImage 0 image0 = .inl fwImage0 := by
  have a1 : (image0.take 8 ≠ fwMagic || decide (8384512 < fwLen image0) || decide (image0.length < 4096 + fwLen image0)) = false := by decide +kernel
  have a2 : (sha384 ((image0.drop 4096).take (fwLen image0))).take 48 = (image0.drop 24).take 48 := by
    rw [show fwLen image0 = 0 by decide +kernel, List.take_zero, sha384_nil]
    decide +kernel
  have a3 : leNat ((image0.drop 20).take 4) = 0 := by decide +kernel
  have a4 : leNat ((image0.drop 12).take 1) = 0 := by decide +kernel
  have a5 : (⟨0, leNat ((image0.drop 8).take 4), (image0.drop 24).take 48⟩ : FwImage) = fwImage0 := by decide +kernel
  simp only [verifyImage, a1, a2, a3, a4, h1, h2, a5, Bool.false_eq_true, ↓reduceIte, Bool.not_true, Nat.not_lt_zero, ne_eq, not_true_eq_false]
/-- A key blob of a TYPE, made for a device that agrees on a secret with its public key. -/
def blobHead (type : Nat) : List Byte := leBytes 4 type ++ leBytes 4 9 ++ List.replicate 104 4
def blobTail : List Byte := List.replicate 84 7
def blobOf (type : Nat) (z : List Byte) : List Byte :=
  let x := gcmSeal (wrapKey (leBytes 4 9) z) 0 (blobHead type ++ blobTail) (List.replicate 32 1)
  blobHead type ++ List.replicate 12 0 ++ x.1 ++ x.2 ++ blobTail
theorem blobOf_opens (z : List Byte) (h : ecdh identityKey (List.replicate 97 4) = some z) :
    openBlob 2 (blobOf 2 z) = some (9, List.replicate 48 7, List.replicate 32 1) := by
  generalize hx : gcmSeal (wrapKey (leBytes 4 9) z) 0 (blobHead 2 ++ blobTail) (List.replicate 32 1) = x
  have l1 : x.1.length = 32 := by rw [← hx]; simp [gcmSeal, gcmCrypt_length]
  have l2 : x.2.length = 16 := by rw [← hx]; exact gcmTag_length ..
  have hb : blobOf 2 z = blobHead 2 ++ (List.replicate 12 0 ++ (x.1 ++ (x.2 ++ blobTail))) := by
    simp only [blobOf, hx, List.append_assoc]
  have lh : (blobHead 2).length = 112 := by decide
  have p (lo n : Nat) (hl : lo + n ≤ 112) : ((blobOf 2 z).drop lo).take n = ((blobHead 2).drop lo).take n := by
    rw [hb, List.drop_append_of_le_length (by omega), List.take_append_of_le_length (by rw [List.length_drop]; omega)]
  have q (k : Nat) : (blobOf 2 z).drop (112 + k) = (List.replicate 12 0 ++ (x.1 ++ (x.2 ++ blobTail))).drop k := by
    rw [hb, ← lh, List.drop_length_add_append]
  have r (k : Nat) : (blobOf 2 z).drop (124 + k) = (x.1 ++ (x.2 ++ blobTail)).drop k := by
    have := q (12 + k)
    rw [show 112 + (12 + k) = 124 + k by omega] at this
    rw [this]
    exact List.drop_length_add_append (l₁ := List.replicate 12 (0 : Byte)) k
  have e1 : ((blobOf 2 z).drop 112).take 12 = List.replicate 12 0 := by
    have := q 0
    rw [Nat.add_zero] at this
    rw [this]
    simp
  have e2 : ((blobOf 2 z).drop 124).take 32 = x.1 := by
    have := r 0
    rw [Nat.add_zero] at this
    rw [this, List.drop_zero, ← l1, List.take_left']
    rfl
  have e3 : ((blobOf 2 z).drop 156).take 16 = x.2 := by
    have := r 32
    rw [show 124 + 32 = 156 from rfl, ← l1, List.drop_left'] at this
    rw [this, ← l2, List.take_left']
    all_goals rfl
  have e4 : (blobOf 2 z).drop 172 = blobTail := by
    have := r 48
    rw [show 124 + 48 = 172 from rfl, show 48 = x.1.length + x.2.length by omega, List.drop_length_add_append] at this
    rw [this, List.drop_left']
    rfl
  have o : gcmOpen (wrapKey (leBytes 4 9) z) 0 (blobHead 2 ++ blobTail) x.1 x.2 = some (List.replicate 32 1) := by
    rw [← hx]
    exact gcmOpen_gcmSeal ..
  have i1 : leNat (((blobHead 2).drop 0).take 4) = 2 := by decide
  have i2 : ((blobHead 2).drop 8).take 97 = List.replicate 97 4 := by decide
  have i3 : ((blobHead 2).drop 4).take 4 = leBytes 4 9 := by decide
  have i4 : ((blobHead 2).drop 0).take 112 = blobHead 2 := by decide
  have i5 : blobTail.take 84 = blobTail := by decide
  have i6 : blobTail.take 48 = List.replicate 48 7 := by decide
  simp only [openBlob, p 0 4 (by decide), p 8 97 (by decide), p 4 4 (by decide), p 0 112 (by decide), e1, e2, e3, e4, i1, i2, i3, i4, i5, i6, h]
  rw [show beNat (List.replicate 12 (0 : Byte)) = 0 by decide, show leNat (leBytes 4 9) = 9 by decide, o]
  rfl
theorem head0_length : head0.length = 72 := by decide +kernel
theorem image0_length : image0.length = 4096 := by
  rw [image0, List.length_append, head0_length, List.length_replicate]
theorem sFwGood_map : LowMap sFwGood := by decide +kernel
theorem sFwGood_range {a n : Nat} (h : a + n ≤ 2 ^ 33) : LowRange sFwGood a n := by
  have : bits (sFwGood.reg64 (Off.map1 0)) 15 0 = 36864 := by decide +kernel
  constructor
  · rw [this]
    omega
  · simp only [hbmSize, stackSize]
    omega
theorem sFwGood_head : ∀ i, i < 72 → sFwGood.mem.hbm.rd (lowPlace (0x400000 + i)) = head0.getD i 0 := by decide +kernel
theorem sFwGood_keys : ∀ x ∈ sFwGood.mem.hbm, 773094462720 ≤ x.1 ∧ x.1 < 773094462792 := by decide +kernel
theorem lowPlace_rest : ∀ a, a < 64 → ∀ b, b < 64 → 72 ≤ 64 * a + b →
    lowPlace (0x400000 + (64 * a + b)) < 773094462720 ∨ 773094462792 ≤ lowPlace (0x400000 + (64 * a + b)) := by decide +kernel
theorem rd_absent {l : ByteMap} {k : Nat} (h : ∀ x ∈ l, x.1 ≠ k) : l.rd k = 0 := by
  unfold ByteMap.rd
  induction l with
  | nil => rfl
  | cons x l ih =>
    have := h x List.mem_cons_self
    have := ih fun y hy => h y (List.mem_cons_of_mem _ hy)
    simp_all [SMap.get]
theorem sFwGood_rest (a b : Nat) (ha : a < 64) (hb : b < 64) (h : 72 ≤ 64 * a + b) :
    sFwGood.mem.hbm.rd (lowPlace (0x400000 + (64 * a + b))) = 0 := by
  refine rd_absent fun x hx => ?_
  have := sFwGood_keys x hx
  have := lowPlace_rest a ha b hb h
  omega
theorem sFwGood_read : memRead sFwGood .sched 0x400000 4096 = (sFwGood, .ok, image0) := by
  have hb : (places sFwGood 0x400000 4096).map (placeByte sFwGood) = image0 := by
    apply List.ext_getElem
    · simp only [places, List.length_map, List.length_range, image0_length]
    · intro i h1 h2
      rw [image0_length] at h2
      simp only [places, List.map_map, List.getElem_map, List.getElem_range, Function.comp]
      rw [LowMap.place sFwGood_map (sFwGood_range (by omega))]
      simp only [placeByte]
      by_cases h : i < 72
      · rw [sFwGood_head i h]
        simp only [image0]
        rw [List.getElem_append_left (by rw [head0_length]; exact h)]
        simp [List.getD, head0_length, h]
      · have := sFwGood_rest (i / 64) (i % 64) (by omega) (by omega) (by omega)
        rw [Nat.div_add_mod] at this
        rw [this]
        simp only [image0]
        rw [List.getElem_append_right (by rw [head0_length]; omega), List.getElem_replicate]
  rw [memRead_hbm (LowRange.inHbm sFwGood_map (sFwGood_range (by omega))) (by decide +kernel), hb]
/-- The clauses of `Obligations.FirmwareResults` on an image that verifies, under keys of the maker for which the signatures of `image0` are good. -/
theorem witness_firmware_good (h1 : ecdsaGood (Config.caivoKey 0) (image0.take 72) ((image0.drop 72).take 96) = true)
    (h2 : lmsGood (Config.caivoLms 0) (image0.take 72) ((image0.drop 168).take 2828) = true) :
    (sFwGood.fld64 Off.fwUpd 55 54 = 1 ∧ memDown sFwGood = false ∧ sFwGood.fatal = false ∧ sFwGood.powerFail = false ∧
      sFwGood.fld64 Off.fwUpd 47 6 * 64 = 0x400000 ∧ minSvn sFwGood = 0 ∧ fwLen image0 = 0) ∧
    (sRecovGood.writable Off.recov = true ∧ sRecovGood.fld Off.recov 2 0 = 2 ∧ sRecovGood.boot.push.length = sRecovGood.boot.pushLen ∧
      fuseSvn sRecovGood = 0 ∧ sRecovGood.boot.push = image0) ∧
    memRead sFwGood .sched 0x400000 4096 = (sFwGood, .ok, image0) ∧ verifyImage 0 image0 = .inl fwImage0 :=
  ⟨by decide +kernel, ⟨by decide +kernel, by decide +kernel, image0_length, by decide +kernel, rfl⟩, sFwGood_read, image0_verifies h1 h2⟩
/-- The bytes of a record's copy before its CRC, which is found in two halves. -/
def recBody (r : Record) : List Byte := (recordBytes r).take 374
theorem crc_halves {b : List Byte} {x c : Nat} (h1 : (b.take 187).foldl crcByte 0xFFFFFFFF = x)
    (h2 : (b.drop 187).foldl crcByte x ^^^ 0xFFFFFFFF = c) : crc32c b = c := by
  rw [crc32c, ← List.take_append_drop 187 b, List.foldl_append, h1, h2]
theorem intact_of {b : List Byte} {c : Nat} (hc : crc32c b = c) (hl : b.length = 374)
    (h : (b.take 8 = dcrMagic ∧ fieldAt b 16 4 = 378) ∧ c < 2 ^ 32) : intactBytes (b ++ leBytes 4 c) = true := by
  have l4 : (leBytes 4 c).length = 4 := leBytes_length 4 c
  have hn : recordLen32 (b ++ leBytes 4 c) = 378 := by
    rw [recordLen32, fieldAt, List.drop_append_of_le_length (by omega), List.take_append_of_le_length (by rw [List.length_drop]; omega)]
    exact h.1.2
  have hk : fieldAt (b ++ leBytes 4 c) 374 4 = c := by
    rw [fieldAt, ← hl, List.drop_left' rfl, List.take_of_length_le (by omega)]
    simp only [leBytes, leNat, BitVec.toNat_ofNat]
    omega
  have h8 : (b ++ leBytes 4 c).take 8 = dcrMagic := by
    rw [List.take_append_of_le_length (by omega)]
    exact h.1.1
  have ht : (b ++ leBytes 4 c).take 374 = b := by rw [← hl, List.take_left']; rfl
  simp only [intactBytes, hn, h8, hk, ht, hc, List.length_append, hl, l4, beq_self_eq_true]
  rfl
theorem rec1_intact : intactBytes (recBody (rec1 1) ++ leBytes 4 4045632330) = true :=
  intact_of (crc_halves (x := 3710074764) (by decide +kernel) (by decide +kernel)) (by decide +kernel) (by decide +kernel)
theorem rec2_intact : intactBytes (recBody (rec1 2) ++ leBytes 4 1634703034) = true :=
  intact_of (crc_halves (x := 1678068847) (by decide +kernel) (by decide +kernel)) (by decide +kernel) (by decide +kernel)
theorem recOther_intact : intactBytes (recBody recOther ++ leBytes 4 969682280) = true :=
  intact_of (crc_halves (x := 924208595) (by decide +kernel) (by decide +kernel)) (by decide +kernel) (by decide +kernel)
/-- The clauses of `Obligations.ConfigurationRecord` on three copies: of the generations 1 and 2, and of 2 with another content. -/
theorem witness_record_copies :
    (intactBytes [] = false ∧ fieldAt (recBody (rec1 1) ++ leBytes 4 4045632330) 8 8 = 1 ∧
      fieldAt (recBody (rec1 2) ++ leBytes 4 1634703034) 8 8 = 2 ∧ fieldAt (recBody recOther ++ leBytes 4 969682280) 8 8 = 2 ∧
      fieldAt (recBody (rec1 2)) 32 14 ≠ fieldAt (recBody recOther) 32 14) ∧
    intactBytes (recBody (rec1 1) ++ leBytes 4 4045632330) = true ∧ intactBytes (recBody (rec1 2) ++ leBytes 4 1634703034) = true ∧
    intactBytes (recBody recOther ++ leBytes 4 969682280) = true :=
  ⟨by decide +kernel, rec1_intact, rec2_intact, recOther_intact⟩

/-! ## Worked examples of the specification -/

/-- 10_memory_system.md, the example after R248: the entry at 0x0030_004F_3D30 lies in H5 at offset 0x4_0006_9A30. -/
theorem test_place_example : place State.reset 0x0030004F3D30 = .hbm (5 * stackSize + 0x400069A30) := by decide +kernel

/-- 04_holbel_data.md, the two MMA words of the query projection: both are legal, and their fields are those the example names. -/
theorem test_mma_load_words : legal (.mmaLoad e0 0x08235000000000 0x7600001F00000000) = true ∧
    bits (0x08235000000000 : Fields).toNat 51 50 = 2 ∧ fld 0x08235000000000 47 44 = 2 ∧ fld 0x08235000000000 43 40 = 3 ∧
    fld 0x08235000000000 39 35 = 10 ∧ fld2 0x7600001F00000000 63 60 = 7 ∧ fld2 0x7600001F00000000 59 56 = 6 ∧
    fld2 0x7600001F00000000 37 32 + 1 = 32 := by decide +kernel
theorem test_mma_compute_words : legal (.mmaCompute e0 0x05015FF8000000 0) = true ∧ bits (0x05015FF8000000 : Fields).toNat 51 50 = 1 ∧
    fld 0x05015FF8000000 49 48 = 1 ∧ fld 0x05015FF8000000 39 35 = 11 := by decide +kernel

/-- The words of these examples spell their instructions by OP (R75), and the words of an instruction are those that spell it. -/
theorem test_words_spell : decodeWords e0 0x8101000000000001 0 0 0 = .sig e0 2 0x01000000000001 ∧
    decodeWords e0 0x4202000000000001 0 0 0 = .wait e0 1 0x02000000000001 ∧ decodeWords e0 0x4302020000000001 0 0 0 = .rsig e0 0x02020000000001 ∧
    decodeWords e0 0xA008235000000000 0x7600001F00000000 0 0 = .mmaLoad e0 0x08235000000000 0x7600001F00000000 ∧
    decodeWords e0 0xA005015FF8000000 0 0 0 = .mmaCompute e0 0x05015FF8000000 0 ∧
    decodeWords e0 0x210080000000007E 0x0008000307120000 0 0 = .preempt e0 0x0080000000007E 0x0008000307120000 := by decide
theorem test_unassigned_spells_nop : decodeWords e0 0x6700000000000005 0 0 0 = .nop e0 0x6700000000000005 ∧
    wordsOf (.nop e0 0x6700000000000005) = some (e0, 0x6700000000000005, 0, 0, 0) := by decide
/-- An engine whose bytes at ENG_PC spell `SIG.T` (Table 3-4: OP 0x81) stands at that instruction. -/
theorem test_sequencer_stands_at :
    atPc (s0.setEng 3 { eng0 with pc := 64, tile := ByteMap.wrN [] 64 [0x01#8, 0#8, 0#8, 0#8, 0#8, 0#8, 0x01#8, 0x81#8] }) e0 =
      .sig e0 2 0x01000000000001 := by decide

/-- 03_holbel_model.md, the PREEMPT of the archive clip: with t3 of 450,560 bytes its record is 459,592 bytes long, less no live accumulator. -/
theorem test_preempt_record : recordLength 0x210080000000007E 0x0008000307120000 { t := [(3, 450560 * 2 ^ 23)] } = 459592 := by decide +kernel

/-- 05_narrow_formats.md, Table 5-5: one latent block narrowed with carry, its scale code, element codes and residual bytes. -/
def latent : List Xr := [.fin false 27 (-5), .fin true 7 (-4), .fin false 1 (-2), .fin false 5 (-7), .fin true 7 (-6), .fin false 3 (-3), Xr.zero,
  .fin true 13 (-4), .fin false 25 (-6), .fin false 23 (-5), Xr.zero, .fin false 1 (-3), .fin true 5 (-4), .fin false 1 (-3), .fin false 37 (-6), Xr.zero]
def carried : List Nat := [0x28, 0xAC, 0, 0x26, 0xA4, 0x20, 0, 0xAC, 0x2A, 0xA8, 0xA0, 0x28, 0, 0x2C, 0xA4, 0xA8]
def narrowed : NarrowOut := narrowBlock { f := .hb4f, cc := 1, scaled := true, g := .fin false 1 (-4), dither := false, seed := 0 } latent carried 0
theorem test_narrow_scale : narrowed.scale = 0x82 := by decide +kernel
theorem test_narrow_codes : narrowed.codes = [0x7, 0xD, 0x3, 0x1, 0xA, 0x4, 0x0, 0xF, 0x5, 0x6, 0x0, 0x2, 0xC, 0x2, 0x6, 0x0] := by decide +kernel
theorem test_narrow_residuals : narrowed.rout = [0xAC, 0xA8, 0x24, 0xA4, 0x28, 0x2C, 0, 0x2C, 0xA8, 0x2C, 0xA0, 0, 0, 0x28, 0xAC, 0xA8] := by decide +kernel
theorem test_narrow_bytes : packCodes .hb4f narrowed.codes = [0xD7, 0x13, 0x4A, 0xF0, 0x65, 0x20, 0x2C, 0x06] := by decide +kernel
/-- The largest UE5M3 code below 2.5 is 2.25. -/
theorem test_ue5m3 : (ue5m3 0x82).eqv (.fin false 5 (-1)) = true ∧ (ue5m3 0x81).eqv (.fin false 9 (-2)) = true := by decide +kernel

/-- 08_special_functions.md, the example after R217: four elements of 3 · 2^126, and the row (0, 2^-80). -/
theorem test_stats_large : rowStats false (List.replicate 4 (.fin false 3 126)) = (.fin false 3 126, Xr.zero, 0, false) ∨
    ((rowStats false (List.replicate 4 (.fin false 3 126))).1.eqv (.fin false 3 126) = true ∧
      (rowStats false (List.replicate 4 (.fin false 3 126))).2.1.isZero = true) := by decide +kernel
theorem test_stats_tiny : (rowStats false [Xr.zero, .fin false 1 (-80)]).1.eqv (.fin false 1 (-81)) = true ∧
    (rowStats false [Xr.zero, .fin false 1 (-80)]).2.1.isZero = true ∧ (rowStats false [Xr.zero, .fin false 1 (-80)]).2.2.1 = Flags.unf ∧
    (rowStats false [Xr.zero, .fin false 1 (-80)]).2.2.2 = true := by decide +kernel

/-- 09_attention_kv.md, Table 9-10: the entry of frame 0x62_E4E6. -/
theorem test_pte_word : ({ v := true, loc := false, fmt := 0, size := 0, gen := 3, frame := 0x62E4E6 } : Pte).word = 0x800300000062E4E6 ∧
    pte 0x800300000062E4E6 = { v := true, loc := false, fmt := 0, size := 0, gen := 3, frame := 0x62E4E6 } := by decide +kernel

/-- 13_contexts_faults.md, the example after R326: at the fourth mark the monitor waits, at the fifth, 14 s in, it switches. -/
def sDeadline (prog us : Nat) : State :=
  let s := (up.modCtx 5 fun c => { c with item := some ⟨0, [2 ^ 8, 0, 0, 120000000 * 2 ^ 32, 40 * 2 ^ 32 + 24, 26 * 2 ^ 56 + 4 * 2 ^ 48 + 0x1000, 0, 0], 0, 0⟩ })
  { s.setReg (Off.ctxReg 5 0x20) prog with us := us }
theorem test_deadline_waits : (effMark 5 0 1 (sDeadline 3 10000000)).fld (Off.ctxReg 5 0x28) 31 31 = 0 := by decide +kernel
theorem test_deadline_switches : (effMark 5 0 1 (sDeadline 4 14000000)).fld (Off.ctxReg 5 0x28) 31 31 = 1 ∧
    ((effMark 5 0 1 (sDeadline 4 14000000)).mem.hbm.rd (lowPlace 0x1000)).toNat = 1 := by decide +kernel

/-- 01_architecture.md, the example after R34: BASE 640, then 820, which is refused, then 0, which clears REJ. -/
def sBar2 : State := (bar2BaseWrite up 640)
theorem test_bar2_base : bar2Addr sBar2 0x000234000000 = 0x00A234000000 ∧ (bar2BaseWrite sBar2 820).fld Off.bar2Base 31 31 = 1 ∧
    (bar2BaseWrite sBar2 820).fld Off.bar2Base 9 0 = 640 ∧ (bar2BaseWrite (bar2BaseWrite sBar2 820) (2 ^ 31)).fld Off.bar2Base 31 31 = 0 ∧
    (bar2BaseWrite (bar2BaseWrite sBar2 820) (2 ^ 31)).fld Off.bar2Base 9 0 = 0 := by decide +kernel

/-! ## Ill-formed commands: one that each check of `Instr.wf` refuses -/

/-- MODE 0b10 in bits 51:50 of an MMA, and MODE 0b00. -/
def fMode2 : Fields := 0x8000000000000
theorem test_wf_mma_load : (Instr.mmaLoad e0 0 0).wf = false := by decide
theorem test_wf_mma_compute : (Instr.mmaCompute e0 fMode2 0).wf = false ∧ (Instr.mmaLoad e0 fMode2 0).wf = true := by decide
theorem test_wf_tly : (Instr.tlyRead e0 0x2000000000000).wf = false ∧ (Instr.tlyMark e0 0).wf = false ∧ (Instr.tlyAdd e0 0).wf = false := by decide
theorem test_wf_xred : (Instr.xredAllReduce e0 0x4000 0).wf = false ∧ (Instr.xredReduceScatter e0 0 0).wf = false := by decide
theorem test_wf_flit : (Instr.dataFlitReceive 3 []).wf = false ∧ (Instr.idleFlitReceive 3 []).wf = false ∧ (Instr.nak 3 []).wf = false ∧
    (Instr.cut 3 []).wf = false ∧ (Instr.lpreq 3 []).wf = false ∧ (Instr.lpack 3 []).wf = false := by decide
theorem test_wf_hbm_write : (Instr.hbmWrite 60 bytes8).wf = false ∧ (Instr.hbmWrite 0 []).wf = false := by decide
theorem test_wf_hbm_add : (Instr.hbmAddWrite 1 0 0 0).wf = false ∧ (Instr.hbmAtomic 1 0 0 0).wf = false := by decide
theorem test_wf_scrub : (Instr.scrubLine 0 1207959552).wf = false ∧ (Instr.scrubLine 0 1207959551).wf = true := by decide +kernel
theorem test_wf_landing : (Instr.landingDirectAccess 0 65 none).wf = false ∧ (Instr.landingDirectAccess 0 4 (some bytes8)).wf = false := by decide
theorem test_wf_bar2 : (Instr.bar2Read 0xFFFFFFFFF 2).wf = false ∧ (Instr.bar2Write 0xFFFFFFFFF ⟨bytes8, false⟩).wf = false := by decide
theorem test_wf_nop : (Instr.nop e0 0x0800000000000000).wf = false ∧ (Instr.nop e0 0x1800000000000000).wf = true ∧ (Instr.nop e0 0).wf = true := by decide
theorem test_wf_power : (Instr.powerInterval [] 0).wf = false := by decide
theorem test_wf_measurements : (Instr.getMeasurements 1 true []).wf = false ∧ (Instr.getMeasurements 1 false [0]).wf = false := by decide
theorem test_wf_pcie_read : (Instr.pcieReadCompletion 0 1 []).wf = false ∧ (Instr.pcieReadCompletion (BitVec.allOnes 64) 0 bytes8).wf = false := by decide
theorem test_wf_pcie_timeout : (Instr.pcieCompletionTimeout 0 0).wf = false := by decide

/-- Table 3-4: the queue and the length of an instruction follow from its OP; a word of zeros is a NOP, which enters no queue; 0x18 is unassigned, and traps. -/
theorem test_opcode_columns : [Instr.nop e0 0, .li64 e0 0 0, .spill e0 0 0, .mmaLoad e0 0 0, .vadd e0 0, .smax e0 0 0].map (fun i => (queueOf i, instrBytes i)) =
    [(none, 8), (some 0, 16), (some 1, 16), (some 2, 16), (some 3, 8), (some 3, 16)] ∧
    legal (.nop e0 0) = true ∧ legal (.nop e0 0x1800000000000000) = false := by decide +kernel

/-! ## The queue of commands and the table's words -/

/-- No row of the table has bits, so no word spells a command, and the queue of a state stays as it is (Decode.lean, log entry 2). -/
theorem test_no_word : decodeTableWord 64 0xA008235000000000 = none ∧ State.reset.withFetchWord 64 0xA008235000000000 = State.reset := ⟨rfl, rfl⟩
theorem test_front_command : step { up with pending := [.memMapWrite 0 true .both 5, .mapCopiesUpdated] } =
    exec (.memMapWrite 0 true .both 5) { up with pending := [.mapCopiesUpdated] } := rfl
theorem witness_EveryStepKeepsCanonicalForm : State.reset.canonical ∧ step State.reset = .next State.reset :=
  ⟨⟨by decide +kernel, by decide +kernel, by decide +kernel, by decide +kernel⟩, rfl⟩

/-! ## Witnesses of the statements -/

/-- States and operands that meet the hypotheses of the clauses of `Obligations.IdleStepCountsTime`, clause by clause. -/
theorem witness_IdleStepCountsTime :
    -- clause 0
    (s0.pending = [] ∧ s0.boot.powered = false) ∧
    -- clause 1.0
    (pw.pending = [] ∧ pw.boot.powered = true) ∧
    -- clause 1.7
    (sPwIdle.pending = [] ∧ sPwIdle.boot.powered = true ∧ functionUp sPwIdle = false) :=
  by decide +kernel

/-- States and operands that meet the hypotheses of the clauses of `Obligations.ScalarResults`, clause by clause. -/
theorem witness_ScalarResults :
    -- clause 0.3.0
    ((bits (0x0100000000000000 : Word64).toNat 63 56 ≠ 0) ∧
    -- clause 0.3.1
    (13 < fld 1130573636567040 31 24) ∧
    -- clause 0.3.2
    (13 < fld 426885406261248 41 34) ∧
    -- clause 0.3.3
    (5 < fld 572300097224696 31 28) ∧
    -- clause 0.3.4
    (5 < fld 2524581776588800 35 32) ∧
    -- clause 0.3.5
    (fld 72499047956480 40 39 = 3)) ∧
    -- clause 1.0
    (Issuable s0 e0 0 (Instr.nop e0 0)) ∧
    -- clause 1.1
    (Issuable s0 e0 0 (Instr.alu e0 0)) ∧
    -- clause 1.10
    (Issuable s0 e0 0 (Instr.flgclr e0 0)) ∧
    -- clause 1.2
    (Issuable s0 e0 0 (Instr.alui e0 0)) ∧
    -- clause 1.3
    (Issuable s0 e0 0 (Instr.cmp e0 0)) ∧
    -- clause 1.4
    (Issuable s0 e0 0 (Instr.cmpi e0 0)) ∧
    -- clause 1.5
    (Issuable s0 e0 0 (Instr.plog e0 0)) ∧
    -- clause 1.6
    (Issuable s0 e0 0 (Instr.adda e0 0)) ∧
    -- clause 1.7
    (Issuable s0 e0 0 (Instr.tset e0 0)) ∧
    -- clause 1.8
    (Issuable s0 e0 0 (Instr.tget e0 0)) ∧
    -- clause 1.9
    (Issuable s0 e0 0 (Instr.li64 e0 0 4660)) ∧
    -- clause 2
    (Issuable s0 e0 0 (Instr.sget e0 0)) :=
  ⟨by decide +kernel,
   by
    (repeat' apply And.intro) <;> exact issuable_of (by decide +kernel)⟩

/-- States and operands that meet the hypotheses of the clauses of `Obligations.RegistersAndTileBytes`, clause by clause. -/
theorem witness_RegistersAndTileBytes :
    -- clause 0.2.1.0
    (5 ≠ 0) ∧
    -- clause 1.1
    ([7, 9, 1, 2, 3, 4, 5, 6].length ≤ 6291456 ∧ 0 < 6291456 ∧ (∀ (i : Nat), i < [7, 9, 1, 2, 3, 4, 5, 6].length → 0 ≠ (5 + i) % 6291456)) :=
  by decide +kernel

/-- States and operands that meet the hypotheses of the clauses of `Obligations.TileStoreAndTallyResults`, clause by clause. -/
theorem witness_TileStoreAndTallyResults :
    -- clause 0.0
    (Issuable s0 e0 0 (Instr.lds e0 0)) ∧
    -- clause 0.1
    (Issuable s0 e0 0 (Instr.sts e0 0)) ∧
    -- clause 0.2
    (Issuable s0 e0 0 (Instr.bload e0 0)) ∧
    -- clause 0.3
    (Issuable s0 e0 0 (Instr.bext e0 0)) ∧
    -- clause 0.4
    (Issuable s0 e0 2524581776588800 (Instr.tblload e0 2524581776588800 16) ∧ bit (2524581776588800) 51 ≠ (s0.eng e0.val).bank) ∧
    -- clause 0.5
    (Issuable s0 e0 272781962903552 (Instr.tblload e0 272781962903552 16) ∧ bit (272781962903552) 51 = (s0.eng e0.val).bank) ∧
    -- clause 0.6
    (Issuable s0 e0 0 (Instr.tblswap e0 0)) ∧
    -- clause 1.0
    (Issuable s0 e0 0 (Instr.tlyRead e0 0) ∧ (Instr.tlyRead e0 0).wf = true) ∧
    -- clause 1.1
    (Issuable s0 e0 571746046443520 (Instr.tlyMark e0 571746046443520) ∧ (Instr.tlyMark e0 571746046443520).wf = true) ∧
    -- clause 1.2
    (Issuable s0 e0 1128034505588735 (Instr.tlyAdd e0 1128034505588735) ∧ (Instr.tlyAdd e0 1128034505588735).wf = true) :=
  by
    (repeat' apply And.intro) <;> first | exact issuable_of (by decide +kernel) | decide +kernel

/-- States and operands that meet the hypotheses of the clauses of `Obligations.BranchDoneAndPreempt`, clause by clause. -/
theorem witness_BranchDoneAndPreempt :
    -- clause 1.3
    (((sSt.eng e0.val).issue = IssueState.stopping 119 136 ∧ (sSt.eng e0.val).quiet = true) ∧
    -- clause 1.4
    ((sSt2.eng e0.val).issue = IssueState.stopping 119 136 ∧ (sSt2.eng e0.val).quiet = false)) ∧
    -- clause 0.0
    ((Issuable s0 e0 0 (Instr.br e0 0)) ∧
    -- clause 0.1
    (Issuable s0 e0 0 (Instr.jal e0 0)) ∧
    -- clause 0.2
    (Issuable s0 e0 0 (Instr.jr e0 0)) ∧
    -- clause 0.3
    (Issuable s0 e0 30786325577733 (Instr.loop e0 30786325577733)) ∧
    -- clause 1.0
    (Issuable s0 e0 0 (Instr.done e0 0)) ∧
    -- clause 1.1
    (Issuable s0 e0 0 (Instr.preempt e0 0 19070976) ∧ (s0.ctx (s0.eng e0.val).ctx).preempt = false ∧ (s0.eng e0.val).pageAbsent = false) ∧
    -- clause 1.2
    (Issuable sP e0 0 (Instr.preempt e0 0 19070976) ∧ ((sP.ctx (sP.eng e0.val).ctx).preempt = true ∨ (sP.eng e0.val).pageAbsent = true))) ∧
    -- clause 1.5
    ((∀ (f' : Fields) (w' : Word64), (s0.eng e0.val).issue ≠ IssueState.stopping f' w')) :=
  ⟨by decide +kernel,
   by
    (repeat' apply And.intro) <;> first | exact issuable_of (by decide +kernel) | decide +kernel,
   by
     intro _ _ h
     have h2 : (s0.eng e0.val).issue = .going := by decide +kernel
     rw [h2] at h
     cases h⟩

/-- States and operands that meet the hypotheses of the clauses of `Obligations.SemaphoreResults`, clause by clause. -/
theorem witness_SemaphoreResults :
    -- clause 0
    (Issuable s0 e0 0 (Instr.sig e0 0 0)) ∧
    -- clause 1
    (Issuable s0 e0 0 (Instr.wait e0 0 0) ∧ fld 0 15 0 ≤ (s0.eng e0.val).sem (fld 0 51 47)) ∧
    -- clause 2
    (Issuable s0 e0 21 (Instr.wait e0 0 21) ∧ (s0.eng e0.val).sem (fld 21 51 47) < fld 21 15 0) :=
  by
    (repeat' apply And.intro) <;> first | exact issuable_of (by decide +kernel) | decide +kernel

/-- States and operands that meet the hypotheses of the clauses of `Obligations.IssueHoldsAndGuards`, clause by clause. -/
theorem witness_IssueHoldsAndGuards :
    -- clause 0
    ((wordOf (Instr.alu e0 13510798882111488) = some (e0, 13510798882111488) ∧ issues (sHalt.eng e0.val) = false) ∧
    -- clause 1
    (wordOf (Instr.alu e0 13510798882111488) = some (e0, 13510798882111488) ∧ issues ((sFullOf 0).eng e0.val) = true ∧
      legal (Instr.alu e0 13510798882111488) = true ∧ queueOf (Instr.alu e0 13510798882111488) = some 0 ∧
      queueDepth 0 ≤ (((sFullOf 0).eng e0.val).queue 0).length)) ∧
    -- clause 2
    ((wordOf (Instr.alu e0 18014398509481984) = some (e0, 18014398509481984) ∧ guardTrue 18014398509481984 (s0.eng e0.val).regs = false) ∧
      Free s0 e0 (Instr.alu e0 18014398509481984)) :=
  ⟨by decide +kernel,
   ⟨by decide +kernel, free_of (by decide +kernel)⟩⟩

/-- States and operands that meet the hypotheses of the clauses of `Obligations.QueueInstructionRunsOnce`, clause by clause. -/
theorem witness_QueueInstructionRunsOnce :
    -- clause 
    ((wordOf (Instr.vmov e0 824633720832) = some (e0, 824633720832) ∧ (queueOf (Instr.vmov e0 824633720832)).isSome = true ∧
      followerLegal e0 (Instr.vmov e0 824633720832) = true ∧ runsAtOnce (s0.eng e0.val) (Instr.vmov e0 824633720832) = true) ∧
      Issuable s0 e0 824633720832 (Instr.vmov e0 824633720832)) :=
  ⟨by decide +kernel, issuable_of (by decide +kernel)⟩

/-- States and operands that meet the hypotheses of the clauses of `Obligations.TrapsStopEngines`, clause by clause. -/
theorem witness_TrapsStopEngines :
    -- clause 0
    (wordOf (Instr.nop e0 255) = some (e0, 255) ∧ issues (s0.eng e0.val) = true ∧ legal (Instr.nop e0 255) = false ∧
      (s0.eng e0.val).pc < tileSize) ∧
    -- clause 1.5.0
    (3 ≠ 5) :=
  by decide +kernel

/-- States and operands that meet the hypotheses of the clauses of `Obligations.VectorLaneResults`, clause by clause. -/
theorem witness_VectorLaneResults :
    -- clause 0
    (Issuable s0 e0 583840682737664 (Instr.vadd e0 583840682737664)) ∧
    -- clause 1
    (Issuable s0 e0 583840682737664 (Instr.vsub e0 583840682737664)) ∧
    -- clause 10
    (Issuable s0 e0 581366781575168 (Instr.vlogi e0 581366781575168)) ∧
    -- clause 11
    (Issuable s0 e0 583840682737664 (Instr.vfma e0 583840682737664 0)) ∧
    -- clause 2
    (Issuable s0 e0 583840682737664 (Instr.vmul e0 583840682737664)) ∧
    -- clause 3
    (Issuable s0 e0 583840682737664 (Instr.vmin e0 583840682737664)) ∧
    -- clause 4
    (Issuable s0 e0 583840682737664 (Instr.vmax e0 583840682737664)) ∧
    -- clause 5
    (Issuable s0 e0 581366781575168 (Instr.vmov e0 581366781575168)) ∧
    -- clause 6
    (Issuable s0 e0 581366781575168 (Instr.vabs e0 581366781575168)) ∧
    -- clause 7
    (Issuable s0 e0 581366781575168 (Instr.vneg e0 581366781575168)) ∧
    -- clause 8
    (Issuable s0 e0 583840682737664 (Instr.vclamp e0 583840682737664)) ∧
    -- clause 9
    (Issuable s0 e0 581366781575168 (Instr.vtanh e0 581366781575168)) :=
  by
    (repeat' apply And.intro) <;> exact issuable_of (by decide +kernel)

/-- States and operands that meet the hypotheses of the clauses of `Obligations.RowInstructionResults`, clause by clause. -/
theorem witness_RowInstructionResults :
    -- clause 0
    (Issuable s0 e0 583840682737664 (Instr.steprun e0 583840682737664 0)) ∧
    -- clause 1
    (Issuable s0 e0 581366781575168 (Instr.smax e0 581366781575168 8444250366672896)) ∧
    -- clause 2.12.0
    (Issuable s0 e0 316659357188096 (Instr.drain e0 316659357188096 0)) ∧
    -- clause 2.12.1
    (Issuable s0 e0 4675071901696 (Instr.cvt e0 4675071901696 0)) ∧
    -- clause 2.12.2
    (Issuable s0 e0 581366781575168 (Instr.vfuse e0 581366781575168 0)) ∧
    -- clause 2.12.3
    (Issuable s0 e0 581366781575168 (Instr.vrot e0 581366781575168 0)) ∧
    -- clause 2.12.4
    (Issuable s0 e0 581366781575168 (Instr.rstat e0 581366781575168 0)) ∧
    -- clause 2.4
    (Issuable s0 e0 4675071901696 (Instr.cvt e0 4675071901696 0) ∧ 0 ≠ e0.val) :=
  by
    (repeat' apply And.intro) <;> first | exact issuable_of (by decide +kernel) | decide +kernel

/-- States and operands that meet the hypotheses of the clauses of `Obligations.MmaResults`, clause by clause. -/
theorem witness_MmaResults :
    -- clause 1
    (((Instr.mmaCompute e0 301266320228352 0).wf = true ∧ bit (301266320228352) 26 = false) ∧
      Issuable sA e0 301266320228352 (Instr.mmaCompute e0 301266320228352 0)) :=
  ⟨by decide +kernel, issuable_of (by decide +kernel)⟩

/-- States and operands that meet the hypotheses of the clauses of `Obligations.DeferredQueueResults`, clause by clause. -/
theorem witness_DeferredQueueResults :
    -- clause 0.0.0
    (issues (s0.eng e0.val) = true ∧ guardTrue 439804651110400 (s0.eng e0.val).regs = true ∧ (s0.eng e0.val).queues = [] ∧
      (s0.eng e0.val).tileErr = [] ∧ legal (Instr.wgpush e0 439804651110400 0 11601835590059819008 0) = true ∧
      followerLegal e0 (Instr.wgpush e0 439804651110400 0 11601835590059819008 0) = true ∧ (s0.eng e0.val).deferred.length < 256) ∧
    -- clause 0.0.1
    (issues (sDefFull.eng e0.val) = true ∧ guardTrue 439804651110400 (sDefFull.eng e0.val).regs = true ∧ (sDefFull.eng e0.val).queues = [] ∧
      (sDefFull.eng e0.val).tileErr = [] ∧ legal (Instr.wgpush e0 439804651110400 0 11601835590059819008 0) = true ∧
      followerLegal e0 (Instr.wgpush e0 439804651110400 0 11601835590059819008 0) = true ∧ 256 ≤ (sDefFull.eng e0.val).deferred.length) ∧
    -- clause 1
    ((s0.eng e0.val).deferred = [] ∧ issues (s0.eng e0.val) = true ∧ guardTrue 439804651110400 (s0.eng e0.val).regs = true ∧
      (s0.eng e0.val).queues = [] ∧ (s0.eng e0.val).tileErr = [] ∧ legal (Instr.wgdrain e0 439804651110400) = true) :=
  by
    (repeat' apply And.intro) <;> decide +kernel

/-- States and operands that meet the hypotheses of the clauses of `Obligations.TransfersEnterTheirQueue`, clause by clause. -/
theorem witness_TransfersEnterTheirQueue :
    -- clause 1
    ((wordOf (Instr.fill e0 0 0) = some (e0, 0) ∧ skTarget (Instr.fill e0 0 0) = some true ∧ Engine.occupancy (skQueue (s0.eng e0.val) true) < 32) ∧
      Issuable s0 e0 0 (Instr.fill e0 0 0)) :=
  ⟨by decide +kernel, issuable_of (by decide +kernel)⟩

/-- States and operands that meet the hypotheses of the clauses of `Obligations.TransferStarts`, clause by clause. -/
theorem witness_TransferStarts :
    -- clause 0
    ((nextWaiting ((sFillQ (Instr.fill e0 fXzero 0) Stage.waiting).eng e0.val) true = some (skE (Instr.fill e0 fXzero 0) Stage.waiting) ∧
      transferOf (skE (Instr.fill e0 fXzero 0) Stage.waiting).instr (skE (Instr.fill e0 fXzero 0) Stage.waiting).regs = some trZero ∧ trZero.len = 0) ∧
      (∀ (e' : EngId) (f : Fields) (w : Word64), (skE (Instr.fill e0 fXzero 0) Stage.waiting).instr ≠ Instr.winfill e' f w)) ∧
    -- clause 1
    ((nextWaiting ((sFillQ (Instr.fill e0 fXmis 0) Stage.waiting).eng e0.val) true = some (skE (Instr.fill e0 fXmis 0) Stage.waiting) ∧
      transferOf (skE (Instr.fill e0 fXmis 0) Stage.waiting).instr (skE (Instr.fill e0 fXmis 0) Stage.waiting).regs = some trMis ∧ trMis.len ≠ 0 ∧
      aligned trMis = false) ∧
      (∀ (e' : EngId) (f : Fields) (w : Word64), (skE (Instr.fill e0 fXmis 0) Stage.waiting).instr ≠ Instr.winfill e' f w)) ∧
    -- clause 2.0
    ((nextWaiting ((sFillQ (Instr.fill e0 fX 0) Stage.waiting).eng e0.val) true = some (skE (Instr.fill e0 fX 0) Stage.waiting) ∧
      transferOf (skE (Instr.fill e0 fX 0) Stage.waiting).instr (skE (Instr.fill e0 fX 0) Stage.waiting).regs = some trX ∧ trX.len ≠ 0 ∧
      aligned trX = true ∧ trX.remote = false) ∧
      (∀ (e' : EngId) (f : Fields) (w : Word64), (skE (Instr.fill e0 fX 0) Stage.waiting).instr ≠ Instr.winfill e' f w)) ∧
    -- clause 3, FILL
    ((nextWaiting ((sFillQ (Instr.fill e0 fX wRem) Stage.waiting).eng e0.val) true = some (skE (Instr.fill e0 fX wRem) Stage.waiting) ∧
      transferOf (Instr.fill e0 fX wRem) regsX = some (trRem trX) ∧ (trRem trX).len ≠ 0 ∧ aligned (trRem trX) = true ∧ (trRem trX).remote = true ∧
      (trRem trX).len ≤ 4096 ∧ (sFillQ (Instr.fill e0 fX wRem) Stage.waiting).fabric.reqs = [] ∧
      ((sFillQ (Instr.fill e0 fX wRem) Stage.waiting).eng e0.val).tileErr = []) ∧
      (∀ (e' : EngId) (f : Fields) (w : Word64), (skE (Instr.fill e0 fX wRem) Stage.waiting).instr ≠ Instr.winfill e' f w)) ∧
    -- clause 3, SPILL
    ((nextWaiting ((sSpillQ (Instr.spill e0 fX wRem) Stage.waiting).eng e0.val) false = some (skE (Instr.spill e0 fX wRem) Stage.waiting) ∧
      transferOf (Instr.spill e0 fX wRem) regsX = some (trRem trX) ∧ (sSpillQ (Instr.spill e0 fX wRem) Stage.waiting).fabric.reqs = [] ∧
      ((sSpillQ (Instr.spill e0 fX wRem) Stage.waiting).eng e0.val).tileErr = []) ∧
      (∀ (e' : EngId) (f : Fields) (w : Word64), (skE (Instr.spill e0 fX wRem) Stage.waiting).instr ≠ Instr.winfill e' f w)) ∧
    -- clause 3, ADDW
    ((nextWaiting ((sSpillQ (Instr.addw e0 fX wRem) Stage.waiting).eng e0.val) false = some (skE (Instr.addw e0 fX wRem) Stage.waiting) ∧
      transferOf (Instr.addw e0 fX wRem) regsX = some (trRem trAdd) ∧ (trRem trAdd).len ≠ 0 ∧ aligned (trRem trAdd) = true ∧
      (trRem trAdd).remote = true ∧ (trRem trAdd).len ≤ 4096 ∧ (sSpillQ (Instr.addw e0 fX wRem) Stage.waiting).fabric.reqs = [] ∧
      ((sSpillQ (Instr.addw e0 fX wRem) Stage.waiting).eng e0.val).tileErr = []) ∧
      (∀ (e' : EngId) (f : Fields) (w : Word64), (skE (Instr.addw e0 fX wRem) Stage.waiting).instr ≠ Instr.winfill e' f w)) ∧
    -- clause 3, ATOM
    ((nextWaiting ((sFillQ (Instr.atom e0 fX wRem) Stage.waiting).eng e0.val) true = some (skE (Instr.atom e0 fX wRem) Stage.waiting) ∧
      transferOf (Instr.atom e0 fX wRem) regsX = some (trRem trAtom) ∧ (trRem trAtom).len ≠ 0 ∧ aligned (trRem trAtom) = true ∧
      (trRem trAtom).remote = true ∧ (trRem trAtom).len ≤ 4096 ∧ (sFillQ (Instr.atom e0 fX wRem) Stage.waiting).fabric.reqs = [] ∧
      ((sFillQ (Instr.atom e0 fX wRem) Stage.waiting).eng e0.val).tileErr = []) ∧
      (∀ (e' : EngId) (f : Fields) (w : Word64), (skE (Instr.atom e0 fX wRem) Stage.waiting).instr ≠ Instr.winfill e' f w)) :=
  ⟨⟨by decide +kernel,
    (by
     intro _ _ _ h
     cases h)⟩,
   ⟨by decide +kernel,
    (by
     intro _ _ _ h
     cases h)⟩,
   ⟨by decide +kernel,
    (by
     intro _ _ _ h
     cases h)⟩,
   ⟨by decide +kernel,
    (by
     intro _ _ _ h
     cases h)⟩,
   ⟨by decide +kernel,
    (by
     intro _ _ _ h
     cases h)⟩,
   ⟨by decide +kernel,
    (by
     intro _ _ _ h
     cases h)⟩,
   ⟨by decide +kernel,
    (by
     intro _ _ _ h
     cases h)⟩⟩

/-- States and operands that meet the hypotheses of the clauses of `Obligations.TransfersMoveBytesAndSignal`, clause by clause. -/
theorem witness_TransfersMoveBytesAndSignal :
    -- clause 0.0.0
    ((skE (Instr.fill e0 fX 0) Stage.started).stage = Stage.started ∧
      transferOf (skE (Instr.fill e0 fX 0) Stage.started).instr (skE (Instr.fill e0 fX 0) Stage.started).regs = some trX ∧ trX.remote = false ∧
      (skE (Instr.fill e0 fX 0) Stage.started).quiet = false ∧ trX.len ≤ 6291456 ∧
      ((sFillQ (Instr.fill e0 fX 0) Stage.started).eng e0.val).tileErr = [] ∧ ((sFillQ (Instr.fill e0 fX 0) Stage.started).eng e0.val).queues = [] ∧
      ((sFillQ (Instr.fill e0 fX 0) Stage.started).eng e0.val).deferred = [] ∧ (skE (Instr.fill e0 fX 0) Stage.started).instr = Instr.fill e0 fX 0 ∧
      ((sFillQ (Instr.fill e0 fX 0) Stage.started).eng e0.val).fillQ = [skE (Instr.fill e0 fX 0) Stage.started] ∧
      (memReadVia (sFillQ (Instr.fill e0 fX 0) Stage.started) (Requester.skidder e0.val) (engDie (sFillQ (Instr.fill e0 fX 0) Stage.started) e0.val) trX.lpol trX.addr trX.len).snd.fst = MemEnd.ok) ∧
    -- clause 0.1.0
    ((skE (Instr.spill e0 fX 0) Stage.started).stage = Stage.started ∧
      transferOf (skE (Instr.spill e0 fX 0) Stage.started).instr (skE (Instr.spill e0 fX 0) Stage.started).regs = some trX ∧ trX.remote = false ∧
      (skE (Instr.spill e0 fX 0) Stage.started).quiet = false ∧ trX.len ≤ 6291456 ∧
      ((sSpillQ (Instr.spill e0 fX 0) Stage.started).eng e0.val).tileErr = [] ∧
      ((sSpillQ (Instr.spill e0 fX 0) Stage.started).eng e0.val).queues = [] ∧
      ((sSpillQ (Instr.spill e0 fX 0) Stage.started).eng e0.val).deferred = [] ∧
      (skE (Instr.spill e0 fX 0) Stage.started).instr = Instr.spill e0 fX 0 ∧
      ((sSpillQ (Instr.spill e0 fX 0) Stage.started).eng e0.val).spillQ = [skE (Instr.spill e0 fX 0) Stage.started] ∧
      memWrite ((sSpillQ (Instr.spill e0 fX 0) Stage.started).tally (e0.val) 4 (portBytes trX.addr trX.len)) (Requester.skidder e0.val) trX.addr (tileBytes ((sSpillQ (Instr.spill e0 fX 0) Stage.started).eng e0.val) trX.tile trX.len) = ((sSpillQ (Instr.spill e0 fX 0) Stage.started).tally (e0.val) 4 (portBytes (trX).addr (trX).len), MemEnd.ok)) ∧
    -- clause 0.2.0
    ((skE (Instr.copy e0 fXcopy 0) Stage.started).stage = Stage.started ∧ transferOf (skE (Instr.copy e0 fXcopy 0) Stage.started).instr (skE (Instr.copy e0 fXcopy 0) Stage.started).regs = some trCopy ∧ trCopy.remote = false ∧
      (skE (Instr.copy e0 fXcopy 0) Stage.started).quiet = false ∧ trCopy.len ≤ 6291456 ∧ ((sSpillQ (Instr.copy e0 fXcopy 0) Stage.started).eng e0.val).tileErr = [] ∧
      ((sSpillQ (Instr.copy e0 fXcopy 0) Stage.started).eng e0.val).queues = [] ∧ ((sSpillQ (Instr.copy e0 fXcopy 0) Stage.started).eng e0.val).deferred = [] ∧
      ((sSpillQ (Instr.copy e0 fXcopy 0) Stage.started).eng e0.val).spillQ = [(skE (Instr.copy e0 fXcopy 0) Stage.started)] ∧
      (memReadVia (sSpillQ (Instr.copy e0 fXcopy 0) Stage.started) (Requester.skidder e0.val) (engDie (sSpillQ (Instr.copy e0 fXcopy 0) Stage.started) e0.val) 0 0x1000 64).2 =
        (MemEnd.ok, List.replicate 64 0#8) ∧
      (memWrite (((memReadVia (sSpillQ (Instr.copy e0 fXcopy 0) Stage.started) (Requester.skidder e0.val) (engDie (sSpillQ (Instr.copy e0 fXcopy 0) Stage.started) e0.val) 0 0x1000 64).1.tally 3 3 64).tally 3 4 64) (Requester.skidder 3) 0x2000 (List.replicate 64 0#8)).2 = MemEnd.ok ∧
      portBytes trCopy.addr trCopy.len = 64 ∧ portBytes trCopy.dest trCopy.len = 64) ∧
    -- clause 0.3.0
    ((skE (Instr.addw e0 fX 0) Stage.started).stage = Stage.started ∧ transferOf (skE (Instr.addw e0 fX 0) Stage.started).instr (skE (Instr.addw e0 fX 0) Stage.started).regs = some trAdd ∧ trAdd.remote = false ∧
      (skE (Instr.addw e0 fX 0) Stage.started).quiet = false ∧ trAdd.len ≤ 6291456 ∧ ((sSpillQ (Instr.addw e0 fX 0) Stage.started).eng e0.val).tileErr = [] ∧
      ((sSpillQ (Instr.addw e0 fX 0) Stage.started).eng e0.val).queues = [] ∧ ((sSpillQ (Instr.addw e0 fX 0) Stage.started).eng e0.val).deferred = [] ∧
      ((sSpillQ (Instr.addw e0 fX 0) Stage.started).eng e0.val).spillQ = [(skE (Instr.addw e0 fX 0) Stage.started)] ∧
      allHbm (sSpillQ (Instr.addw e0 fX 0) Stage.started) trAdd.addr trAdd.len = true) ∧
    -- clause 0.4.0
    ((skE (Instr.atom e0 fX 0) Stage.started).stage = Stage.started ∧ transferOf (skE (Instr.atom e0 fX 0) Stage.started).instr (skE (Instr.atom e0 fX 0) Stage.started).regs = some trAtom ∧ trAtom.remote = false ∧
      (skE (Instr.atom e0 fX 0) Stage.started).quiet = false ∧ trAtom.len ≤ 6291456 ∧ ((sFillQ (Instr.atom e0 fX 0) Stage.started).eng e0.val).tileErr = [] ∧
      ((sFillQ (Instr.atom e0 fX 0) Stage.started).eng e0.val).queues = [] ∧ ((sFillQ (Instr.atom e0 fX 0) Stage.started).eng e0.val).deferred = [] ∧
      ((sFillQ (Instr.atom e0 fX 0) Stage.started).eng e0.val).fillQ = [(skE (Instr.atom e0 fX 0) Stage.started)] ∧
      (adderOp ((sFillQ (Instr.atom e0 fX 0) Stage.started).tally 3 4 trAtom.len) 0 trAtom.addr (fld fX 17 14) (fld fX 13 12)
        (leNat (tileBytes ((sFillQ (Instr.atom e0 fX 0) Stage.started).eng e0.val) trAtom.tile trAtom.len))).2.1 = MemEnd.ok) ∧
    -- clause 0.5.0
    ((skWin []).stage = Stage.started ∧ transferOf (skWin []).instr (skWin []).regs = some trWin ∧ trWin.remote = false ∧ (skWin []).quiet = false ∧
      trWin.len ≤ 6291456 ∧ ((sWinFill []).eng e0.val).tileErr = [] ∧ ((sWinFill []).eng e0.val).queues = [] ∧ ((sWinFill []).eng e0.val).deferred = [] ∧
      ((sWinFill []).eng e0.val).fillQ = [(skWin [])] ∧ (winDesc (skWin []).held).buck = false ∧
      (winFill 3 0 0x1000 0 (winDesc []) (0, 0, 0) (winDesc []).np (sWinFill [])).2 = Moved.done) ∧
    -- clause 0.5.1.0
    ((skWin [0x10#8]).stage = Stage.started ∧ transferOf (skWin [0x10#8]).instr (skWin [0x10#8]).regs = some trWin ∧ trWin.remote = false ∧ (skWin [0x10#8]).quiet = false ∧
      trWin.len ≤ 6291456 ∧ ((sWinFill [0x10#8]).eng e0.val).tileErr = [] ∧ ((sWinFill [0x10#8]).eng e0.val).queues = [] ∧ ((sWinFill [0x10#8]).eng e0.val).deferred = [] ∧
      ((sWinFill [0x10#8]).eng e0.val).fillQ = [(skWin [0x10#8])] ∧ (winDesc (skWin [0x10#8]).held).buck = false ∧
      (winDesc [0x10#8]).lay = false ∧ (winDesc [0x10#8]).scaled = false ∧ (winDesc [0x10#8]).np = 1 ∧ (winDesc [0x10#8]).kl = 1 ∧
      winSource (winDesc [0x10#8]) 0 (16 * ((winDesc [0x10#8]).koff : Int) / (winDesc [0x10#8]).cg)
        ((winDesc [0x10#8]).cbase + 16 * ((winDesc [0x10#8]).koff : Int) % (winDesc [0x10#8]).cg) = none) ∧
    -- clause 0.5.1.1
    ((skWin []).stage = Stage.started ∧ transferOf (skWin []).instr (skWin []).regs = some trWin ∧ trWin.remote = false ∧ (skWin []).quiet = false ∧
      trWin.len ≤ 6291456 ∧ ((sWinFill []).eng e0.val).tileErr = [] ∧ ((sWinFill []).eng e0.val).queues = [] ∧ ((sWinFill []).eng e0.val).deferred = [] ∧
      ((sWinFill []).eng e0.val).fillQ = [(skWin [])] ∧ (winDesc (skWin []).held).buck = false ∧
      (winDesc []).lay = false ∧ (winDesc []).scaled = false ∧ (winDesc []).np = 1 ∧ (winDesc []).kl = 1 ∧
      winSource (winDesc []) 0 (16 * ((winDesc []).koff : Int) / (winDesc []).cg) ((winDesc []).cbase + 16 * ((winDesc []).koff : Int) % (winDesc []).cg) =
        some 0 ∧ (winRead (sWinFill []) 3 0 0x1000 0 (winDesc []).blockBytes).2.1 = MemEnd.ok) ∧
    -- clause 1.0
    ((skE (Instr.spill e0 fX wRem) Stage.started).stage = Stage.started ∧ transferOf (skE (Instr.spill e0 fX wRem) Stage.started).instr (skE (Instr.spill e0 fX wRem) Stage.started).regs = some (trRem trX) ∧ (trRem trX).remote = true ∧
      (skE (Instr.spill e0 fX wRem) Stage.started).quiet = false ∧ (trRem trX).len ≤ 6291456 ∧ ((sReqX (sSpillQ (Instr.spill e0 fX wRem) Stage.started) 0).eng e0.val).tileErr = [] ∧
      ((sReqX (sSpillQ (Instr.spill e0 fX wRem) Stage.started) 0).eng e0.val).queues = [] ∧ ((sReqX (sSpillQ (Instr.spill e0 fX wRem) Stage.started) 0).eng e0.val).deferred = [] ∧
      skTarget (skE (Instr.spill e0 fX wRem) Stage.started).instr = some false ∧ skQueue ((sReqX (sSpillQ (Instr.spill e0 fX wRem) Stage.started) 0).eng e0.val) false = [(skE (Instr.spill e0 fX wRem) Stage.started)] ∧
      ∃ q ∈ reqsOf (sReqX (sSpillQ (Instr.spill e0 fX wRem) Stage.started) 0) e0.val 9, q.status = 0) ∧
    -- clause 1.1
    ((skE (Instr.fill e0 fX wRem) Stage.started).stage = Stage.started ∧ transferOf (skE (Instr.fill e0 fX wRem) Stage.started).instr (skE (Instr.fill e0 fX wRem) Stage.started).regs = some (trRem trX) ∧ (trRem trX).remote = true ∧
      (skE (Instr.fill e0 fX wRem) Stage.started).quiet = false ∧ (trRem trX).len ≤ 6291456 ∧ ((sReqX (sFillQ (Instr.fill e0 fX wRem) Stage.started) 2).eng e0.val).tileErr = [] ∧
      ((sReqX (sFillQ (Instr.fill e0 fX wRem) Stage.started) 2).eng e0.val).queues = [] ∧ ((sReqX (sFillQ (Instr.fill e0 fX wRem) Stage.started) 2).eng e0.val).deferred = [] ∧
      skTarget (skE (Instr.fill e0 fX wRem) Stage.started).instr = some true ∧ skQueue ((sReqX (sFillQ (Instr.fill e0 fX wRem) Stage.started) 2).eng e0.val) true = [(skE (Instr.fill e0 fX wRem) Stage.started)] ∧
      (∀ q ∈ reqsOf (sReqX (sFillQ (Instr.fill e0 fX wRem) Stage.started) 2) e0.val 9, q.status ≠ 0) ∧ ∃ q ∈ reqsOf (sReqX (sFillQ (Instr.fill e0 fX wRem) Stage.started) 2) e0.val 9, q.status = 2) ∧
    -- clause 1.2.0
    ((skE (Instr.fill e0 fX wRem) Stage.started).stage = Stage.started ∧ transferOf (skE (Instr.fill e0 fX wRem) Stage.started).instr (skE (Instr.fill e0 fX wRem) Stage.started).regs = some (trRem trX) ∧ (trRem trX).remote = true ∧
      (skE (Instr.fill e0 fX wRem) Stage.started).quiet = false ∧ (trRem trX).len ≤ 6291456 ∧ ((sReqX (sFillQ (Instr.fill e0 fX wRem) Stage.started) 1).eng e0.val).tileErr = [] ∧
      ((sReqX (sFillQ (Instr.fill e0 fX wRem) Stage.started) 1).eng e0.val).queues = [] ∧ ((sReqX (sFillQ (Instr.fill e0 fX wRem) Stage.started) 1).eng e0.val).deferred = [] ∧
      skTarget (skE (Instr.fill e0 fX wRem) Stage.started).instr = some true ∧ skQueue ((sReqX (sFillQ (Instr.fill e0 fX wRem) Stage.started) 1).eng e0.val) true = [(skE (Instr.fill e0 fX wRem) Stage.started)] ∧
      (∀ q ∈ reqsOf (sReqX (sFillQ (Instr.fill e0 fX wRem) Stage.started) 1) e0.val 9, q.status ≠ 0 ∧ q.status ≠ 2) ∧ (replyBytes (reqsOf (sReqX (sFillQ (Instr.fill e0 fX wRem) Stage.started) 1) e0.val 9)).length = (trRem trX).len) ∧
    -- clause 1.2.0, SPILL
    ((skE (Instr.spill e0 fX wRem) Stage.started).stage = Stage.started ∧ transferOf (skE (Instr.spill e0 fX wRem) Stage.started).instr (skE (Instr.spill e0 fX wRem) Stage.started).regs = some (trRem trX) ∧ (trRem trX).remote = true ∧
      (skE (Instr.spill e0 fX wRem) Stage.started).quiet = false ∧ (trRem trX).len ≤ 6291456 ∧ ((sReqX (sSpillQ (Instr.spill e0 fX wRem) Stage.started) 1).eng e0.val).tileErr = [] ∧
      ((sReqX (sSpillQ (Instr.spill e0 fX wRem) Stage.started) 1).eng e0.val).queues = [] ∧ ((sReqX (sSpillQ (Instr.spill e0 fX wRem) Stage.started) 1).eng e0.val).deferred = [] ∧
      skTarget (skE (Instr.spill e0 fX wRem) Stage.started).instr = some false ∧ skQueue ((sReqX (sSpillQ (Instr.spill e0 fX wRem) Stage.started) 1).eng e0.val) false = [(skE (Instr.spill e0 fX wRem) Stage.started)] ∧
      ∀ q ∈ reqsOf (sReqX (sSpillQ (Instr.spill e0 fX wRem) Stage.started) 1) e0.val 9, q.status ≠ 0 ∧ q.status ≠ 2) ∧
    -- clause 2.0.0
    ((skE (Instr.rsig e0 (rsF 1)) Stage.waiting).instr = Instr.rsig e0 (rsF 1) ∧ (skE (Instr.rsig e0 (rsF 1)) Stage.waiting).stage = Stage.waiting ∧
      (skE (Instr.rsig e0 (rsF 1)) Stage.waiting).quiet = false ∧ ((sRs 1).eng e0.val).spillQ = [skE (Instr.rsig e0 (rsF 1)) Stage.waiting] ∧
      fld (rsF 1) 46 40 < ((sRs 1).eng e0.val).nset ∧ engineOfRank (sRs 1) ((sRs 1).eng e0.val).ctx (fld (rsF 1) 46 40) = some 4 ∧ 4 ≠ e0.val ∧
      ((sRs 1).eng e0.val).queues = [] ∧ ((sRs 1).eng e0.val).deferred = [] ∧ ((sRs 1).eng 4).queues = [] ∧ ((sRs 1).eng 4).deferred = []) ∧
    -- clause 2.1.0
    ((skE (Instr.rsig e0 (rsF 0)) Stage.waiting).instr = Instr.rsig e0 (rsF 0) ∧ (skE (Instr.rsig e0 (rsF 0)) Stage.waiting).stage = Stage.waiting ∧
      (skE (Instr.rsig e0 (rsF 0)) Stage.waiting).quiet = false ∧ ((sRs 0).eng e0.val).spillQ = [skE (Instr.rsig e0 (rsF 0)) Stage.waiting] ∧
      fld (rsF 0) 46 40 < ((sRs 0).eng e0.val).nset ∧ engineOfRank (sRs 0) ((sRs 0).eng e0.val).ctx (fld (rsF 0) 46 40) = some e0.val ∧
      ((sRs 0).eng e0.val).queues = [] ∧ ((sRs 0).eng e0.val).deferred = []) ∧
    -- clause 2.2
    ((skE (Instr.rsig e0 (rsF 2)) Stage.waiting).instr = Instr.rsig e0 (rsF 2) ∧ (skE (Instr.rsig e0 (rsF 2)) Stage.waiting).stage = Stage.waiting ∧
      (skE (Instr.rsig e0 (rsF 2)) Stage.waiting).quiet = false ∧ ((sRs 2).eng e0.val).spillQ = [skE (Instr.rsig e0 (rsF 2)) Stage.waiting] ∧
      ((sRs 2).eng e0.val).nset ≤ fld (rsF 2) 46 40) :=
  by
    (repeat' apply And.intro) <;> decide +kernel

/-- States and operands that meet the hypotheses of the clauses of `Obligations.StoresAndHoles`, clause by clause. -/
theorem witness_StoresAndHoles :
    -- clause 0
    (Place.landing 5 ∉ places (sAlloc.setEng 3 eng0) 4096 bytes8.length) ∧
    -- clause 1
    ((memWrite (sAlloc.setEng 3 eng0) (Requester.skidder 3) 4096 bytes8).2 = MemEnd.ok ∧ (places (sAlloc.setEng 3 eng0) 4096 bytes8.length).Nodup ∧
      7 < bytes8.length) ∧
    -- clause 2.0
    ((places up 0x10000000000 8).any (fun p => !reaches (Requester.skidder 3) p) = true) ∧
    -- clause 2.1
    ((places up 0x10000000000 bytes8.length).any (fun p => !reaches (Requester.skidder 3) p) = true) :=
  by decide +kernel

/-- States and operands that meet the hypotheses of the clauses of `Obligations.InterleaveIsInjective`, clause by clause. -/
theorem witness_InterleaveIsInjective :
    -- clause 0.0
    (bits (State.reset.reg64 (Off.map0 0)) 62 61 ≤ 2 ∧
      bits (State.reset.reg64 (Off.map1 0)) 31 16 + bits (State.reset.reg64 (Off.map1 0)) 15 0 ≤ 36864 ∧
      mapPlace (State.reset.reg64 (Off.map0 0)) (State.reset.reg64 (Off.map1 0)) 4096 = some 386547056896) :=
  by decide +kernel

/-- States and operands that meet the hypotheses of the clauses of `Obligations.LineAccessResults`, clause by clause. -/
theorem witness_LineAccessResults :
    -- clause 0.0
    (memDown sLine = false ∧
      memRead sLine Requester.sched ((4096 : DevAddr).toNat / 64 * 64) 64 = (sLine, MemEnd.ok, bytes8 ++ List.replicate 56 0#8)) ∧
    -- clause 0.1
    ((hbmPlace sLine (4096 : DevAddr).toNat).isSome = true ∧ (Instr.hbmWrite 4096 bytes8).wf = true) ∧
    -- clause 0.2
    ((4096 : DevAddr).toNat % elemSize 0 = 0) ∧
    -- clause 0.3
    ((adderOp sLine 1 (4096 : DevAddr).toNat 0 0 (5 : Word64).toNat).2.1 = MemEnd.ok) :=
  by decide +kernel

/-- States and operands that meet the hypotheses of the clauses of `Obligations.MapEntryWrites`, clause by clause. -/
theorem witness_MapEntryWrites :
    -- clause 0.0
    (up.writable (Off.map0 0) = true ∧ bit (up.reg64 (Off.map0 0)) 63 = true ∧
      mapEntryGood (up.reg64 (Off.map0 0)) (mapMask true (accMerge (up.reg64 (Off.map1 0)) Acc.both (0 : Word64).toNat)) = false) ∧
    -- clause 1.0
    (mapEntryGood (up.reg64 (Off.map0 0)) (mapMask true (accMerge (up.reg64 (Off.map1 0)) Acc.both (5 : Word64).toNat)) = true) :=
  by decide +kernel

/-- States and operands that meet the hypotheses of the clauses of `Obligations.LandingAndScrubResults`, clause by clause. -/
theorem witness_LandingAndScrubResults :
    -- clause 0.0
    ((up.writable (Off.dalloc 0 0) = true ∧
      (bit (accMerge (up.reg64 (Off.dalloc 0 0)) Acc.both (0)) 63 = true → allocGood up (0) (0) (bits (accMerge (up.reg64 (Off.dalloc 0 0)) Acc.both (0)) 12 0) (bits (accMerge (up.reg64 (Off.dalloc 0 0)) Acc.both (0)) 29 16) = true)) ∧
    -- clause 1
    (up.writable (Off.dalloc 0 0) = true ∧
      (¬(bit (accMerge (up.reg64 (Off.dalloc 0 0)) Acc.both (9223372036854841344)) 63 = true → allocGood up (0) (0) (bits (accMerge (up.reg64 (Off.dalloc 0 0)) Acc.both (9223372036854841344)) 12 0) (bits (accMerge (up.reg64 (Off.dalloc 0 0)) Acc.both (9223372036854841344)) 29 16) = true))) ∧
    -- clause 2.0
    (up.writable (Off.lndReg (0) 0) = true) ∧
    -- clause 2.4
    ((sScrub 1).writable (Off.lndReg (0) 0) = true ∧ 0 < 16) ∧
    -- clause 6
    (memDown up = false ∧ (hbmPlace up (4096)).isSome = true ∧ (memReadVia up Requester.sched (0) 0 (4096 / 64 * 64) 64).snd.fst = MemEnd.ok) ∧
    -- clause 7
    (memDown up = false ∧ SMap.get noMark up.mem.hbmErr (0 * (stackSize / 64) + 17 % (stackSize / 64)) = 0) ∧
    -- clause 8.0.0
    (memDown (sScrub 1) = false ∧ (sScrub 1).fatal = false ∧ powerState (sScrub 1) ≠ 2 ∧ (sScrub 1).fld (Off.memReg (0) 12) 31 31 = 1 ∧
      SMap.get noMark (sScrub 1).mem.hbmErr (0 * (stackSize / 64) + 17 % (stackSize / 64)) = 1) ∧
    -- clause 8.1
    (memDown (sScrub 2) = false ∧ (sScrub 2).fatal = false ∧ powerState (sScrub 2) ≠ 2 ∧ (sScrub 2).fld (Off.memReg (0) 12) 31 31 = 1 ∧
      SMap.get noMark (sScrub 2).mem.hbmErr (0 * (stackSize / 64) + 17 % (stackSize / 64)) = 2)) ∧
    -- clause 4
    (memDown sAlloc = false ∧ (∀ (p : Place), p ∈ places sAlloc (1099511627776) bytes8.length → ∃ i, p = Place.landing i)) ∧
    -- clause 5.0
    ((memDown sAlloc = false ∧ sAlloc.mem.landErr = []) ∧
      (∀ (p : Place), p ∈ places sAlloc (1099511627776) 8 → ∃ i, p = Place.landing i)) :=
  ⟨by
    (repeat' apply And.intro) <;> decide +kernel,
   ⟨by decide +kernel, landing_of (by decide +kernel)⟩,
   ⟨by decide +kernel, landing_of (by decide +kernel)⟩⟩

/-- States and operands that meet the hypotheses of the clauses of `Obligations.KvmapResults`, clause by clause. -/
theorem witness_KvmapResults :
    -- clause 0
    (nextWaiting (sMapBehind.eng e0.val) false = some (skE (.kvmap e0 fMap 0) .waiting) ∧
      (skE (.kvmap e0 fMap 0) .waiting).instr = Instr.kvmap e0 fMap 0 ∧
      overtakes sMapBehind (skE (.kvmap e0 fMap 0) .waiting) (running (sMapBehind.eng e0.val) false) = true) ∧
    -- clause 1.0
    (nextWaiting ((sMap fMapMis).eng e0.val) false = some (skE (Instr.kvmap e0 fMapMis 0) Stage.waiting) ∧
      (skE (Instr.kvmap e0 fMapMis 0) Stage.waiting).instr = Instr.kvmap e0 fMapMis 0 ∧
      overtakes (sMap fMapMis) (skE (Instr.kvmap e0 fMapMis 0) Stage.waiting) (running ((sMap fMapMis).eng e0.val) false) = false ∧
      ((skE (Instr.kvmap e0 fMapMis 0) Stage.waiting).regs.getA (fld fMapMis 51 49) + 8 * (skE (Instr.kvmap e0 fMapMis 0) Stage.waiting).regs.getS (fld fMapMis 48 44)) % 2 ^ 48 % 8 ≠ 0) ∧
    -- clause 1.1.0
    (nextWaiting (sMapPinned.eng e0.val) false = some (skE (Instr.kvmap e0 fMap 0) Stage.waiting) ∧
      (skE (Instr.kvmap e0 fMap 0) Stage.waiting).instr = Instr.kvmap e0 fMap 0 ∧
      overtakes sMapPinned (skE (Instr.kvmap e0 fMap 0) Stage.waiting) (running (sMapPinned.eng e0.val) false) = false ∧
      ((skE (Instr.kvmap e0 fMap 0) Stage.waiting).regs.getA (fld fMap 51 49) + 8 * (skE (Instr.kvmap e0 fMap 0) Stage.waiting).regs.getS (fld fMap 48 44)) % 2 ^ 48 % 8 = 0 ∧
      mustDefer sMapPinned (((skE (Instr.kvmap e0 fMap 0) Stage.waiting).regs.getA (fld fMap 51 49) + 8 * (skE (Instr.kvmap e0 fMap 0) Stage.waiting).regs.getS (fld fMap 48 44)) % 2 ^ 48) = true ∧
      sMapPinned.kv.edits.length < 64 ∧ (sMapPinned.eng e0.val).queues = [] ∧ (sMapPinned.eng e0.val).deferred = []) ∧
    -- clause 1.2
    (nextWaiting (sMapFull.eng e0.val) false = some (skE (Instr.kvmap e0 fMap 0) Stage.waiting) ∧
      (skE (Instr.kvmap e0 fMap 0) Stage.waiting).instr = Instr.kvmap e0 fMap 0 ∧
      overtakes sMapFull (skE (Instr.kvmap e0 fMap 0) Stage.waiting) (running (sMapFull.eng e0.val) false) = false ∧
      ((skE (Instr.kvmap e0 fMap 0) Stage.waiting).regs.getA (fld fMap 51 49) + 8 * (skE (Instr.kvmap e0 fMap 0) Stage.waiting).regs.getS (fld fMap 48 44)) % 2 ^ 48 % 8 = 0 ∧
      mustDefer sMapFull (((skE (Instr.kvmap e0 fMap 0) Stage.waiting).regs.getA (fld fMap 51 49) + 8 * (skE (Instr.kvmap e0 fMap 0) Stage.waiting).regs.getS (fld fMap 48 44)) % 2 ^ 48) = true ∧
      64 ≤ sMapFull.kv.edits.length) ∧
    -- clause 1.3
    (nextWaiting ((sMap fMap).eng e0.val) false = some (skE (Instr.kvmap e0 fMap 0) Stage.waiting) ∧
      (skE (Instr.kvmap e0 fMap 0) Stage.waiting).instr = Instr.kvmap e0 fMap 0 ∧
      overtakes (sMap fMap) (skE (Instr.kvmap e0 fMap 0) Stage.waiting) (running ((sMap fMap).eng e0.val) false) = false ∧
      ((skE (Instr.kvmap e0 fMap 0) Stage.waiting).regs.getA (fld fMap 51 49) + 8 * (skE (Instr.kvmap e0 fMap 0) Stage.waiting).regs.getS (fld fMap 48 44)) % 2 ^ 48 % 8 = 0 ∧
      mustDefer (sMap fMap) (((skE (Instr.kvmap e0 fMap 0) Stage.waiting).regs.getA (fld fMap 51 49) + 8 * (skE (Instr.kvmap e0 fMap 0) Stage.waiting).regs.getS (fld fMap 48 44)) % 2 ^ 48) = false ∧
      (memStore ((sMap fMap).tally (e0.val) 4 8) (Requester.skidder e0.val) (((skE (Instr.kvmap e0 fMap 0) Stage.waiting).regs.getA (fld fMap 51 49) + 8 * (skE (Instr.kvmap e0 fMap 0) Stage.waiting).regs.getS (fld fMap 48 44)) % 2 ^ 48) (leBytes 8 ((skE (Instr.kvmap e0 fMap 0) Stage.waiting).regs.getS (fld fMap 43 39)))).snd = MemEnd.ok) :=
  by
    (repeat' apply And.intro) <;> decide +kernel

/-- States and operands that meet the hypotheses of the clauses of `Obligations.WalkResults`, clause by clause. -/
theorem witness_WalkResults :
    -- clause 0.0
    (nextWaiting (sWalkBusy.eng e0.val) true = some (skE (Instr.kvwalk e0 fWalk 0) Stage.waiting) ∧
      (skE (Instr.kvwalk e0 fWalk 0) Stage.waiting).instr = Instr.kvwalk e0 fWalk 0 ∧ (sWalkBusy.kv.walks.any fun v => v.eng == e0.val) = true) ∧
    -- clause 0.1
    (nextWaiting ((sWalk fWalkMany Stage.waiting).eng e0.val) true = some (skE (Instr.kvwalk e0 fWalkMany 0) Stage.waiting) ∧
      (skE (Instr.kvwalk e0 fWalkMany 0) Stage.waiting).instr = Instr.kvwalk e0 fWalkMany 0 ∧
      ((sWalk fWalkMany Stage.waiting).kv.walks.any fun v => v.eng == e0.val) = false ∧
      (((skE (Instr.kvwalk e0 fWalkMany 0) Stage.waiting).regs.getA (fld fWalkMany 51 49) + 8 * (skE (Instr.kvwalk e0 fWalkMany 0) Stage.waiting).regs.getS (fld fWalkMany 48 44)) % 2 ^ 48 % 8 ≠ 0 ∨ 4096 < (skE (Instr.kvwalk e0 fWalkMany 0) Stage.waiting).regs.getS (fld fWalkMany 43 39))) ∧
    -- clause 0.2
    (nextWaiting (sWalkEdit.eng e0.val) true = some (skE (Instr.kvwalk e0 fWalkOne 0) Stage.waiting) ∧
      (skE (Instr.kvwalk e0 fWalkOne 0) Stage.waiting).instr = Instr.kvwalk e0 fWalkOne 0 ∧
      (sWalkEdit.kv.walks.any fun v => v.eng == e0.val) = false ∧
      ((skE (Instr.kvwalk e0 fWalkOne 0) Stage.waiting).regs.getA (fld fWalkOne 51 49) + 8 * (skE (Instr.kvwalk e0 fWalkOne 0) Stage.waiting).regs.getS (fld fWalkOne 48 44)) % 2 ^ 48 % 8 = 0 ∧
      (skE (Instr.kvwalk e0 fWalkOne 0) Stage.waiting).regs.getS (fld fWalkOne 43 39) ≤ 4096 ∧
      (∃ d, d ∈ sWalkEdit.kv.edits ∧ ((skE (Instr.kvwalk e0 fWalkOne 0) Stage.waiting).regs.getA (fld fWalkOne 51 49) + 8 * (skE (Instr.kvwalk e0 fWalkOne 0) Stage.waiting).regs.getS (fld fWalkOne 48 44)) % 2 ^ 48 ≤ d.addr ∧ d.addr < ((skE (Instr.kvwalk e0 fWalkOne 0) Stage.waiting).regs.getA (fld fWalkOne 51 49) + 8 * (skE (Instr.kvwalk e0 fWalkOne 0) Stage.waiting).regs.getS (fld fWalkOne 48 44)) % 2 ^ 48 + 8 * (skE (Instr.kvwalk e0 fWalkOne 0) Stage.waiting).regs.getS (fld fWalkOne 43 39))) ∧
    -- clause 0.3.0
    (nextWaiting ((sWalk fWalk Stage.waiting).eng e0.val) true = some (skE (Instr.kvwalk e0 fWalk 0) Stage.waiting) ∧
      (skE (Instr.kvwalk e0 fWalk 0) Stage.waiting).instr = Instr.kvwalk e0 fWalk 0 ∧
      ((sWalk fWalk Stage.waiting).kv.walks.any fun v => v.eng == e0.val) = false ∧
      ((skE (Instr.kvwalk e0 fWalk 0) Stage.waiting).regs.getA (fld fWalk 51 49) + 8 * (skE (Instr.kvwalk e0 fWalk 0) Stage.waiting).regs.getS (fld fWalk 48 44)) % 2 ^ 48 % 8 = 0 ∧
      (skE (Instr.kvwalk e0 fWalk 0) Stage.waiting).regs.getS (fld fWalk 43 39) = 0 ∧ bit (BitVec.toNat fWalk) 22 = false) ∧
    -- clause 1.0
    ((sWalkEnd.eng e0.val).fillQ = [skE (Instr.kvwalk e0 fWalk 0) Stage.started] ∧
      (skE (Instr.kvwalk e0 fWalk 0) Stage.started).instr = Instr.kvwalk e0 fWalk 0 ∧
      (skE (Instr.kvwalk e0 fWalk 0) Stage.started).stage = Stage.started ∧ (skE (Instr.kvwalk e0 fWalk 0) Stage.started).quiet = false ∧
      sWalkEnd.kv.walks = [wDone] ∧ wDone.id = (skE (Instr.kvwalk e0 fWalk 0) Stage.started).id ∧ wDone.held = [] ∧ wDone.absent = false ∧
      (sWalkEnd.eng e0.val).tileErr = [] ∧ (sWalkEnd.eng e0.val).queues = [] ∧ (sWalkEnd.eng e0.val).deferred = []) ∧
    -- clause 2
    (readyEdit sWalkEdit false = some (edAt 4096) ∧ (edAt 4096).expect = none ∧
      (memStore (dropEdit sWalkEdit (edAt 4096)) (Requester.skidder (edAt 4096).eng) (edAt 4096).addr (leBytes 8 (edAt 4096).value)).snd = MemEnd.ok) :=
  by
    (repeat' apply And.intro) <;> decide +kernel

/-- States and operands that meet the hypotheses of the clauses of `Obligations.MonitorResults`, clause by clause. -/
theorem witness_MonitorResults :
    -- clause 0
    ((sFeed up 5).sched.feeds = [feedOf 5] ∧ monMode (sFeed up 5) (feedOf 5).mon = 0) ∧
    -- clause 1
    ((sFeed sMon 4).sched.feeds = [feedOf 4] ∧ monMode (sFeed sMon 4) (feedOf 4).mon ≠ 0 ∧ monCtx (sFeed sMon 4) (feedOf 4).mon ≠ (feedOf 4).ctx) ∧
    -- clause 2.0.0
    ((sFeed sMon 37).sched.feeds = [feedOf 37] ∧ monMode (sFeed sMon 37) (feedOf 37).mon ≠ 0 ∧
      monCtx (sFeed sMon 37) (feedOf 37).mon = (feedOf 37).ctx ∧
      ((sFeed sMon 37).fld (Off.monReg (feedOf 37).mon 4) 23 0 = 0 ∨ min ((sFeed sMon 37).reg (Off.monReg (feedOf 37).mon 20) + (feedOf 37).count) (2 ^ 32 - 1) < 256 * (sFeed sMon 37).fld (Off.monReg (feedOf 37).mon 4) 23 0)) ∧
    -- clause 2.1.0
    ((sFeed sMonWin 37).sched.feeds = [feedOf 37] ∧ monMode (sFeed sMonWin 37) (feedOf 37).mon ≠ 0 ∧
      monCtx (sFeed sMonWin 37) (feedOf 37).mon = (feedOf 37).ctx ∧ (sFeed sMonWin 37).fld (Off.monReg (feedOf 37).mon 4) 23 0 ≠ 0 ∧
      256 * (sFeed sMonWin 37).fld (Off.monReg (feedOf 37).mon 4) 23 0 ≤ min ((sFeed sMonWin 37).reg (Off.monReg (feedOf 37).mon 20) + (feedOf 37).count) (2 ^ 32 - 1)) ∧
    -- clause 3.0
    (sWiden.sched.widenReqs = [7] ∧ widenUsed sWiden + monTwin sWiden 7 ≤ sWiden.fld Off.widenBudget 19 0) ∧
    -- clause 4.0
    (sDenied.sched.widenReqs = [7] ∧ sDenied.fld Off.widenBudget 19 0 < widenUsed sDenied + monTwin sDenied 7) ∧
    -- clause 5.3.1.0
    ({ sWide with sched := sGrant.sched }.sched.grants = [7] ∧ 7 < 256 ∧ (¬7 ∈ sGrant.sched.releases) ∧
      (memWrite { sWide with sched := sGrant.sched } Requester.sched (monFlag { sWide with sched := sGrant.sched } 7) (leBytes 8 1)).snd = MemEnd.ok) ∧
    -- clause 5.3.2
    (sGrantHole.sched.grants = [7] ∧ 7 < 256 ∧ (¬7 ∈ sGrantHole.sched.releases) ∧
      (memWrite sGrantHole Requester.sched (monFlag sGrantHole 7) (leBytes 8 1)).snd ≠ MemEnd.ok) ∧
    -- clause 5.4
    (sGrantRel.sched.grants = [7] ∧ 7 < 256 ∧ 7 ∈ sGrantRel.sched.releases ∧
      (memWrite sGrantRel Requester.sched (monFlag sGrantRel 7) (leBytes 8 1)).snd = MemEnd.ok) ∧
    -- clause 7.0
    (7 ≠ 0 ∧ sGrantHole.writable (Off.monReg (7) 0) = true ∧ granting sGrantHole 7 = true) ∧
    -- clause 7.1
    (7 ≠ 0 ∧ (sFeed up 5).writable (Off.monReg (7) 0) = true ∧ granting (sFeed up 5) 7 = false ∧ monWide (sFeed up 5) 7 = false) ∧
    -- clause 8.0
    (7 ≠ 0 ∧ sWide.writable (Off.monReg (7) 0) = true ∧ bits (536875572) 30 29 ≠ 3 ∧ granting sWide 7 = false ∧ monWide sWide 7 = true ∧
      (bit (536875572) 31 = true ∨ bits (536875572) 28 23 ≠ monCtx sWide 7)) ∧
    -- clause 9.0
    (7 ≠ 0 ∧ (sFeed up 5).writable (Off.monReg (7) 0) = true ∧ bits (536875572) 30 29 ≠ 3 ∧
      (bit (536875572) 31 = false ∨ granting (sFeed up 5) 7 = false) ∧ monWide (sFeed up 5) 7 = false) :=
  by
    (repeat' apply And.intro) <;> decide +kernel

/-- States and operands that meet the hypotheses of the clauses of `Obligations.RegisterReadsAndWrites`, clause by clause. -/
theorem witness_RegisterReadsAndWrites :
    -- clause 0.1.0.0
    ((powerState sPerstUp = 3 ∨ sPerstUp.power.perst = true ∨ sPerstUp.host.dState ≠ DState.d0)) ∧
    -- clause 0.1.1.1.0
    ((¬(powerState up = 3 ∨ up.power.perst = true ∨ up.host.dState ≠ DState.d0)) ∧ (0 ≠ 4 ∧ 0 ≠ 8 ∨ 2097152 % 0 ≠ 0)) ∧
    -- clause 0.1.1.2
    ((¬(powerState up = 3 ∨ up.power.perst = true ∨ up.host.dState ≠ DState.d0)) ∧ 2097152 ≤ 2097152 ∧ 2097152 < 3145728 ∧ 2097152 ≠ Off.errHead ∧
      2097152 + 4 ≠ Off.errHead ∧ 2097152 % 8 = 0 ∧ up.writable (2097152) = true) ∧
    -- clause 0.1.1.3.0
    ((¬(powerState up = 3 ∨ up.power.perst = true ∨ up.host.dState ≠ DState.d0)) ∧ 2097152 ≤ 2097152 ∧ 2097152 < 3145728 ∧ 2097152 % 8 = 0 ∧
      up.service (2097152) = Service.served) ∧
    -- clause 0.1.1.4
    ((¬(powerState up = 3 ∨ up.power.perst = true ∨ up.host.dState ≠ DState.d0)) ∧ 2097152 ≤ 2097152 ∧ 2097152 < 3145728 ∧ 2097152 ≠ Off.errHead ∧
      2097152 % 4 = 0 ∧ up.writable (2097152) = true) ∧
    -- clause 0.1.1.5
    ((¬(powerState sFatal = 3 ∨ sFatal.power.perst = true ∨ sFatal.host.dState ≠ DState.d0)) ∧ 2097152 ≤ 2097152 ∧ 2097152 < 3145728 ∧
      2097152 % 4 = 0 ∧ sFatal.writable (2097152) = false) ∧
    -- clause 0.1.1.6.0
    ((¬(powerState up = 3 ∨ up.power.perst = true ∨ up.host.dState ≠ DState.d0)) ∧ 2097152 ≤ 2097152 ∧ 2097152 < 3145728 ∧ 2097152 % 4 = 0 ∧
      up.service (2097152) = Service.served) ∧
    -- clause 1.0.0
    (up.service (Off.tly 3 0) = Service.served ∧ hostSilent up = false) :=
  by
    (repeat' apply And.intro) <;> decide +kernel

/-- States and operands that meet the hypotheses of the clauses of `Obligations.EngineWindowResults`, clause by clause. -/
theorem witness_EngineWindowResults :
    -- clause 0
    (sWin.service (16777216 + 65536 * e0.val) = Service.served ∧ e0.val < engCount sWin ∧ (sWin.eng e0.val).online = true ∧ hostSilent sWin = false) ∧
    -- clause 1
    (sWinHalt.service (16777216 + 65536 * e0.val) = Service.served ∧ e0.val < engCount sWinHalt ∧ (sWinHalt.eng e0.val).online = true ∧
      (sWinHalt.eng e0.val).haltReq = true ∧ (sWinHalt.eng e0.val).queuesEmpty = true) ∧
    -- clause 2
    (sWinHalt.service (16777216 + 65536 * e0.val) = Service.served ∧ e0.val < engCount sWinHalt ∧ (sWinHalt.eng e0.val).online = true ∧
      hostSilent sWinHalt = false ∧ (sWinHalt.eng e0.val).halted = true ∧ (sWinHalt.eng e0.val).queues = [] ∧ (sWinHalt.eng e0.val).deferred = []) ∧
    -- clause 4
    (sWin.service (16777216 + 65536 * e0.val) = Service.served ∧ e0.val < engCount sWin ∧ (sWin.eng e0.val).online = true ∧
      (hostSilent sWin = true ∨ (sWin.eng e0.val).halted = false)) ∧
    -- clause 6
    (sWin.service (16777216 + 65536 * e0.val) = Service.served ∧ e0.val < engCount sWin ∧ (sWin.eng e0.val).online = true ∧ hostSilent sWin = false ∧
      (sWin.eng e0.val).tileErr = []) :=
  by
    (repeat' apply And.intro) <;> decide +kernel

/-- States and operands that meet the hypotheses of the clauses of `Obligations.Bar2WindowMoves`, clause by clause. -/
theorem witness_Bar2WindowMoves :
    -- clause 0
    (sMem.writable Off.bar2Base = true ∧ 800 < bits (801 : Word32).toNat 9 0) ∧
    -- clause 1
    (sMem.writable Off.bar2Base = true ∧ bits (2 ^ 31 + 800 : Word32).toNat 9 0 ≤ 800) :=
  by decide +kernel

/-- States and operands that meet the hypotheses of the clauses of `Obligations.Bar2Results`, clause by clause. -/
theorem witness_Bar2Results :
    -- clause 0.0
    (hostSilent sPerstUp = true) ∧
    -- clause 2.0
    (powerState sAsleep = 2 ∧ hostSilent sAsleep = false) ∧
    -- clause 3
    (powerState sFatal < 2 ∧ sFatal.fatal = true ∧ hostSilent sFatal = false) ∧
    -- clause 4.0
    (powerState sMem < 2 ∧ hostSilent sMem = false ∧ sMem.fatal = false ∧ sMem.boot.memReady = true ∧
      (memRead sMem Requester.bar2 (sMem.fld Off.bar2Base 9 0 * 2 ^ 30 + 4096) 8).snd.fst = MemEnd.ok) ∧
    -- clause 4.1
    (powerState sMem < 2 ∧ hostSilent sMem = false ∧ sMem.fatal = false ∧ sMem.boot.memReady = true ∧
      (memWrite sMem Requester.bar2 (sMem.fld Off.bar2Base 9 0 * 2 ^ 30 + 4096) bytes8).snd = MemEnd.ok) ∧
    -- clause 4.2.0
    (powerState sPoison < 2 ∧ hostSilent sPoison = false ∧ sPoison.fatal = false ∧ sPoison.boot.memReady = true ∧
      (memRead sPoison Requester.bar2 (sPoison.fld Off.bar2Base 9 0 * 2 ^ 30 + 4096) 8).snd.fst = MemEnd.ecc) ∧
    -- clause 4.3.0
    (powerState sNoMap < 2 ∧ hostSilent sNoMap = false ∧ sNoMap.fatal = false ∧ sNoMap.boot.memReady = true ∧
      ((places sNoMap (sNoMap.fld Off.bar2Base 9 0 * 2 ^ 30 + 4096) 8).any fun p => !reaches Requester.bar2 p) = true) ∧
    -- clause 4.4
    (powerState sNoMap < 2 ∧ hostSilent sNoMap = false ∧ sNoMap.fatal = false ∧ sNoMap.boot.memReady = true ∧
      ((places sNoMap (sNoMap.fld Off.bar2Base 9 0 * 2 ^ 30 + 4096) bytes8.length).any fun p => !reaches Requester.bar2 p) = true) ∧
    -- clause 5.0
    (powerState sHeld < 2 ∧ hostSilent sHeld = false ∧ sHeld.fatal = false ∧ sHeld.boot.memReady = false) :=
  by
    (repeat' apply And.intro) <;> decide +kernel

/-- States and operands that meet the hypotheses of the clauses of `Obligations.ContextCommands`, clause by clause. -/
theorem witness_ContextCommands :
    -- clause 0
    ((sCtx 0).writable (Off.ctxReg (5) 0) = true ∧ (sCtx 0).ctxState 5 = 0 ∧ setOf (sCtx 0) 5 ≠ [] ∧ (sCtx 0).fld64 (Off.ctxReg (5) 8) 47 12 ≠ 0) ∧
    -- clause 1
    ((sCtx 1).writable (Off.ctxReg (5) 0) = true ∧ ((sCtx 1).ctxState 5 ≠ 0 ∨ setOf (sCtx 1) 5 = [] ∨ (sCtx 1).fld64 (Off.ctxReg (5) 8) 47 12 = 0)) ∧
    -- clause 10
    ((sCtx 0).writable (Off.ctxReg (5) 0) = true ∧ (sCtx 0).ctxState 5 ≠ 1 ∧ (sCtx 0).ctxState 5 ≠ 7) ∧
    -- clause 11
    ((sCtx 0).writable (Off.ctxReg (5) 0) = true ∧ ((sCtx 0).ctxState 5 = 0 ∨ (sCtx 0).ctxState 5 = 1 ∨ (sCtx 0).ctxState 5 = 4)) ∧
    -- clause 12
    ((sCtx 2).writable (Off.ctxReg (5) 0) = true ∧ (sCtx 2).ctxState 5 ≠ 0 ∧ (sCtx 2).ctxState 5 ≠ 1 ∧ (sCtx 2).ctxState 5 ≠ 4) ∧
    -- clause 2
    ((sCtx 2).writable (Off.ctxReg (5) 0) = true ∧ (sCtx 2).ctxState 5 = 2) ∧
    -- clause 3
    ((sCtx 0).writable (Off.ctxReg (5) 0) = true ∧ (sCtx 0).ctxState 5 ≠ 2) ∧
    -- clause 4.0
    (sSaved.writable (Off.ctxReg (5) 0) = true ∧ sSaved.ctxState 5 = 4 ∧ (setOf sSaved 5).length = (sSaved.ctx 5).savedNset ∧
      memDown sSaved = false ∧ (∀ (n : Nat), n ∈ setOf sSaved 5 → serves sSaved n = true ∧ freeEngine (sSaved.eng n) = true)) ∧
    -- clause 5
    (sSavedBusy.writable (Off.ctxReg (5) 0) = true ∧ sSavedBusy.ctxState 5 = 4 ∧ (setOf sSavedBusy 5).length = (sSavedBusy.ctx 5).savedNset ∧
      (memDown sSavedBusy = true ∨ ∃ n, n ∈ setOf sSavedBusy 5 ∧ (serves sSavedBusy n = false ∨ freeEngine (sSavedBusy.eng n) = false))) ∧
    -- clause 6
    ((sCtx 0).writable (Off.ctxReg (5) 0) = true ∧ ((sCtx 0).ctxState 5 ≠ 4 ∨ (setOf (sCtx 0) 5).length ≠ ((sCtx 0).ctx 5).savedNset)) ∧
    -- clause 7.0
    ((sCtx 1).writable (Off.ctxReg (5) 0) = true ∧ State.tearable ((sCtx 1).ctxState 5) = true) ∧
    -- clause 8
    ((sCtx 0).writable (Off.ctxReg (5) 0) = true ∧ State.tearable ((sCtx 0).ctxState 5) = false) ∧
    -- clause 9.0
    ((sCtx 1).writable (Off.ctxReg (5) 0) = true ∧ ((sCtx 1).ctxState 5 = 1 ∨ (sCtx 1).ctxState 5 = 7)) :=
  by
    (repeat' apply And.intro) <;> decide +kernel

/-- States and operands that meet the hypotheses of the clauses of `Obligations.DispatchResults`, clause by clause. -/
theorem witness_DispatchResults :
    -- clause 0.0
    ((sFatal.fatal = true ∨ sFatal.ready = false)) ∧
    -- clause 0.1
    (sWorkOff.fatal = false ∧ sWorkOff.ready = true ∧ sWorkOff.fld Off.workCtl 31 31 = 0) ∧
    -- clause 0.2
    ((∀ (c : Nat), c < 64 → (sFatal.ctx c).resuming = false)) ∧
    -- clause 1.0
    (memDown (sWork 0) = false ∧ (sWork 0).fld Off.workCtl 31 31 = 1 ∧ (sWork 0).fatal = false ∧ (sWork 0).ready = true ∧
      (∀ (c : Nat), c < 64 → ((sWork 0).ctx c).resuming = false) ∧ workPending (sWork 0) = [0] ∧
      (memRead (sWork 0) Requester.sched (workAddr (sWork 0) 0) 64).snd.fst = MemEnd.ok ∧
      words8 (memRead (sWork 0) Requester.sched (workAddr (sWork 0) 0) 64).snd.snd = workWords ∧
      ((sWork 0).ctx (bits (workWords.getD 0 0) 63 58)).item = none ∧ workRefused (sWork 0) (bits (workWords.getD 0 0) 63 58) workWords = true) ∧
    -- clause 1.1.1.0
    (memDown (sWork 1) = false ∧ (sWork 1).fld Off.workCtl 31 31 = 1 ∧ (sWork 1).fatal = false ∧ (sWork 1).ready = true ∧
      (∀ (c : Nat), c < 64 → ((sWork 1).ctx c).resuming = false) ∧ workPending (sWork 1) = [0] ∧
      (memRead (sWork 1) Requester.sched (workAddr (sWork 1) 0) 64).snd.fst = MemEnd.ok ∧
      words8 (memRead (sWork 1) Requester.sched (workAddr (sWork 1) 0) 64).snd.snd = workWords ∧
      ((sWork 1).ctx (bits (workWords.getD 0 0) 63 58)).item = none ∧ workRefused (sWork 1) (bits (workWords.getD 0 0) 63 58) workWords = false ∧
      (sWork 1).ctxState (bits (workWords.getD 0 0) 63 58) = 1 ∧
      (∀ (n : Nat), n ∈ setOf (sWork 1) (bits (workWords.getD 0 0) 63 58) → freeEngine ((sWork 1).eng n) = true) ∧
      (memRead (((((((bindSet (sWork 1) (bits (workWords.getD 0 0) 63 58) (setOf (sWork 1) (bits (workWords.getD 0 0) 63 58))).setCtxState (bits (workWords.getD 0 0) 63 58) 2).modCtx (bits (workWords.getD 0 0) 63 58) fun y => { y with item := some { index := 0, words := workWords, startUs := (sWork 1).us, lateBase := (sWork 1).sched.late }, preempt := false }).setReg (Off.ctxReg (bits (workWords.getD 0 0) 63 58) 32) 0).setReg (Off.ctxReg (bits (workWords.getD 0 0) 63 58) 36) 0).setReg (Off.ctxReg (bits (workWords.getD 0 0) 63 58) 40) 0).setReg (Off.ctxReg (bits (workWords.getD 0 0) 63 58) 44) 0) Requester.sched (bits (workWords.getD 1 0) 47 0) (bits (workWords.getD 2 0) 45 23)).snd.fst = MemEnd.ok) :=
  by
    (repeat' apply And.intro) <;> decide +kernel

/-- States and operands that meet the hypotheses of the clauses of `Obligations.WorkItemResults`, clause by clause. -/
theorem witness_WorkItemResults :
    -- clause 0.0
    (allDone (sSet 2 IssueState.done IssueState.going) 5 = false) ∧
    -- clause 0.1.0
    ((sSet 2 IssueState.done IssueState.done).fatal = false ∧
      ((sSet 2 IssueState.done IssueState.done).ctxState 5 = 2 ∨ (sSet 2 IssueState.done IssueState.done).ctxState 5 = 3) ∧
      allDone (sSet 2 IssueState.done IssueState.done) 5 = true ∧ ((sSet 2 IssueState.done IssueState.done).ctx 5).item = some item0 ∧
      (∀ (m : Nat × Nat × Nat), m ∈ (sSet 2 IssueState.done IssueState.done).sched.marks → m.fst ≠ 5)) ∧
    -- clause 1.0
    ((sMarkOf 0).sched.marks = [(5, 0, 77)] ∧ ((sMarkOf 0).ctx 5).item = some item0 ∧ bits (item0.words.getD 3 0) 63 32 = 0) ∧
    -- clause 1.2
    ((sMarkOf 1).sched.marks = [(5, 1, 77)] ∧ ((sMarkOf 1).ctx 5).item = some item0) ∧
    -- clause 1.3
    ((sMarkOf 2).sched.marks = [(5, 2, 77)] ∧ ((sMarkOf 2).ctx 5).item = some item0 ∧ 2 ≤ 2) :=
  by decide +kernel

/-- States and operands that meet the hypotheses of the clauses of `Obligations.PreemptionResults`, clause by clause. -/
theorem witness_PreemptionResults :
    -- clause 0.0
    ((memDown sSetFatal = true ∨ sSetFatal.fatal = true)) ∧
    -- clause 1
    (sSetFatal.fatal = true) ∧
    -- clause 2.0.0
    (memDown (sSet 3 stopped0 stopped0) = false ∧ (sSet 3 stopped0 stopped0).fatal = false ∧ (sSet 3 stopped0 stopped0).ctxState 5 = 3 ∧
      allStopped (sSet 3 stopped0 stopped0) 5 = true ∧ allDone (sSet 3 stopped0 stopped0) 5 = false ∧ saveFits (sSet 3 stopped0 stopped0) 5 = true ∧
      (saveRanks (5) (savedRanks (sSet 3 stopped0 stopped0) 5) (sSet 3 stopped0 stopped0)).snd = SaveEnd.ok) ∧
    -- clause 2.1.0
    (memDown sSetUnmapped = false ∧ sSetUnmapped.fatal = false ∧ sSetUnmapped.ctxState 5 = 3 ∧ allStopped sSetUnmapped 5 = true ∧
      allDone sSetUnmapped 5 = false ∧ saveFits sSetUnmapped 5 = true ∧
      saveRanks (5) (savedRanks sSetUnmapped 5) sSetUnmapped = (sSetUnmapped, SaveEnd.error)) ∧
    -- clause 2.1.1
    (memDown sSetTrap = false ∧ sSetTrap.fatal = false ∧ sSetTrap.ctxState 5 = 3 ∧ allStopped sSetTrap 5 = true ∧ allDone sSetTrap 5 = false ∧
      saveFits sSetTrap 5 = true ∧ (saveRanks (5) (savedRanks sSetTrap 5) sSetTrap).snd = SaveEnd.trap 3) ∧
    -- clause 2.2
    (memDown sNoRoom = false ∧ sNoRoom.fatal = false ∧ sNoRoom.ctxState 5 = 3 ∧ allStopped sNoRoom 5 = true ∧ allDone sNoRoom 5 = false ∧
      saveFits sNoRoom 5 = false) ∧
    -- clause 2.3
    (memDown sRestore = false ∧ sRestore.fatal = false ∧ sRestore.ctxState 5 ≠ 3) ∧
    -- clause 2.4.0
    (memDown sRestore = false ∧ sRestore.fatal = false ∧ sRestore.ctxState 5 = 5 ∧
      (restoreRanks (5) (sRestore.ctx 5).members.zipIdx sRestore).snd = true) ∧
    -- clause 2.5
    (memDown sRestoreBad = false ∧ sRestoreBad.fatal = false ∧ sRestoreBad.ctxState 5 = 5 ∧
      restoreRanks (5) (sRestoreBad.ctx 5).members.zipIdx sRestoreBad = (sRestoreBad, false)) ∧
    -- clause 3.0
    ((sSet 3 stopped0 stopped0).fatal = false ∧ (sSet 3 stopped0 stopped0).ctxState 5 = 3 ∧
      (sSet 3 stopped0 stopped0).us < ((sSet 3 stopped0 stopped0).ctx 5).reqUs + max 1 ((sSet 3 stopped0 stopped0).fld (Off.ctxReg (5) 0) 19 0)) ∧
    -- clause 3.1.0
    ((sSlow 95).fatal = false ∧ (sSlow 95).ctxState 5 = 3 ∧
      ((sSlow 95).ctx 5).reqUs + max 1 ((sSlow 95).fld (Off.ctxReg (5) 0) 19 0) ≤ (sSlow 95).us ∧ allStopped (sSlow 95) 5 = false ∧
      (sSlow 95).fld (Off.ctxReg (5) 0) 27 27 = 0) ∧
    -- clause 3.2.0
    (sSlowKill.fatal = false ∧ sSlowKill.ctxState 5 = 3 ∧ (sSlowKill.ctx 5).reqUs + max 1 (sSlowKill.fld (Off.ctxReg (5) 0) 19 0) ≤ sSlowKill.us ∧
      allStopped sSlowKill 5 = false ∧ sSlowKill.fld (Off.ctxReg (5) 0) 27 27 = 1) :=
  by
    (repeat' apply And.intro) <;> decide +kernel

/-- States and operands that meet the hypotheses of the clauses of `Obligations.TeardownAndContainment`, clause by clause. -/
theorem witness_TeardownAndContainment :
    -- clause 0
    ((sFatal.ctxState 5 ≠ 6 ∨ sFatal.fatal = true)) ∧
    -- clause 1.0
    (sTear.ctxState 5 = 6 ∧ sTear.fatal = false ∧ sTear.coll.steps = [] ∧ sTear.fabric.reqs = [] ∧
      (∀ (n : Nat), n ∈ (sTear.ctx 5).members → (sTear.eng n).skidderIdle = true ∧ (sTear.eng n).rebind = false)) ∧
    -- clause 2
    (sTearBusy.ctxState 5 = 6 ∧ transfersEnded sTearBusy 5 = false ∧ remotePending sTearBusy 5 = false ∧
      (sTearBusy.ctx 5).tearUs + 10000 ≤ sTearBusy.us) ∧
    -- clause 3
    (sTear.us < (sTear.ctx 5).tearUs + 10000) ∧
    -- clause 4.3
    (sTear.fatal = false ∧ 0 < 96) ∧
    -- clause 5
    (sFatal.fatal = true) :=
  by decide +kernel

/-- States and operands that meet the hypotheses of the clauses of `Obligations.ErrorRecordRing`, clause by clause. -/
theorem witness_ErrorRecordRing :
    -- clause 0.0
    ((sErr 5).writable Off.errHead = true ∧ ((sErr 5).fld Off.errTail 7 0 + 256 - 0 % 256) % 256 ≤ 64) ∧
    -- clause 0.1
    ((sErr 64).writable Off.errHead = true ∧ 64 < ((sErr 64).fld Off.errTail 7 0 + 256 - 255 % 256) % 256) ∧
    -- clause 1.4.0
    (((sErr 5).fld Off.errTail 7 0 + 256 - (sErr 5).fld Off.errHead 7 0) % 256 < 64) ∧
    -- clause 1.5.0
    (64 ≤ ((sErr 64).fld Off.errTail 7 0 + 256 - (sErr 64).fld Off.errHead 7 0) % 256) :=
  by decide +kernel

/-- States and operands that meet the hypotheses of the clauses of `Obligations.FerryResults`, clause by clause. -/
theorem witness_FerryResults :
    -- clause 0.0
    ((memDown (sFerry 0 3 2424832 entryIn) = false ∧ ferryReady (sFerry 0 3 2424832 entryIn) = true ∧
      (memRead (sFerry 0 3 2424832 entryIn) Requester.ferry (ferryAddr (sFerry 0 3 2424832 entryIn)) 32).snd.fst = MemEnd.ok ∧
      ferryDesc (memRead (sFerry 0 3 2424832 entryIn) Requester.ferry (ferryAddr (sFerry 0 3 2424832 entryIn)) 32).snd.snd = fdOf 0 3 2424832 ∧
      (fdOf 0 3 2424832).op ≠ 1 ∧ (fdOf 0 3 2424832).op ≠ 2) ∧
    -- clause 0.1
    (memDown (sFerry 1 3 2424836 entryIn) = false ∧ ferryReady (sFerry 1 3 2424836 entryIn) = true ∧
      (memRead (sFerry 1 3 2424836 entryIn) Requester.ferry (ferryAddr (sFerry 1 3 2424836 entryIn)) 32).snd.fst = MemEnd.ok ∧
      ferryDesc (memRead (sFerry 1 3 2424836 entryIn) Requester.ferry (ferryAddr (sFerry 1 3 2424836 entryIn)) 32).snd.snd = fdOf 1 3 2424836 ∧
      (fdOf 1 3 2424836).op = 1 ∧ (fdOf 1 3 2424836).eaddr % 8 ≠ 0) ∧
    -- clause 0.2.0
    (memDown (sFerry 1 3 2424832 entryOut) = false ∧ ferryReady (sFerry 1 3 2424832 entryOut) = true ∧
      (memRead (sFerry 1 3 2424832 entryOut) Requester.ferry (ferryAddr (sFerry 1 3 2424832 entryOut)) 32).snd.fst = MemEnd.ok ∧
      ferryDesc (memRead (sFerry 1 3 2424832 entryOut) Requester.ferry (ferryAddr (sFerry 1 3 2424832 entryOut)) 32).snd.snd = fdOf 1 3 2424832 ∧
      (fdOf 1 3 2424832).op = 1 ∧ (fdOf 1 3 2424832).eaddr % 8 = 0 ∧
      (memReadNat (sFerry 1 3 2424832 entryOut) Requester.ferry (fdOf 1 3 2424832).eaddr 8).snd.snd = entryOut ∧
      memReadNat (sFerry 1 3 2424832 entryOut) Requester.ferry (fdOf 1 3 2424832).eaddr 8 = (sFerry 1 3 2424832 entryOut, MemEnd.ok, entryOut) ∧
      ((pte entryOut).v = false ∨ (pte entryOut).loc = true ∨ ((pte entryOut).frame ≠ (fdOf 1 3 2424832).unit) ∨ (pte entryOut).gen ≠ (fdOf 1 3 2424832).gen)) ∧
    -- clause 1
    (memDown sFerryCommit = false ∧ readyEdit sFerryCommit true = some edFerry ∧
      (memRead sFerryCommit Requester.ferry (ferryAddr sFerryCommit) 32).snd.fst = MemEnd.ok ∧
      (writeEdit (dropEdit sFerryCommit edFerry) Requester.ferry edFerry).snd.fst = true) ∧
    -- clause 2.3
    ((memWrite (sFerry 1 3 2424832 entryIn) Requester.ferry (ferryAddr (sFerry 1 3 2424832 entryIn) + 24) (leBytes 8 (putBits (fdOf 1 3 2424832).w3 63 56 2))).snd = MemEnd.ok) ∧
    -- clause 2.5
    ((memWrite sFerryHole Requester.ferry (ferryAddr sFerryHole + 24) (leBytes 8 (putBits (fdOf 1 3 2424832).w3 63 56 2))).snd ≠ MemEnd.ok)) ∧
    -- clause 0.2.1.0
    ((memDown sFerryFar = false ∧ ferryReady sFerryFar = true ∧ (memRead sFerryFar Requester.ferry (ferryAddr sFerryFar) 32).2.1 = MemEnd.ok ∧
      ferryDesc (memRead sFerryFar Requester.ferry (ferryAddr sFerryFar) 32).2.2 = fdOf 1 3 0x250000 ∧ (fdOf 1 3 0x250000).op = 1 ∧
      (fdOf 1 3 0x250000).eaddr % 8 = 0 ∧ memReadNat sFerryFar Requester.ferry 0x250000 8 = (sFerryFar, MemEnd.ok, entryIn) ∧
      (¬((pte entryIn).v = false ∨ (pte entryIn).loc = true ∨ (pte entryIn).frame ≠ (fdOf 1 3 0x250000).unit ∨ (pte entryIn).gen ≠ (fdOf 1 3 0x250000).gen)) ∧
      (pte entryIn).fmt ≤ 1 ∧ (pte entryIn).size ≤ 6 ∧ 2 ^ (pte entryIn).size * frameUnits (pte entryIn).fmt = 1) ∧
      (ferryPage true 1 2 1 sFerryFar).2 = MemEnd.ok ∧ mustDefer (ferryPage true 1 2 1 sFerryFar).1 0x250000 = false ∧
      (writeEdit (ferryPage true 1 2 1 sFerryFar).1 Requester.ferry edFar).2 = (true, MemEnd.ok)) ∧
    -- clause 0.2.1.1
    ((memDown sFerryPinned = false ∧ ferryReady sFerryPinned = true ∧
      (memRead sFerryPinned Requester.ferry (ferryAddr sFerryPinned) 32).2.1 = MemEnd.ok ∧
      ferryDesc (memRead sFerryPinned Requester.ferry (ferryAddr sFerryPinned) 32).2.2 = fdOf 1 3 0x250000 ∧
      memReadNat sFerryPinned Requester.ferry 0x250000 8 = (sFerryPinned, MemEnd.ok, entryIn)) ∧
      (ferryPage true 1 2 1 sFerryPinned).2 = MemEnd.ok ∧ mustDefer (ferryPage true 1 2 1 sFerryPinned).1 0x250000 = true ∧
      (ferryPage true 1 2 1 sFerryPinned).1.kv.edits.length < 64) :=
  ⟨by
    (repeat' apply And.intro) <;> decide +kernel,
   ⟨by decide +kernel, sFerryFar_copy.1, sFerryFar_defer, sFerryFar_edit⟩,
   ⟨by decide +kernel, sFerryPinned_copy.1, sFerryPinned_defer.1, sFerryPinned_defer.2⟩⟩

/-- States and operands that meet the hypotheses of the clauses of `Obligations.FlashCommandsStart`, clause by clause. -/
theorem witness_FlashCommandsStart :
    -- clause 0.0
    (memDown (sFls (flsWords 1 0 0 0 17 64 0 0)) = false ∧ flashReady (sFls (flsWords 1 0 0 0 17 64 0 0)) = true ∧
      flsNext (sFls (flsWords 1 0 0 0 17 64 0 0)) = some 0 ∧
      (memRead (sFls (flsWords 1 0 0 0 17 64 0 0)) Requester.flash (flsAddr (sFls (flsWords 1 0 0 0 17 64 0 0)) 0) 64).snd.fst = MemEnd.ok ∧
      (sFls (flsWords 1 0 0 0 17 64 0 0)).powerFail = false ∧
      words8 (memRead (sFls (flsWords 1 0 0 0 17 64 0 0)) Requester.flash (flsAddr (sFls (flsWords 1 0 0 0 17 64 0 0)) 0) 64).snd.snd = flsWords 1 0 0 0 17 64 0 0 ∧
      1 ≤ (cmdOf (flsWords 1 0 0 0 17 64 0 0)).op ∧ (cmdOf (flsWords 1 0 0 0 17 64 0 0)).op ≤ 5 ∧
      (cmdOf (flsWords 1 0 0 0 17 64 0 0)).gated = false ∧ flashRange (sFls (flsWords 1 0 0 0 17 64 0 0)) (cmdOf (flsWords 1 0 0 0 17 64 0 0)) = true) ∧
    -- clause 0.1
    (memDown (sFls (flsWords 1 0 2 0 1 64 0 0)) = false ∧ flashReady (sFls (flsWords 1 0 2 0 1 64 0 0)) = true ∧
      flsNext (sFls (flsWords 1 0 2 0 1 64 0 0)) = some 0 ∧
      (memRead (sFls (flsWords 1 0 2 0 1 64 0 0)) Requester.flash (flsAddr (sFls (flsWords 1 0 2 0 1 64 0 0)) 0) 64).snd.fst = MemEnd.ok ∧
      (sFls (flsWords 1 0 2 0 1 64 0 0)).powerFail = false ∧
      words8 (memRead (sFls (flsWords 1 0 2 0 1 64 0 0)) Requester.flash (flsAddr (sFls (flsWords 1 0 2 0 1 64 0 0)) 0) 64).snd.snd = flsWords 1 0 2 0 1 64 0 0 ∧
      1 ≤ (cmdOf (flsWords 1 0 2 0 1 64 0 0)).op ∧ (cmdOf (flsWords 1 0 2 0 1 64 0 0)).op ≤ 5 ∧ (cmdOf (flsWords 1 0 2 0 1 64 0 0)).gated = false ∧
      flashRange (sFls (flsWords 1 0 2 0 1 64 0 0)) (cmdOf (flsWords 1 0 2 0 1 64 0 0)) = false ∧
      flashKey (sFls (flsWords 1 0 2 0 1 64 0 0)) (cmdOf (flsWords 1 0 2 0 1 64 0 0)) = true) ∧
    -- clause 0.2
    (memDown sFlsRo = false ∧ flashReady sFlsRo = true ∧ flsNext sFlsRo = some 0 ∧
      (memRead sFlsRo Requester.flash (flsAddr sFlsRo 0) 64).snd.fst = MemEnd.ok ∧ sFlsRo.powerFail = false ∧
      words8 (memRead sFlsRo Requester.flash (flsAddr sFlsRo 0) 64).snd.snd = wsRo ∧ (cmdOf (wsRo)) = cmdOf wsRo ∧ 1 ≤ (cmdOf wsRo).op ∧
      (cmdOf wsRo).op ≤ 5 ∧ (cmdOf wsRo).gated = false ∧ flashRange sFlsRo (cmdOf wsRo) = false ∧ flashKey sFlsRo (cmdOf wsRo) = false ∧
      ((cmdOf wsRo).op = 2 ∨ (cmdOf wsRo).op = 3) ∧ sFlsRo.fld flsStatus 31 31 = 1) ∧
    -- clause 0.3.0
    (memDown (sFls (flsWords 1 0 0 0 1 64 0 0)) = false ∧ flashReady (sFls (flsWords 1 0 0 0 1 64 0 0)) = true ∧
      flsNext (sFls (flsWords 1 0 0 0 1 64 0 0)) = some 0 ∧
      (memRead (sFls (flsWords 1 0 0 0 1 64 0 0)) Requester.flash (flsAddr (sFls (flsWords 1 0 0 0 1 64 0 0)) 0) 64).snd.fst = MemEnd.ok ∧
      (sFls (flsWords 1 0 0 0 1 64 0 0)).powerFail = false ∧
      words8 (memRead (sFls (flsWords 1 0 0 0 1 64 0 0)) Requester.flash (flsAddr (sFls (flsWords 1 0 0 0 1 64 0 0)) 0) 64).snd.snd = flsWords 1 0 0 0 1 64 0 0 ∧
      1 ≤ (cmdOf (flsWords 1 0 0 0 1 64 0 0)).op ∧ (cmdOf (flsWords 1 0 0 0 1 64 0 0)).op ≤ 5 ∧ (cmdOf (flsWords 1 0 0 0 1 64 0 0)).gated = false ∧
      flashRange (sFls (flsWords 1 0 0 0 1 64 0 0)) (cmdOf (flsWords 1 0 0 0 1 64 0 0)) = false ∧
      flashKey (sFls (flsWords 1 0 0 0 1 64 0 0)) (cmdOf (flsWords 1 0 0 0 1 64 0 0)) = false ∧
      ((cmdOf (flsWords 1 0 0 0 1 64 0 0)).op = 2 ∨ (cmdOf (flsWords 1 0 0 0 1 64 0 0)).op = 3 → (sFls (flsWords 1 0 0 0 1 64 0 0)).fld flsStatus 31 31 = 0)) ∧
    -- clause 1.1.0
    (memDown (sGate 6) = false ∧ flashReady (sGate 6) = true ∧ flsNext (sGate 6) = some 0 ∧
      (memRead (sGate 6) Requester.flash (flsAddr (sGate 6) 0) 64).snd.fst = MemEnd.ok ∧ (sGate 6).powerFail = false ∧
      words8 (memRead (sGate 6) Requester.flash (flsAddr (sGate 6) 0) 64).snd.snd = wsGate 6 ∧ 1 ≤ (cmdOf (wsGate 6)).op ∧
      (cmdOf (wsGate 6)).op ≤ 5 ∧ (cmdOf (wsGate 6)).gated = true ∧ deviceRegion ((cmdOf (wsGate 6)).f 7 47 0) = true ∧
      (cmdOf (wsGate 6)).f 7 47 0 % 8 = 0 ∧ (memReadNat (sGate 6) Requester.flash ((cmdOf (wsGate 6)).f 7 47 0) 8).snd.snd = 5 ∧
      memReadNat (sGate 6) Requester.flash ((cmdOf (wsGate 6)).f 7 47 0) 8 = (sGate 6, MemEnd.ok, 5) ∧ 5 < (cmdOf (wsGate 6)).f 5 31 0) ∧
    -- clause 1.1.1
    (memDown (sGate 5) = false ∧ flashReady (sGate 5) = true ∧ flsNext (sGate 5) = some 0 ∧
      (memRead (sGate 5) Requester.flash (flsAddr (sGate 5) 0) 64).snd.fst = MemEnd.ok ∧ (sGate 5).powerFail = false ∧
      words8 (memRead (sGate 5) Requester.flash (flsAddr (sGate 5) 0) 64).snd.snd = wsGate 5 ∧ 1 ≤ (cmdOf (wsGate 5)).op ∧
      (cmdOf (wsGate 5)).op ≤ 5 ∧ (cmdOf (wsGate 5)).gated = true ∧ deviceRegion ((cmdOf (wsGate 5)).f 7 47 0) = true ∧
      (cmdOf (wsGate 5)).f 7 47 0 % 8 = 0 ∧ (memReadNat (sGate 5) Requester.flash ((cmdOf (wsGate 5)).f 7 47 0) 8).snd.snd = 5 ∧
      memReadNat (sGate 5) Requester.flash ((cmdOf (wsGate 5)).f 7 47 0) 8 = (sGate 5, MemEnd.ok, 5) ∧ (cmdOf (wsGate 5)).f 5 31 0 ≤ 5) ∧
    -- clause 2
    (memDown sGateBad = false ∧ flashReady sGateBad = true ∧ flsNext sGateBad = some 0 ∧
      (memRead sGateBad Requester.flash (flsAddr sGateBad 0) 64).snd.fst = MemEnd.ok ∧ sGateBad.powerFail = false ∧ 1 ≤ (cmdOf wsGateBad).op ∧
      (cmdOf wsGateBad).op ≤ 5 ∧ (cmdOf wsGateBad).gated = true ∧
      (deviceRegion ((cmdOf wsGateBad).f 7 47 0) = false ∨ (cmdOf wsGateBad).f 7 47 0 % 8 ≠ 0)) ∧
    -- clause 3
    (memDown (sFls (flsWords 0 0 0 0 1 64 0 0)) = false ∧ flashReady (sFls (flsWords 0 0 0 0 1 64 0 0)) = true ∧
      flsNext (sFls (flsWords 0 0 0 0 1 64 0 0)) = some 0 ∧
      (memRead (sFls (flsWords 0 0 0 0 1 64 0 0)) Requester.flash (flsAddr (sFls (flsWords 0 0 0 0 1 64 0 0)) 0) 64).snd.fst = MemEnd.ok ∧
      (sFls (flsWords 0 0 0 0 1 64 0 0)).powerFail = false ∧
      words8 (memRead (sFls (flsWords 0 0 0 0 1 64 0 0)) Requester.flash (flsAddr (sFls (flsWords 0 0 0 0 1 64 0 0)) 0) 64).snd.snd = flsWords 0 0 0 0 1 64 0 0 ∧
      ((cmdOf (flsWords 0 0 0 0 1 64 0 0)).op = 0 ∨ 5 < (cmdOf (flsWords 0 0 0 0 1 64 0 0)).op)) :=
  by
    (repeat' apply And.intro) <;> decide +kernel

/-- States and operands that meet the hypotheses of the clauses of `Obligations.FlashOperations`, clause by clause. -/
theorem witness_FlashOperations :
    -- clause 0.0.0
    (memDown sFlsBehind = false ∧ sFlsBehind.flash.cmds[1]? = some cTrim ∧ flashBehind sFlsBehind cTrim = true) ∧
    -- clause 0.0.1.0
    (memDown sFlsTrim = false ∧ sFlsTrim.flash.cmds[0]? = some cTrim ∧ flashBehind sFlsTrim cTrim = false ∧ cTrim.op ≠ 5 ∧
      flashUnits cTrim cTrim.units 0 sFlsTrim = (sFlsTrim, FlashMove.done)) ∧
    -- clause 0.0.1.1
    (memDown sFlsMedia = false ∧ sFlsMedia.flash.cmds[0]? = some (cmdOf wsMedia) ∧ flashBehind sFlsMedia (cmdOf wsMedia) = false ∧
      (cmdOf wsMedia).op ≠ 5 ∧ (flashUnits (cmdOf wsMedia) (cmdOf wsMedia).units 0 sFlsMedia).snd = FlashMove.ends 3 true) ∧
    -- clause 0.0.1.2
    (memDown sFlsWait = false ∧ sFlsWait.flash.cmds[0]? = some (cmdOf wsWait) ∧ flashBehind sFlsWait (cmdOf wsWait) = false ∧ (cmdOf wsWait).op ≠ 5 ∧
      flashUnits (cmdOf wsWait) (cmdOf wsWait).units 0 sFlsWait = (sFlsWait, FlashMove.wait)) ∧
    -- clause 0.0.2.0
    (memDown (sFetch 3) = false ∧ (sFetch 3).flash.cmds[0]? = some (cmdOf wsFetch) ∧ flashBehind (sFetch 3) (cmdOf wsFetch) = false ∧
      (cmdOf wsFetch).op = 5 ∧ (∀ (q : RemoteReq), q ∈ nfReqs (sFetch 3) (cmdOf wsFetch) → q.status = 3)) ∧
    -- clause 0.0.2.1
    (memDown (sFetch 0) = false ∧ (sFetch 0).flash.cmds[0]? = some (cmdOf wsFetch) ∧ flashBehind (sFetch 0) (cmdOf wsFetch) = false ∧
      (cmdOf wsFetch).op = 5 ∧ List.find? (fun r => r.status != 3) (nfReqs (sFetch 0) (cmdOf wsFetch)) = some (nfReq 0) ∧ (nfReq 0).status ≠ 2) ∧
    -- clause 0.1.0
    ((1 ≠ 1 ∨ cTrim.f 0 37 37 = 0 ∨ cTrim.quiet = true)) ∧
    -- clause 1.3.0
    (0 < 4096 ∧ 3 ≠ 2) ∧
    -- clause 1.4
    (0 < 4096 ∧ SMap.get noMark sFlsTrim.flash.media 2 ≠ 2) ∧
    -- clause 1.5
    (0 < 4096 ∧ SMap.get noMark sFlsMedia.flash.media 2 = 2) ∧
    -- clause 2.0.0
    (sWornFail.powerFail = true) ∧
    -- clause 2.1.0
    (sFlsTrim.powerFail = false ∧ SMap.get zeroNat sFlsTrim.flash.reads (8 + 1) < max 1 (sFlsTrim.fld flsRdthr 23 0)) ∧
    -- clause 2.1.1.0
    ((sWorn (2 ^ 24 - 1)).powerFail = false ∧
      max 1 ((sWorn (2 ^ 24 - 1)).fld flsRdthr 23 0) ≤ SMap.get zeroNat (sWorn (2 ^ 24 - 1)).flash.reads (8 + 1)) ∧
    -- clause 2.1.2.4.1
    (sFlsTrim.powerFail = false ∧ (¬8 + 1 ∈ sFlsTrim.flash.retired)) :=
  by
    (repeat' apply And.intro) <;> decide +kernel

/-- States and operands that meet the hypotheses of the clauses of `Obligations.KeysAndModel`, clause by clause. -/
theorem witness_KeysAndModel :
    -- clause 0.3.0
    ((sModel 0).writable secKcmd = true ∧ 2 ≤ 2) ∧
    -- clause 0.4.0
    ((sModel 0).writable secKcmd = true ∧ 0 < 2) ∧
    -- clause 1.0
    ((sModel 0).writable secKcmd = true ∧ memDown (sModel 0) = false ∧
      (memRead ((sModel 0).setReg64 secKcmd (putBits (putBits (2 ^ 61 + 5 * 2 ^ 54 + 0 * 2 ^ 49 + 4096) 60 60 ((sModel 0).fld64 secKcmd 60 60)) 63 61 0)) Requester.sched (4096) 256).snd.fst = MemEnd.ok ∧
      openBlob 2 (memRead ((sModel 0).setReg64 secKcmd (putBits (putBits (2 ^ 61 + 5 * 2 ^ 54 + 0 * 2 ^ 49 + 4096) 60 60 ((sModel 0).fld64 secKcmd 60 60)) 63 61 0)) Requester.sched (4096) 256).snd.snd = none) ∧
    -- clause 2.0.0
    (sModelBusy.writable secModel = true ∧ (∃ c, c < 64 ∧ ctxActive sModelBusy c = true)) ∧
    -- clause 2.1.5.0
    ((sModel 0).writable secModel = true ∧ (∀ (c : Nat), c < 64 → ctxActive (sModel 0) c = false) ∧ (sModel 0).flash.cmds = [] ∧
      (sModel 0).side.opening = none ∧ (sModel 0).side.armed = none ∧ 0 < 32) ∧
    -- clause 2.2.0
    ((sModel 2).writable secModel = true ∧ memDown (sModel 2) = false ∧ (sModel 2).fld secModel 1 0 ≠ 0) ∧
    -- clause 2.3.0
    ((sModel 0).writable secModel = true ∧ memDown (sModel 0) = false ∧ (sModel 0).fld secModel 1 0 = 0 ∧
      (memRead (sModel 0) Requester.sched ((sModel 0).fld64 secBlob 47 6 * 64) 256).snd.fst = MemEnd.ok) ∧
    -- clause 2.4
    ((sModel 0).fld secModel 1 0 ≠ 1) ∧
    -- clause 2.5.0
    (sUnloading.fld secModel 1 0 = 1 ∧ sUnloading.flash.unloading = true) ∧
    -- clause 2.6.0
    (sLoadBad.fld secModel 1 0 = 1 ∧ sLoadBad.flash.unloading = false ∧ sLoadBad.flash.loading = some none) ∧
    -- clause 2.7.0
    (sLoadGood.fld secModel 1 0 = 1 ∧ sLoadGood.flash.unloading = false ∧
      sLoadGood.flash.loading = some (some (85, List.replicate 48 3, List.replicate 32 4))) :=
  by
    (repeat' apply And.intro) <;> decide +kernel

/-- States and operands that meet the hypotheses of the clauses of `Obligations.CodecResults`, clause by clause. -/
theorem witness_CodecResults :
    -- clause 0.0
    (memDown sCodRing = false ∧ sCodRing.ready = true ∧ sCodRing.fatal = false ∧ sCodRing.fld codCtl 31 31 = 1 ∧ sCodRing.codec.jobs.length < 64 ∧
      List.find? (fun i => !sCodRing.codec.done.contains i && !sCodRing.codec.jobs.any fun j => j.index == i) (ringPending (sCodRing.fld codHead 15 0) (sCodRing.fld codTail 15 0) (codSize sCodRing)) = some 0 ∧
      (memRead sCodRing Requester.codec (codAddr sCodRing 0) 64).snd.fst = MemEnd.ok) ∧
    -- clause 0.1.0
    (memDown (sJobsOpen [jobOf 0 1, jobOf 1 2] (rec0 0)) = false ∧
      (headJob (sJobsOpen [jobOf 0 1, jobOf 1 2] (rec0 0)) fun x => x == 1) = some (jobOf 0 1) ∧
      (cslot (sJobsOpen [jobOf 0 1, jobOf 1 2] (rec0 0)) (jobOf 0 1).slot).open_ = true) ∧
    -- clause 0.1.1.0
    (memDown sOpen = false ∧ (headJob sOpen fun x => x == 1) = some (jobOf 0 1) ∧ (cslot sOpen (jobOf 0 1).slot).open_ = false ∧
      (memRead sOpen Requester.codec ((jobOf 0 1).f 1 47 0) 64).snd.fst = MemEnd.ok ∧
      words8 (memRead sOpen Requester.codec ((jobOf 0 1).f 1 47 0) 64).snd.snd = rec0 0 ∧ openGood (rec0 0) = false) ∧
    -- clause 0.2.0
    (memDown (sJobs [jobOf 0 4]) = false ∧ (headJob (sJobs [jobOf 0 4]) fun x => x == 4) = some (jobOf 0 4) ∧
      (cslot (sJobs [jobOf 0 4]) (jobOf 0 4).slot).open_ = false) ∧
    -- clause 0.2.1.1
    (memDown (sJobsOpen [jobOf 0 4, jobOf 1 2] (rec0 0)) = false ∧
      (headJob (sJobsOpen [jobOf 0 4, jobOf 1 2] (rec0 0)) fun x => x == 4) = some (jobOf 0 4) ∧
      (cslot (sJobsOpen [jobOf 0 4, jobOf 1 2] (rec0 0)) (jobOf 0 4).slot).open_ = true) ∧
    -- clause 0.2.1.4
    (memDown (sJobsOpen [jobOf 0 4, jobOf 1 2] (rec0 0)) = false ∧
      (headJob (sJobsOpen [jobOf 0 4, jobOf 1 2] (rec0 0)) fun x => x == 4) = some (jobOf 0 4) ∧
      (cslot (sJobsOpen [jobOf 0 4, jobOf 1 2] (rec0 0)) (jobOf 0 4).slot).open_ = true ∧ 4 ≠ (jobOf 0 4).slot) ∧
    -- clause 0.3.0
    (memDown (sJobs [jobOf 0 5]) = false ∧ (headJob (sJobs [jobOf 0 5]) fun x => x == 5) = some (jobOf 0 5) ∧
      (cslot (sJobs [jobOf 0 5]) (jobOf 0 5).slot).open_ = false) ∧
    -- clause 0.3.1.3
    (memDown (sJobsOpen [jobOf 0 5, jobOf 1 2] (rec0 0)) = false ∧
      (headJob (sJobsOpen [jobOf 0 5, jobOf 1 2] (rec0 0)) fun x => x == 5) = some (jobOf 0 5) ∧
      (cslot (sJobsOpen [jobOf 0 5, jobOf 1 2] (rec0 0)) (jobOf 0 5).slot).open_ = true ∧ 4 ≠ (jobOf 0 5).slot) ∧
    -- clause 0.3.1.4
    (memDown (sJobsOpen [jobOf 0 5, jobOf 1 2] (rec0 0)) = false ∧
      (headJob (sJobsOpen [jobOf 0 5, jobOf 1 2] (rec0 0)) fun x => x == 5) = some (jobOf 0 5) ∧
      (cslot (sJobsOpen [jobOf 0 5, jobOf 1 2] (rec0 0)) (jobOf 0 5).slot).open_ = true) ∧
    -- clause 0.3.1.5
    (memDown (sJobsOpen [jobOf 0 5, jobOf 1 2] (rec0 0)) = false ∧
      (headJob (sJobsOpen [jobOf 0 5, jobOf 1 2] (rec0 0)) fun x => x == 5) = some (jobOf 0 5) ∧
      (cslot (sJobsOpen [jobOf 0 5, jobOf 1 2] (rec0 0)) (jobOf 0 5).slot).open_ = true ∧
      (cslot (sJobsOpen [jobOf 0 5, jobOf 1 2] (rec0 0)) (jobOf 0 5).slot).infl = 0) ∧
    -- clause 0.4
    (memDown (sJobs [jobOf 0 7]) = false ∧ (headJob (sJobs [jobOf 0 7]) fun o => o == 0 || decide (6 < o)) = some (jobOf 0 7)) ∧
    -- clause 0.5.0
    (memDown sDecWait = false ∧ sDecWait.codec.jobs[0]? = some jobWait ∧ jobWait.ended = none) ∧
    -- clause 0.5.1.0
    (memDown sEnded = false ∧ sEnded.codec.jobs[0]? = some jobEnded ∧ jobEnded.ended = some (CEnd.mk 3 0 0 false) ∧
      ((CEnd.mk 3 0 0 false).stat ≠ 1 ∧ (CEnd.mk 3 0 0 false).stat ≠ 2 ∨ jobEnded.f 0 31 31 = 0 ∨ jobEnded.quiet = true)) ∧
    -- clause 1.0
    (memDown sOpen = false ∧ sOpen.fatal = false ∧ ((sOpen.codec.jobs.any fun j => j.unit == some 0) = true ∨ pickJob sOpen (unitOp 0) = none)) ∧
    -- clause 1.1.3.0
    (memDown (sJobs [jobOf 0 3]) = false ∧ (sJobs [jobOf 0 3]).fatal = false ∧
      ((sJobs [jobOf 0 3]).codec.jobs.any fun j => j.unit == some 4) = false ∧ pickJob (sJobs [jobOf 0 3]) (unitOp 4) = some (jobOf 0 3) ∧
      (jobOf 0 3).op ≠ 6 ∧ refusal (cslot (sJobs [jobOf 0 3]) (jobOf 0 3).slot) (jobOf 0 3) = some 4) ∧
    -- clause 1.1.4.0
    (memDown (sJobs [jobOf 0 6]) = false ∧ (sJobs [jobOf 0 6]).fatal = false ∧
      ((sJobs [jobOf 0 6]).codec.jobs.any fun j => j.unit == some 6) = false ∧ pickJob (sJobs [jobOf 0 6]) (unitOp 6) = some (jobOf 0 6) ∧
      ((jobOf 0 6).op = 6 ∨ refusal (cslot (sJobs [jobOf 0 6]) (jobOf 0 6).slot) (jobOf 0 6) = none)) ∧
    -- clause 1.1.4.2
    (memDown (sJobsOpen [jobOf 0 3] (rec0 1)) = false ∧ (sJobsOpen [jobOf 0 3] (rec0 1)).fatal = false ∧
      ((sJobsOpen [jobOf 0 3] (rec0 1)).codec.jobs.any fun j => j.unit == some 4) = false ∧
      pickJob (sJobsOpen [jobOf 0 3] (rec0 1)) (unitOp 4) = some (jobOf 0 3) ∧
      ((jobOf 0 3).op = 6 ∨ refusal (cslot (sJobsOpen [jobOf 0 3] (rec0 1)) (jobOf 0 3).slot) (jobOf 0 3) = none) ∧ (jobOf 0 3).op ≠ 6) ∧
    -- clause 1.2.0
    (memDown sOpen = false ∧ sOpen.fatal = false ∧ List.find? (fun j => j.unit == some 0) sOpen.codec.jobs = none) ∧
    -- clause 2.1
    (memDown sDecWait = false ∧ sDecWait.fatal = false ∧ List.find? (fun j => j.unit == some 0) sDecWait.codec.jobs = some jobWait ∧ jobWait.op = 2 ∧
      jobWait.ran < frameBound (cslot sDecWait jobWait.slot)) ∧
    -- clause 3.0.3.0
    (memDown (onUnit0 2 0 recHole) = false ∧ (onUnit0 2 0 recHole).fatal = false ∧
      List.find? (fun j => j.unit == some 0) (onUnit0 2 0 recHole).codec.jobs = some (jobOn 2 0) ∧ (jobOn 2 0).op = 2 ∧
      frameBehind (onUnit0 2 0 recHole) (jobOn 2 0) = false ∧
      (false = true → frameBound (cslot (onUnit0 2 0 recHole) (jobOn 2 0).slot) ≤ (jobOn 2 0).ran) ∧
      (memRead (onUnit0 2 0 recHole) Requester.codec ((jobOn 2 0).f 1 47 0) ((jobOn 2 0).f 2 31 0)).snd.fst ≠ MemEnd.wait) ∧
    -- clause 3.0.4
    (memDown (onUnit0 2 0 recHole) = false ∧ (onUnit0 2 0 recHole).fatal = false ∧
      List.find? (fun j => j.unit == some 0) (onUnit0 2 0 recHole).codec.jobs = some (jobOn 2 0) ∧ (jobOn 2 0).op = 2 ∧
      frameBehind (onUnit0 2 0 recHole) (jobOn 2 0) = false ∧
      (false = true → frameBound (cslot (onUnit0 2 0 recHole) (jobOn 2 0).slot) ≤ (jobOn 2 0).ran) ∧
      (memRead (onUnit0 2 0 recHole) Requester.codec ((jobOn 2 0).f 1 47 0) ((jobOn 2 0).f 2 31 0)).snd.fst ≠ MemEnd.wait ∧ 4 ≠ (jobOn 2 0).slot) ∧
    -- clause 4.0.3.0
    (memDown (onUnit0 3 4 recHole) = false ∧ (onUnit0 3 4 recHole).fatal = false ∧
      List.find? (fun j => j.unit == some 4) (onUnit0 3 4 recHole).codec.jobs = some (jobOn 3 4) ∧ (jobOn 3 4).op = 3 ∧
      frameBehind (onUnit0 3 4 recHole) (jobOn 3 4) = false ∧
      (readFrame ((jobOn 3 4).f 1 47 0) (planes (cslot (onUnit0 3 4 recHole) (jobOn 3 4).slot).record (bits ((cslot (onUnit0 3 4 recHole) (jobOn 3 4).slot).record.getD 0 0) 47 34 + 1) (bits ((cslot (onUnit0 3 4 recHole) (jobOn 3 4).slot).record.getD 0 0) 33 20 + 1)) (onUnit0 3 4 recHole)).snd.fst ≠ MemEnd.wait) ∧
    -- clause 4.0.4
    (memDown (onUnit0 3 4 recHole) = false ∧ (onUnit0 3 4 recHole).fatal = false ∧
      List.find? (fun j => j.unit == some 4) (onUnit0 3 4 recHole).codec.jobs = some (jobOn 3 4) ∧ (jobOn 3 4).op = 3 ∧
      frameBehind (onUnit0 3 4 recHole) (jobOn 3 4) = false ∧
      (readFrame ((jobOn 3 4).f 1 47 0) (planes (cslot (onUnit0 3 4 recHole) (jobOn 3 4).slot).record (bits ((cslot (onUnit0 3 4 recHole) (jobOn 3 4).slot).record.getD 0 0) 47 34 + 1) (bits ((cslot (onUnit0 3 4 recHole) (jobOn 3 4).slot).record.getD 0 0) 33 20 + 1)) (onUnit0 3 4 recHole)).snd.fst ≠ MemEnd.wait ∧
      4 ≠ (jobOn 3 4).slot) ∧
    -- clause 5.0
    (memDown sSearchHole = false ∧ sSearchHole.fatal = false ∧ List.find? (fun j => j.unit == some 6) sSearchHole.codec.jobs = some jobHole ∧
      jobHole.op = 6 ∧ (memRead sSearchHole Requester.codec (jobHole.f 1 47 0) 64).snd.fst ≠ MemEnd.ok ∧
      (memRead sSearchHole Requester.codec (jobHole.f 1 47 0) 64).snd.fst ≠ MemEnd.wait) ∧
    -- clause 5.1
    (memDown (sSearch 8200) = false ∧ (sSearch 8200).fatal = false ∧
      List.find? (fun j => j.unit == some 6) (sSearch 8200).codec.jobs = some jobSearch ∧ jobSearch.op = 6 ∧
      (memRead (sSearch 8200) Requester.codec (jobSearch.f 1 47 0) 64).snd.fst = MemEnd.ok ∧
      words8 (memRead (sSearch 8200) Requester.codec (jobSearch.f 1 47 0) 64).snd.snd = parm0 8200 ∧
      (8192 < bits ((parm0 8200).getD 3 0) 63 50 + 1 ∨ 4320 < bits ((parm0 8200).getD 3 0) 49 36 + 1 ∨ bits ((parm0 8200).getD 2 0) 55 32 % 64 ≠ 0 ∨ bits ((parm0 8200).getD 2 0) 23 0 % 64 ≠ 0 ∨ hbmSize < jobSearch.f 3 47 0 + 8 * ((((bits ((parm0 8200).getD 3 0) 63 50 + 1 + if bits ((parm0 8200).getD 3 0) 35 35 = 1 then 16 else 8) - 1) / if bits ((parm0 8200).getD 3 0) 35 35 = 1 then 16 else 8) * (((bits ((parm0 8200).getD 3 0) 49 36 + 1 + if bits ((parm0 8200).getD 3 0) 35 35 = 1 then 16 else 8) - 1) / if bits ((parm0 8200).getD 3 0) 35 35 = 1 then 16 else 8)))) ∧
    -- clause 5.2.2
    (memDown (sSearch 7) = false ∧ (sSearch 7).fatal = false ∧ List.find? (fun j => j.unit == some 6) (sSearch 7).codec.jobs = some jobSearch ∧
      jobSearch.op = 6 ∧ (memRead (sSearch 7) Requester.codec (jobSearch.f 1 47 0) 64).snd.fst = MemEnd.ok ∧
      words8 (memRead (sSearch 7) Requester.codec (jobSearch.f 1 47 0) 64).snd.snd = parm0 7 ∧
      (¬(8192 < bits ((parm0 7).getD 3 0) 63 50 + 1 ∨ 4320 < bits ((parm0 7).getD 3 0) 49 36 + 1 ∨ bits ((parm0 7).getD 2 0) 55 32 % 64 ≠ 0 ∨ bits ((parm0 7).getD 2 0) 23 0 % 64 ≠ 0 ∨ hbmSize < jobSearch.f 3 47 0 + 8 * ((((bits ((parm0 7).getD 3 0) 63 50 + 1 + if bits ((parm0 7).getD 3 0) 35 35 = 1 then 16 else 8) - 1) / if bits ((parm0 7).getD 3 0) 35 35 = 1 then 16 else 8) * (((bits ((parm0 7).getD 3 0) 49 36 + 1 + if bits ((parm0 7).getD 3 0) 35 35 = 1 then 16 else 8) - 1) / if bits ((parm0 7).getD 3 0) 35 35 = 1 then 16 else 8)))) ∧
      (readPlane (bits ((parm0 7).getD 0 0) 47 0) (bits ((parm0 7).getD 2 0) 23 0) ((bits ((parm0 7).getD 3 0) 63 50 + 1) * if bits ((parm0 7).getD 3 0) 34 34 = 1 then 2 else 1) (List.range (bits ((parm0 7).getD 3 0) 49 36 + 1)) (sSearch 7)).snd.fst = MemEnd.ok ∧
      (readPlane (bits ((parm0 7).getD 1 0) 47 0 + bits ((parm0 7).getD 2 0) 55 32 * (windowSpan (bits ((parm0 7).getD 3 0) 49 36 + 1) (if bits ((parm0 7).getD 3 0) 35 35 = 1 then 16 else 8) (sext 16 (bits ((parm0 7).getD 5 0) 47 32)) 128 256).fst + (if bits ((parm0 7).getD 3 0) 34 34 = 1 then 2 else 1) * (windowSpan (bits ((parm0 7).getD 3 0) 63 50 + 1) (if bits ((parm0 7).getD 3 0) 35 35 = 1 then 16 else 8) (sext 16 (bits ((parm0 7).getD 5 0) 63 48)) 256 512).fst) (bits ((parm0 7).getD 2 0) 55 32) ((windowSpan (bits ((parm0 7).getD 3 0) 63 50 + 1) (if bits ((parm0 7).getD 3 0) 35 35 = 1 then 16 else 8) (sext 16 (bits ((parm0 7).getD 5 0) 63 48)) 256 512).snd * if bits ((parm0 7).getD 3 0) 34 34 = 1 then 2 else 1) (List.range (windowSpan (bits ((parm0 7).getD 3 0) 49 36 + 1) (if bits ((parm0 7).getD 3 0) 35 35 = 1 then 16 else 8) (sext 16 (bits ((parm0 7).getD 5 0) 47 32)) 128 256).snd) (sSearch 7)).snd.fst = MemEnd.ok ∧
      { words := parm0 7, field := jobSearch.f 3 47 0, w := bits ((parm0 7).getD 3 0) 63 50 + 1, h := bits ((parm0 7).getD 3 0) 49 36 + 1, b := if bits ((parm0 7).getD 3 0) 35 35 = 1 then 16 else 8, gx := sext 16 (bits ((parm0 7).getD 5 0) 63 48), gy := sext 16 (bits ((parm0 7).getD 5 0) 47 32), lambda := bits ((parm0 7).getD 3 0) 15 0, cur := (readPlane (bits ((parm0 7).getD 0 0) 47 0) (bits ((parm0 7).getD 2 0) 23 0) ((bits ((parm0 7).getD 3 0) 63 50 + 1) * if bits ((parm0 7).getD 3 0) 34 34 = 1 then 2 else 1) (List.range (bits ((parm0 7).getD 3 0) 49 36 + 1)) (sSearch 7)).snd.snd, rx := (windowSpan (bits ((parm0 7).getD 3 0) 63 50 + 1) (if bits ((parm0 7).getD 3 0) 35 35 = 1 then 16 else 8) (sext 16 (bits ((parm0 7).getD 5 0) 63 48)) 256 512).fst, ry := (windowSpan (bits ((parm0 7).getD 3 0) 49 36 + 1) (if bits ((parm0 7).getD 3 0) 35 35 = 1 then 16 else 8) (sext 16 (bits ((parm0 7).getD 5 0) 47 32)) 128 256).fst, rw := (windowSpan (bits ((parm0 7).getD 3 0) 63 50 + 1) (if bits ((parm0 7).getD 3 0) 35 35 = 1 then 16 else 8) (sext 16 (bits ((parm0 7).getD 5 0) 63 48)) 256 512).snd, ref := (readPlane (bits ((parm0 7).getD 1 0) 47 0 + bits ((parm0 7).getD 2 0) 55 32 * (windowSpan (bits ((parm0 7).getD 3 0) 49 36 + 1) (if bits ((parm0 7).getD 3 0) 35 35 = 1 then 16 else 8) (sext 16 (bits ((parm0 7).getD 5 0) 47 32)) 128 256).fst + (if bits ((parm0 7).getD 3 0) 34 34 = 1 then 2 else 1) * (windowSpan (bits ((parm0 7).getD 3 0) 63 50 + 1) (if bits ((parm0 7).getD 3 0) 35 35 = 1 then 16 else 8) (sext 16 (bits ((parm0 7).getD 5 0) 63 48)) 256 512).fst) (bits ((parm0 7).getD 2 0) 55 32) ((windowSpan (bits ((parm0 7).getD 3 0) 63 50 + 1) (if bits ((parm0 7).getD 3 0) 35 35 = 1 then 16 else 8) (sext 16 (bits ((parm0 7).getD 5 0) 63 48)) 256 512).snd * if bits ((parm0 7).getD 3 0) 34 34 = 1 then 2 else 1) (List.range (windowSpan (bits ((parm0 7).getD 3 0) 49 36 + 1) (if bits ((parm0 7).getD 3 0) 35 35 = 1 then 16 else 8) (sext 16 (bits ((parm0 7).getD 5 0) 47 32)) 128 256).snd) (sSearch 7)).snd.snd, bps := if bits ((parm0 7).getD 3 0) 34 34 = 1 then 2 else 1 } = search0 ∧
      (searchBlocks search0 (bits ((parm0 7).getD 4 0) 47 0) (List.range search0.blocks) (sSearch 7)).snd = MemEnd.ok) ∧
    -- clause 0.1.1.1
    (memDown sOpenGood = false ∧ (headJob sOpenGood (· == 1)) = some (jobOf 0 1) ∧ (memRead sOpenGood .codec ((jobOf 0 1).f 1 47 0) 64).2.1 = .ok ∧
      openGood (words8 (memRead sOpenGood .codec ((jobOf 0 1).f 1 47 0) 64).2.2) = true) ∧
    -- clause 2.0
    (memDown sBehind = false ∧ sBehind.codec.jobs.find? (fun j => j.unit == some 1) = some jobBehind ∧ frameBehind sBehind jobBehind = true) :=
  by
    (repeat' apply And.intro) <;> decide +kernel

/-- States and operands that meet the hypotheses of the clauses of `Obligations.SlipResults`, clause by clause. -/
theorem witness_SlipResults :
    -- clause 0.0.2.2
    (slipState (sSlip 1) 3 = 1 ∧ (sSlip 1).fld (slipReg 3 0) 31 31 = 1 ∧ 5 < 16 ∧ 5 ≠ 3) ∧
    -- clause 0.1.0
    (slipState (sSlip 0) 3 ≠ 1) ∧
    -- clause 0.10.2.2
    (slipState (sSlip 6) 3 = 6 ∧ (sSlip 6).fld (slipReg 3 0) 7 0 ≠ 0 ∧
      (slipOf (sSlip 6) 3).failUs + 1000000 * (sSlip 6).fld (slipReg 3 0) 7 0 ≤ (sSlip 6).us ∧ 5 < 16 ∧ 5 ≠ 3) ∧
    -- clause 0.11
    ((slipState (sSlip 0) 3 ≠ 6 ∨ (sSlip 0).fld (slipReg 3 0) 7 0 = 0)) ∧
    -- clause 0.12.0
    (slipState (sSlip 0) 3 ≠ 4) ∧
    -- clause 0.12.1.1.2.2
    (slipState (sSlip 4) 3 = 4 ∧ 5 < 16 ∧ 5 ≠ 3) ∧
    -- clause 0.12.2.2.2
    (slipState sSlipFastOther 3 = 4 ∧ 0 ≠ 2 ∧
      (¬((slipOf sSlipFastOther 3).fast = false ∨ SMap.get zeroNat sSlipFastOther.dcr.slips 3 = 16 * 9 + 2 + 1)) ∧ 5 < 16 ∧ 5 ≠ 3) ∧
    -- clause 0.12.3.1.2.2
    (slipState (sSlip 4) 3 = 4 ∧ 0 ≠ 2 ∧ ((slipOf (sSlip 4) 3).fast = false ∨ SMap.get zeroNat (sSlip 4).dcr.slips 3 = 16 * 9 + 2 + 1) ∧
      slipWidth (255 &&& 0 : BitVec 8).toNat = none ∧ 5 < 16 ∧ 5 ≠ 3) ∧
    -- clause 0.12.4.1.2.2
    (slipState sSlipMin 3 = 4 ∧ 0 ≠ 2 ∧ ((slipOf sSlipMin 3).fast = false ∨ SMap.get zeroNat sSlipMin.dcr.slips 3 = 16 * 9 + 2 + 1) ∧
      slipWidth (255 &&& 1 : BitVec 8).toNat = some (255 &&& 1 : BitVec 8).toNat ∧
      (255 &&& 1 : BitVec 8).toNat < 2 ^ sSlipMin.fld (slipReg 3 0) 25 24 ∧ 5 < 16 ∧ 5 ≠ 3) ∧
    -- clause 0.12.5.8.2
    (slipState (sSlip 4) 3 = 4 ∧ 0 ≠ 2 ∧ ((slipOf (sSlip 4) 3).fast = false ∨ SMap.get zeroNat (sSlip 4).dcr.slips 3 = 16 * 9 + 2 + 1) ∧
      slipWidth (255 &&& 255 : BitVec 8).toNat = some 8 ∧ 2 ^ (sSlip 4).fld (slipReg 3 0) 25 24 ≤ 8 ∧ 5 < 16 ∧ 5 ≠ 3) ∧
    -- clause 0.2.1.2.2
    (slipState (sSlip 1) 3 = 1 ∧ (slipOf (sSlip 1) 3).detectUs + 1000 * max 1 ((sSlip 1).fld (slipReg 3 0) 15 8) ≤ (sSlip 1).us ∧ 5 < 16 ∧ 5 ≠ 3) ∧
    -- clause 0.3
    (slipState (sSlipWith 1 { detectUs := 1000000 }) 3 = 1 ∧
      (sSlipWith 1 { detectUs := 1000000 }).us < (slipOf (sSlipWith 1 { detectUs := 1000000 }) 3).detectUs + 1000 * max 1 ((sSlipWith 1 { detectUs := 1000000 }).fld (slipReg 3 0) 15 8)) ∧
    -- clause 0.4.2.2
    (slipState (sSlip 3) 3 = 3 ∧ 5 < 16 ∧ 5 ≠ 3) ∧
    -- clause 0.5
    (slipState (sSlip 0) 3 ≠ 3) ∧
    -- clause 0.6.2.2
    (slipState (sSlip 2) 3 = 2 ∧ 5 < 16 ∧ 5 ≠ 3) ∧
    -- clause 0.7.3.2
    (slipState (sSlip 2) 3 = 2 ∧ (slipOf (sSlip 2) 3).eqTries < 2 ∧ 5 < 16 ∧ 5 ≠ 3) ∧
    -- clause 0.8.1.2.2
    (slipState (sSlipWith 2 { eqTries := 2 }) 3 = 2 ∧ 2 ≤ (slipOf (sSlipWith 2 { eqTries := 2 }) 3).eqTries ∧ 5 < 16 ∧ 5 ≠ 3) ∧
    -- clause 0.9
    (slipState (sSlip 0) 3 ≠ 2) ∧
    -- clause 1.0.0
    ((¬(slipState (sSlip 0) 3 = 5 ∨ slipState (sSlip 0) 3 = 7))) ∧
    -- clause 1.0.1.7.2
    ((slipState (sSlip 5) 3 = 5 ∨ slipState (sSlip 5) 3 = 7) ∧ 5 < 16 ∧ 5 ≠ 3) ∧
    -- clause 1.1.0
    (sSlipOff.writable (slipReg 3 0) = true ∧ sSlipOff.fld (slipReg 3 0) 31 31 = 0) ∧
    -- clause 1.1.1.3.2
    ((sSlip 0).writable (slipReg 3 0) = true ∧ (sSlip 0).fld (slipReg 3 0) 31 31 = 1 ∧ 5 < 16 ∧ 5 ≠ 3) ∧
    -- clause 1.1.3
    ((sSlip 0).writable (slipReg 3 0) = true ∧ slipState (sSlip 0) 3 ≠ 5) ∧
    -- clause 1.1.4
    ((sSlip 5).writable (slipReg 3 0) = true ∧ slipState (sSlip 5) 3 = 5) :=
  by
    (repeat' apply And.intro) <;> decide +kernel

/-- States and operands that meet the hypotheses of the clauses of `Obligations.FlitResults`, clause by clause. -/
theorem witness_FlitResults :
    -- clause 0
    (slipState (sSlip 7) 3 ≠ 5) ∧
    -- clause 1
    (crcOf flitInv = CrcKind.inverted) ∧
    -- clause 2.0
    (slipState (sSlip 5) 3 = 5 ∧ crcOf flitBad = CrcKind.bad) ∧
    -- clause 3.0.0
    (slipState (sSlip 5) 3 = 5 ∧ crcOf flitTail = CrcKind.good ∧ flitType flitTail = 1 ∧ bits (linkWord flitTail) 59 48 = (slipOf (sSlip 5) 3).rxSeq) ∧
    -- clause 3.0.4.0
    (slipState (sSlip 5) 3 = 5 ∧ crcOf (flitOf 0 msgProbe) = CrcKind.good ∧ flitType (flitOf 0 msgProbe) = 1 ∧
      bits (linkWord (flitOf 0 msgProbe)) 59 48 = (slipOf (sSlip 5) 3).rxSeq ∧ (dataOf (flitOf 0 msgProbe)).head = true ∧
      (msgOf [dataOf (flitOf 0 msgProbe)]).sourceRouted = true) ∧
    -- clause 3.0.5.0
    (slipState (sSlip 5) 3 = 5 ∧ crcOf flitHead = CrcKind.good ∧ flitType flitHead = 1 ∧
      bits (linkWord flitHead) 59 48 = (slipOf (sSlip 5) 3).rxSeq ∧ (dataOf flitHead).head = true ∧ (msgOf [dataOf flitHead]).sourceRouted = false) ∧
    -- clause 3.0.6.0
    (slipState (sSlipWith 5 gWaiting) 3 = 5 ∧ crcOf flitTail = CrcKind.good ∧ flitType flitTail = 1 ∧
      bits (linkWord flitTail) 59 48 = (slipOf (sSlipWith 5 gWaiting) 3).rxSeq ∧ (dataOf flitTail).head = false ∧
      (ingressOf (sSlipWith 5 gWaiting) 3 (dataOf flitTail)).goes = Onward.waiting) ∧
    -- clause 3.0.7.0
    (slipState (sSlipWith 5 gPart) 3 = 5 ∧ crcOf flitTail = CrcKind.good ∧ flitType flitTail = 1 ∧
      bits (linkWord flitTail) 59 48 = (slipOf (sSlipWith 5 gPart) 3).rxSeq ∧ (dataOf flitTail).head = false ∧
      (ingressOf (sSlipWith 5 gPart) 3 (dataOf flitTail)).goes = Onward.here) ∧
    -- clause 3.1.0
    (slipState (sSlip 5) 3 = 5 ∧ crcOf (flitOf 4095 msgRd) = CrcKind.good ∧ flitType (flitOf 4095 msgRd) = 1 ∧
      bits (linkWord (flitOf 4095 msgRd)) 59 48 ≠ (slipOf (sSlip 5) 3).rxSeq) ∧
    -- clause 4.0
    (slipState (sSlip 5) 3 = 5 ∧ crcOf (linkOf 2 4) = CrcKind.good ∧ (slipOf (sSlip 5) 3).out = [] ∧ flitType (linkOf 2 4) = 2) ∧
    -- clause 4.1
    (slipState (sSlip 5) 3 = 5 ∧ crcOf (linkOf 3 4) = CrcKind.good ∧ (slipOf (sSlip 5) 3).out = [] ∧ flitType (linkOf 3 4) = 3 ∧
      List.dropWhile (fun p => p.fst != bits (linkWord (linkOf 3 4)) 47 36) (slipOf (takeHeader (sSlip 5) 3 (linkWord (linkOf 3 4))) 3).retry = []) ∧
    -- clause 4.2.0
    (slipState (sSlipWith 5 (gRetry 8)) 3 = 5 ∧ crcOf (linkOf 3 4) = CrcKind.good ∧ (slipOf (sSlipWith 5 (gRetry 8)) 3).out = [] ∧
      flitType (linkOf 3 4) = 3 ∧
      List.dropWhile (fun p => p.fst != bits (linkWord (linkOf 3 4)) 47 36) (slipOf (takeHeader (sSlipWith 5 (gRetry 8)) 3 (linkWord (linkOf 3 4))) 3).retry = [flA, flB] ∧
      ∃ r ∈ [flA, flB], max 1 ((sSlipWith 5 (gRetry 8)).fld (slipReg 3 32) 7 0) ≤
        SMap.get zeroNat (slipOf (takeHeader (sSlipWith 5 (gRetry 8)) 3 (linkWord (linkOf 3 4))) 3).resends r.1) ∧
    -- clause 4.2.1.0
    (slipState (sSlipWith 5 (gRetry 3)) 3 = 5 ∧ crcOf (linkOf 3 4) = CrcKind.good ∧ (slipOf (sSlipWith 5 (gRetry 3)) 3).out = [] ∧
      flitType (linkOf 3 4) = 3 ∧
      List.dropWhile (fun p => p.fst != bits (linkWord (linkOf 3 4)) 47 36) (slipOf (takeHeader (sSlipWith 5 (gRetry 3)) 3 (linkWord (linkOf 3 4))) 3).retry = [flA, flB] ∧
      (∀ r ∈ [flA, flB], SMap.get zeroNat (slipOf (takeHeader (sSlipWith 5 (gRetry 3)) 3 (linkWord (linkOf 3 4))) 3).resends r.1 <
        max 1 ((sSlipWith 5 (gRetry 3)).fld (slipReg 3 32) 7 0)) ∧ ([flA, flB].map (·.1)).Nodup) ∧
    -- clause 4.3.0
    (slipState (sSlip 5) 3 = 5 ∧ crcOf (linkOf 6 0) = CrcKind.good ∧ (slipOf (sSlip 5) 3).out = [] ∧ flitType (linkOf 6 0) = 6) ∧
    -- clause 4.4.0
    (slipState (sSlip 5) 3 = 5 ∧ crcOf (linkOf 4 0) = CrcKind.good ∧ (slipOf (sSlip 5) 3).out = [] ∧ flitType (linkOf 4 0) = 4) ∧
    -- clause 4.5.0
    (slipState (sSlip 5) 3 = 5 ∧ crcOf (linkOf 5 0) = CrcKind.good ∧ (slipOf (sSlip 5) 3).out = [] ∧ flitType (linkOf 5 0) = 5) ∧
    -- clause 5.0.0
    (slipState (sSlip 7) 3 = 7 ∧ (true = true ∨ (slipOf (sSlip 7) 3).lpOut = true)) ∧
    -- clause 5.1
    ((slipState (sSlip 5) 3 ≠ 7 ∨ true = false ∧ (slipOf (sSlip 5) 3).lpOut = false)) :=
  by
    (repeat' apply And.intro) <;> decide +kernel

/-- States and operands that meet the hypotheses of the clauses of `Obligations.RouterResults`, clause by clause. -/
theorem witness_RouterResults :
    -- clause 0.0
    ((sRouteOut (msgTo 7 3)).fabric.routing = [{ msg := msgTo 7 3 }] ∧ (sRouteOut (msgTo 7 3)).fld fabId 31 31 = 0) ∧
    -- clause 1.1
    ((sRoute 5 (msgTo 1 3)).fabric.routing = [{ msg := msgTo 1 3 }] ∧ (sRoute 5 (msgTo 1 3)).fld fabId 31 31 = 1 ∧
      (msgTo 1 3).dst = ownId (sRoute 5 (msgTo 1 3)) ∧ ((sRoute 5 (msgTo 1 3)).fld fabCtl 30 30 = 1 ∨ (msgTo 1 3).vc = 0)) ∧
    -- clause 1.2
    ((sRouteIn 5 (msgTo 1 3) true).fabric.routing = [trIn (msgTo 1 3) true] ∧ (sRouteIn 5 (msgTo 1 3) true).fld fabId 31 31 = 1 ∧
      (trIn (msgTo 1 3) true).msg.dst = ownId (sRouteIn 5 (msgTo 1 3) true) ∧
      ((sRouteIn 5 (msgTo 1 3) true).fld fabCtl 30 30 = 1 ∨ (trIn (msgTo 1 3) true).msg.vc = 0) ∧ (trIn (msgTo 1 3) true).slip ≠ 16 ∧
      (trIn (msgTo 1 3) true).whole = true) ∧
    -- clause 2.0
    ((sRoute 5 msgVc).fabric.routing = [{ msg := msgVc }] ∧ (sRoute 5 msgVc).fld fabId 31 31 = 1 ∧ msgVc.dst = ownId (sRoute 5 msgVc) ∧
      (sRoute 5 msgVc).fld fabCtl 30 30 = 0 ∧ msgVc.vc ≠ 0) ∧
    -- clause 3.0
    ((sRoute 5 (msgTo 8 3)).fabric.routing = [{ msg := msgTo 8 3 }] ∧ (sRoute 5 (msgTo 8 3)).fld fabId 31 31 = 1 ∧
      (msgTo 8 3).dst ≠ ownId (sRoute 5 (msgTo 8 3)) ∧ bit (routeEntry (sRoute 5 (msgTo 8 3)) (dieOf 16) (msgTo 8 3).dst) 31 = false) ∧
    -- clause 3.1.0.1t.0
    ((sRoute 5 msgRsp).fabric.routing = [{ msg := msgRsp }] ∧ (sRoute 5 msgRsp).fld fabId 31 31 = 1 ∧ msgRsp.dst ≠ ownId (sRoute 5 msgRsp) ∧
      bit (routeEntry (sRoute 5 msgRsp) (dieOf 16) msgRsp.dst) 31 = false) ∧
    -- clause 4.0.0
    ((sRoute 1 (msgTo 7 3)).fabric.routing = [{ msg := msgTo 7 3 }] ∧ (sRoute 1 (msgTo 7 3)).fld fabId 31 31 = 1 ∧
      (msgTo 7 3).dst ≠ ownId (sRoute 1 (msgTo 7 3)) ∧ bit (routeEntry (sRoute 1 (msgTo 7 3)) (dieOf 16) (msgTo 7 3).dst) 31 = true ∧
      pickSlip (msgTo 7 3) (bits (routeEntry (sRoute 1 (msgTo 7 3)) (dieOf 16) (msgTo 7 3).dst) 15 0) (routeMask (sRoute 1 (msgTo 7 3)) 5) = none ∧
      pickSlip (msgTo 7 3) (bits (routeEntry (sRoute 1 (msgTo 7 3)) (dieOf 16) (msgTo 7 3).dst) 15 0) (routeMask (sRoute 1 (msgTo 7 3)) 7) = none) ∧
    -- clause 4.1.0.0
    ((sRoute 5 (msgTo 7 0)).fabric.routing = [{ msg := msgTo 7 0 }] ∧ (sRoute 5 (msgTo 7 0)).fld fabId 31 31 = 1 ∧
      (msgTo 7 0).dst ≠ ownId (sRoute 5 (msgTo 7 0)) ∧ bit (routeEntry (sRoute 5 (msgTo 7 0)) (dieOf 16) (msgTo 7 0).dst) 31 = true ∧
      (pickSlip (msgTo 7 0) (bits (routeEntry (sRoute 5 (msgTo 7 0)) (dieOf 16) (msgTo 7 0).dst) 15 0) (routeMask (sRoute 5 (msgTo 7 0)) 5) = some 3 ∨ pickSlip (msgTo 7 0) (bits (routeEntry (sRoute 5 (msgTo 7 0)) (dieOf 16) (msgTo 7 0).dst) 15 0) (routeMask (sRoute 5 (msgTo 7 0)) 5) = none ∧ pickSlip (msgTo 7 0) (bits (routeEntry (sRoute 5 (msgTo 7 0)) (dieOf 16) (msgTo 7 0).dst) 15 0) (routeMask (sRoute 5 (msgTo 7 0)) 7) = some 3) ∧
      (msgTo 7 0).ttl = 0) ∧
    -- clause 4.1.1.1
    ((sRoute 5 (msgTo 7 3)).fabric.routing = [{ msg := msgTo 7 3 }] ∧ (sRoute 5 (msgTo 7 3)).fld fabId 31 31 = 1 ∧
      (msgTo 7 3).dst ≠ ownId (sRoute 5 (msgTo 7 3)) ∧ bit (routeEntry (sRoute 5 (msgTo 7 3)) (dieOf 16) (msgTo 7 3).dst) 31 = true ∧
      (pickSlip (msgTo 7 3) (bits (routeEntry (sRoute 5 (msgTo 7 3)) (dieOf 16) (msgTo 7 3).dst) 15 0) (routeMask (sRoute 5 (msgTo 7 3)) 5) = some 3 ∨ pickSlip (msgTo 7 3) (bits (routeEntry (sRoute 5 (msgTo 7 3)) (dieOf 16) (msgTo 7 3).dst) 15 0) (routeMask (sRoute 5 (msgTo 7 3)) 5) = none ∧ pickSlip (msgTo 7 3) (bits (routeEntry (sRoute 5 (msgTo 7 3)) (dieOf 16) (msgTo 7 3).dst) 15 0) (routeMask (sRoute 5 (msgTo 7 3)) 7) = some 3) ∧
      0 < (msgTo 7 3).ttl) ∧
    -- clause 5
    (slipState (sRoute 7 (msgTo 7 3)) 3 = 7) :=
  by
    (repeat' apply And.intro) <;> decide +kernel

/-- States and operands that meet the hypotheses of the clauses of `Obligations.RemoteRequestsAndFetches`, clause by clause. -/
theorem witness_RemoteRequestsAndFetches :
    -- clause 0.0.0.0.0
    (((sInboxReset (msgOp 1 bytes8)).fabric.inbox = [(msgOp 1 bytes8, 3)] ∧ (sInboxReset (msgOp 1 bytes8)).fatal = false ∧
      (sInboxReset (msgOp 1 bytes8)).compReset = true ∧ (msgOp 1 bytes8).op = 1 ∧ (msgOp 1 bytes8).rq ≠ nfRq) ∧
    -- clause 0.0.0.1.0
    ((sInboxReset (msgOp 3 bytes8)).fabric.inbox = [(msgOp 3 bytes8, 3)] ∧ (sInboxReset (msgOp 3 bytes8)).fatal = false ∧
      (sInboxReset (msgOp 3 bytes8)).compReset = true ∧ (msgOp 3 bytes8).op = 3) ∧
    -- clause 0.0.0.2.0
    ((sInboxReset (msgOp 5 bytes8)).fabric.inbox = [(msgOp 5 bytes8, 3)] ∧ (sInboxReset (msgOp 5 bytes8)).fatal = false ∧
      (sInboxReset (msgOp 5 bytes8)).compReset = true ∧ (msgOp 5 bytes8).op = 5) ∧
    -- clause 0.0.0.3.0
    ((sInboxReset (msgOp 6 bytes8)).fabric.inbox = [(msgOp 6 bytes8, 3)] ∧ (sInboxReset (msgOp 6 bytes8)).fatal = false ∧
      (sInboxReset (msgOp 6 bytes8)).compReset = true ∧ (msgOp 6 bytes8).op = 6) ∧
    -- clause 0.0.1.0.0
    ((sInboxReq msgRd rq8).fabric.inbox = [(msgRd, 3)] ∧ (sInboxReq msgRd rq8).fatal = false ∧ (sInboxReq msgRd rq8).compReset = false ∧
      memDown (sInboxReq msgRd rq8) = false ∧ msgRd.op = 1 ∧ msgRd.rq ≠ nfRq ∧
      (memRead (freeBuffers { (sInboxReq msgRd rq8) with fabric := { (sInboxReq msgRd rq8).fabric with reqs := [rq8], inbox := [] } } 3 msgRd.vc msgRd.rsp msgRd.held) Requester.remote msgRd.addr msgRd.len).snd.fst = MemEnd.ok) ∧
    -- clause 0.0.1.1.0
    ((sInbox (msgHole 1)).fabric.inbox = [(msgHole 1, 3)] ∧ (sInbox (msgHole 1)).fatal = false ∧ (sInbox (msgHole 1)).compReset = false ∧
      memDown (sInbox (msgHole 1)) = false ∧ (msgHole 1).op = 1 ∧ (msgHole 1).rq ≠ nfRq ∧
      ((places (freeBuffers (took (sInbox (msgHole 1))) 3 (msgHole 1).vc (msgHole 1).rsp (msgHole 1).held) (msgHole 1).addr (msgHole 1).len).any fun p => !reaches Requester.remote p) = true) ∧
    -- clause 0.0.1.2.0
    ((sInbox (msgOp 3 bytes8)).fabric.inbox = [(msgOp 3 bytes8, 3)] ∧ (sInbox (msgOp 3 bytes8)).fatal = false ∧
      (sInbox (msgOp 3 bytes8)).compReset = false ∧ memDown (sInbox (msgOp 3 bytes8)) = false ∧ (msgOp 3 bytes8).op = 3 ∧
      (memWrite (freeBuffers (took (sInbox (msgOp 3 bytes8))) 3 (msgOp 3 bytes8).vc (msgOp 3 bytes8).rsp (msgOp 3 bytes8).held) Requester.remote (msgOp 3 bytes8).addr (List.take (msgOp 3 bytes8).len (msgOp 3 bytes8).data)).snd = MemEnd.ok) ∧
    -- clause 0.0.1.3.0
    ((sInbox (msgHole 3)).fabric.inbox = [(msgHole 3, 3)] ∧ (sInbox (msgHole 3)).fatal = false ∧ (sInbox (msgHole 3)).compReset = false ∧
      memDown (sInbox (msgHole 3)) = false ∧ (msgHole 3).op = 3 ∧
      ((places (freeBuffers (took (sInbox (msgHole 3))) 3 (msgHole 3).vc (msgHole 3).rsp (msgHole 3).held) (msgHole 3).addr (List.take (msgHole 3).len (msgHole 3).data).length).any fun p => !reaches Requester.remote p) = true) ∧
    -- clause 0.0.1.4.0
    ((sInbox (msgOp 5 bytes8)).fabric.inbox = [(msgOp 5 bytes8, 3)] ∧ (sInbox (msgOp 5 bytes8)).fatal = false ∧
      (sInbox (msgOp 5 bytes8)).compReset = false ∧ memDown (sInbox (msgOp 5 bytes8)) = false ∧ (msgOp 5 bytes8).op = 5 ∧ (msgOp 5 bytes8).aty < 4 ∧
      (msgOp 5 bytes8).aop < 3 ∧ (msgOp 5 bytes8).addr % elemSize (msgOp 5 bytes8).aty = 0 ∧
      (msgOp 5 bytes8).len % elemSize (msgOp 5 bytes8).aty = 0 ∧
      allHbm (freeBuffers (took (sInbox (msgOp 5 bytes8))) 3 (msgOp 5 bytes8).vc (msgOp 5 bytes8).rsp (msgOp 5 bytes8).held) (msgOp 5 bytes8).addr (msgOp 5 bytes8).len = true) ∧
    -- clause 0.0.1.5.0
    ((sInbox (msgHole 5)).fabric.inbox = [(msgHole 5, 3)] ∧ (sInbox (msgHole 5)).fatal = false ∧ (sInbox (msgHole 5)).compReset = false ∧
      memDown (sInbox (msgHole 5)) = false ∧ (msgHole 5).op = 5 ∧
      (4 ≤ (msgHole 5).aty ∨ 3 ≤ (msgHole 5).aop ∨ (msgHole 5).addr % elemSize (msgHole 5).aty ≠ 0 ∨ (msgHole 5).len % elemSize (msgHole 5).aty ≠ 0 ∨ allHbm (freeBuffers (took (sInbox (msgHole 5))) 3 (msgHole 5).vc (msgHole 5).rsp (msgHole 5).held) (msgHole 5).addr (msgHole 5).len = false)) ∧
    -- clause 0.0.1.6.0
    ((sInbox (msgOp 6 bytes8)).fabric.inbox = [(msgOp 6 bytes8, 3)] ∧ (sInbox (msgOp 6 bytes8)).fatal = false ∧
      (sInbox (msgOp 6 bytes8)).compReset = false ∧ memDown (sInbox (msgOp 6 bytes8)) = false ∧ (msgOp 6 bytes8).op = 6 ∧ (msgOp 6 bytes8).aty < 4 ∧
      (msgOp 6 bytes8).aop < 3 ∧ (msgOp 6 bytes8).addr % elemSize (msgOp 6 bytes8).aty = 0 ∧ (msgOp 6 bytes8).len = elemSize (msgOp 6 bytes8).aty ∧
      (adderOp (freeBuffers (took (sInbox (msgOp 6 bytes8))) 3 (msgOp 6 bytes8).vc (msgOp 6 bytes8).rsp (msgOp 6 bytes8).held) 1 (msgOp 6 bytes8).addr (msgOp 6 bytes8).aty (msgOp 6 bytes8).aop (leNat (List.take (elemSize (msgOp 6 bytes8).aty) (msgOp 6 bytes8).data))).snd.fst = MemEnd.ok) ∧
    -- clause 0.1.0
    ((sInboxReq (msgOp 2 bytes8) req0).fabric.inbox = [(msgOp 2 bytes8, 3)] ∧ (sInboxReq (msgOp 2 bytes8) req0).fatal = false ∧
      ([req0].any fun q => q.tag == (msgOp 2 bytes8).tag && q.rq == (msgOp 2 bytes8).rq && q.status == 0 && q.msg.isNone) = true) ∧
    -- clause 0.1.1.0
    ((sInbox (msgOp 2 bytes8)).fabric.inbox = [(msgOp 2 bytes8, 3)] ∧ (sInbox (msgOp 2 bytes8)).fatal = false ∧
      ((sInbox (msgOp 2 bytes8)).fabric.reqs.any fun q => q.tag == (msgOp 2 bytes8).tag && q.rq == (msgOp 2 bytes8).rq && q.status == 0 && q.msg.isNone) = false) ∧
    -- clause 0.2.0
    (((sInbox msgStale).fatal = true ∨ List.find? (fun q => q.tag == 9 && reqExpired (sInbox msgStale) q) (sInbox msgStale).fabric.reqs = none)) ∧
    -- clause 0.2.1.0
    ((sInboxReq msgRd req0).fatal = false ∧ List.find? (fun q => q.tag == 9 && reqExpired (sInboxReq msgRd req0) q) [req0] = some req0 ∧
      List.find? (fun q => q.tag == 9 && reqExpired (sInboxReq msgRd req0) q) (sInboxReq msgRd req0).fabric.reqs = some req0 ∧ req0.op ≠ 8) ∧
    -- clause 0.2.1.1
    ((sInboxReq msgRd rq8).fatal = false ∧ List.find? (fun q => q.tag == 9 && reqExpired (sInboxReq msgRd rq8) q) [rq8] = some rq8 ∧
      List.find? (fun q => q.tag == 9 && reqExpired (sInboxReq msgRd rq8) q) (sInboxReq msgRd rq8).fabric.reqs = some rq8 ∧ rq8.op = 8) ∧
    -- clause 1.1
    ((sSess msgFetch 3).fabric.inbox = [(msgFetch, 3)] ∧ (sSess msgFetch 3).fatal = false ∧ memDown (sSess msgFetch 3) = false ∧ msgFetch.rq = nfRq ∧
      msgFetch.op = 1 ∧ (sSess msgFetch 3).compReset = false ∧
      (sessValid (sSess msgFetch 3) msgFetch.sess = false ∨ (sSess msgFetch 3).fld (sess msgFetch.sess) 11 0 ≠ msgFetch.src ∨ 2 ^ 40 ≤ SMap.get zeroNat (sSess msgFetch 3).flash.sessSeq msgFetch.sess)) ∧
    -- clause 1.2.0
    ((sInbox msgStale).fabric.inbox = [(msgStale, 3)] ∧ (sInbox msgStale).fatal = false ∧ memDown (sInbox msgStale) = false ∧ msgStale.rq = nfRq ∧
      msgStale.op = 2 ∧ List.find? (matches' msgStale) (sInbox msgStale).fabric.reqs = none)) ∧
    -- clause 1.0
    (((sSess msgFetch 2).fabric.inbox = [(msgFetch, 3)] ∧ (sSess msgFetch 2).fatal = false ∧ memDown (sSess msgFetch 2) = false ∧
      msgFetch.rq = nfRq ∧ msgFetch.op = 1 ∧ (sSess msgFetch 2).compReset = false ∧ sessValid (sSess msgFetch 2) msgFetch.sess = true ∧
      (sSess msgFetch 2).fld (sess msgFetch.sess) 11 0 = msgFetch.src ∧ SMap.get zeroNat (sSess msgFetch 2).flash.sessSeq msgFetch.sess < 2 ^ 40) ∧
      (memRead (freeBuffers (took (sSess msgFetch 2)) 3 msgFetch.vc msgFetch.rsp msgFetch.held) Requester.remote msgFetch.addr msgFetch.len).snd.fst = MemEnd.ok) :=
  ⟨by
    (repeat' apply And.intro) <;> decide +kernel,
   ⟨by decide +kernel,
    (by
     rw [sFetch_read])⟩⟩

/-- States and operands that meet the hypotheses of the clauses of `Obligations.SourceRoutedMessages`, clause by clause. -/
theorem witness_SourceRoutedMessages :
    -- clause 0.0
    ((sSr 10 1).fabric.inbox = [(msgSr 10 1, 3)] ∧ (sSr 10 1).fatal = false ∧ bits (msgSr 10 1).path 63 60 ≠ 0) ∧
    -- clause 0.1
    (sSrSeen.fabric.inbox = [(msgProbe, 3)] ∧ sSrSeen.fatal = false ∧ msgProbe.op = 9 ∧
      sSrSeen.fabric.probes.contains (msgProbe.ouid, msgProbe.tag) = true) ∧
    -- clause 0.2.0
    ((sSr 9 0).fabric.inbox = [(msgSr 9 0, 3)] ∧ (sSr 9 0).fatal = false ∧ (msgSr 9 0).op = 9 ∧
      (sSr 9 0).fabric.probes.contains ((msgSr 9 0).ouid, (msgSr 9 0).tag) = false) ∧
    -- clause 0.3
    ((sSr 11 0).fabric.inbox = [(msgSr 11 0, 3)] ∧ (sSr 11 0).fatal = false ∧ (msgSr 11 0).op = 11 ∧ bits (msgSr 11 0).path 63 60 = 0 ∧
      cfgOffset (msgSr 11 0).off = some (msgSr 11 0).off) ∧
    -- clause 0.4
    ((sInbox (msgSrHole 11)).fabric.inbox = [(msgSrHole 11, 3)] ∧ (sInbox (msgSrHole 11)).fatal = false ∧ (msgSrHole 11).op = 11 ∧
      bits (msgSrHole 11).path 63 60 = 0 ∧ cfgOffset (msgSrHole 11).off = none) ∧
    -- clause 0.5
    ((sInbox (msgSrHole 12)).fabric.inbox = [(msgSrHole 12, 3)] ∧ (sInbox (msgSrHole 12)).fatal = false ∧ (msgSrHole 12).op = 12 ∧
      bits (msgSrHole 12).path 63 60 = 0 ∧ (sInbox (msgSrHole 12)).fld fabCtl 31 31 = 0 ∧ cfgOffset (msgSrHole 12).off = none) ∧
    -- clause 0.6
    (sSrLock.fabric.inbox = [(msgSr 12 0, 3)] ∧ sSrLock.fatal = false ∧ (msgSr 12 0).op = 12 ∧ bits (msgSr 12 0).path 63 60 = 0 ∧
      sSrLock.fld fabCtl 31 31 = 1) ∧
    -- clause 0.7
    ((sSr 12 0).fabric.inbox = [(msgSr 12 0, 3)] ∧ (sSr 12 0).fatal = false ∧ (msgSr 12 0).op = 12 ∧ bits (msgSr 12 0).path 63 60 = 0 ∧
      (sSr 12 0).fld fabCtl 31 31 = 0 ∧ cfgOffset (msgSr 12 0).off = some (msgSr 12 0).off) ∧
    -- clause 0.8.0
    ((sSr 10 0).fabric.inbox = [(msgSr 10 0, 3)] ∧ (sSr 10 0).fatal = false ∧ bits (msgSr 10 0).path 63 60 = 0 ∧
      (sSr 10 0).fld (srStat (dieOf 3)) 31 16 ≤ (sSr 10 0).fld (srStat (dieOf 3)) 15 0) ∧
    -- clause 0.8.1
    (sSrBuf.fabric.inbox = [(msgSr 10 0, 3)] ∧ sSrBuf.fatal = false ∧ bits (msgSr 10 0).path 63 60 = 0 ∧
      sSrBuf.fld (srStat (dieOf 3)) 15 0 < sSrBuf.fld (srStat (dieOf 3)) 31 16) ∧
    -- clause 1.0
    (slipUp (sSlip 3) (bits (msgTtl 9 3).path 3 0) = false) ∧
    -- clause 1.1
    (slipUp (sInbox (msgTtl 9 3)) (bits (msgTtl 9 3).path 3 0) = true ∧ 0 < (msgTtl 9 3).ttl) ∧
    -- clause 1.2
    (slipUp (sInbox (msgTtl 9 3)) (bits (msgTtl 10 0).path 3 0) = true ∧ (msgTtl 10 0).ttl = 0 ∧ (msgTtl 10 0).rsp = true) ∧
    -- clause 2
    (sSrSend.writable (ldReg (0) 40) = true ∧
      (memRead (sSrSend.setReg64 (ldReg (0) 40) (327680 / 64 * 64)) Requester.sched (327680 / 64 * 64) 64).snd.fst = MemEnd.ok) :=
  by
    (repeat' apply And.intro) <;> decide +kernel

/-- States and operands that meet the hypotheses of the clauses of `Obligations.CollectiveSteps`, clause by clause. -/
theorem witness_CollectiveSteps :
    -- clause 0.0.0
    (sGrpFull.fatal = false ∧ nextWaiting (sGrpFull.eng e0.val) false = some (skE (iAll 0) Stage.waiting) ∧
      atHead (sGrpFull.eng e0.val) false (skE (iAll 0) Stage.waiting) = true ∧
      (skE (iAll 0) Stage.waiting).instr ∈ [Instr.xch e0 (fColl 0) wColl, Instr.xredAllReduce e0 (fColl 0) wColl, Instr.xredReduceScatter e0 (fColl 0) wColl, Instr.xgather e0 (fColl 0) wColl] ∧
      8 ≤ (List.filter (fun y => y.die == bits (BitVec.toNat wColl) 47 40 / 128) sGrpFull.coll.steps).length ∧ sGrpFull.coll.waiting = []) ∧
    -- clause 0.1
    (sGrpOther.fatal = false ∧ nextWaiting (sGrpOther.eng e0.val) false = some (skE (iAll 0) Stage.waiting) ∧
      atHead (sGrpOther.eng e0.val) false (skE (iAll 0) Stage.waiting) = true ∧
      (skE (iAll 0) Stage.waiting).instr ∈ [Instr.xch e0 (fColl 0) wColl, Instr.xredAllReduce e0 (fColl 0) wColl, Instr.xredReduceScatter e0 (fColl 0) wColl, Instr.xgather e0 (fColl 0) wColl] ∧
      (List.filter (fun y => y.die == bits (BitVec.toNat wColl) 47 40 / 128) sGrpOther.coll.steps).length < 8 ∧
      stepOf sGrpOther (bits (BitVec.toNat wColl) 47 40) = none ∧ sGrpOther.coll.waiting = [] ∧
      grpUsable sGrpOther (sGrpOther.eng e0.val).ctx (bits (BitVec.toNat wColl) 47 40) = false) ∧
    -- clause 0.2
    ((sGrp 0 0 (iAll 0) Stage.waiting).fatal = false ∧
      nextWaiting ((sGrp 0 0 (iAll 0) Stage.waiting).eng e0.val) false = some (skE (iAll 0) Stage.waiting) ∧
      atHead ((sGrp 0 0 (iAll 0) Stage.waiting).eng e0.val) false (skE (iAll 0) Stage.waiting) = true ∧
      (skE (iAll 0) Stage.waiting).instr ∈ [Instr.xch e0 (fColl 0) wColl, Instr.xredAllReduce e0 (fColl 0) wColl, Instr.xredReduceScatter e0 (fColl 0) wColl, Instr.xgather e0 (fColl 0) wColl] ∧
      (skE (iAll 0) Stage.waiting).instr ∈ [Instr.xredAllReduce e0 (fColl 0) wColl, Instr.xredReduceScatter e0 (fColl 0) wColl] ∧
      (List.filter (fun y => y.die == bits (BitVec.toNat wColl) 47 40 / 128) (sGrp 0 0 (iAll 0) Stage.waiting).coll.steps).length < 8 ∧
      stepOf (sGrp 0 0 (iAll 0) Stage.waiting) (bits (BitVec.toNat wColl) 47 40) = none ∧ (sGrp 0 0 (iAll 0) Stage.waiting).coll.waiting = [] ∧
      (sGrp 0 0 (iAll 0) Stage.waiting).coll.held = [] ∧
      grpUsable (sGrp 0 0 (iAll 0) Stage.waiting) ((sGrp 0 0 (iAll 0) Stage.waiting).eng e0.val).ctx (bits (BitVec.toNat wColl) 47 40) = true ∧
      1 < grpSize (sGrp 0 0 (iAll 0) Stage.waiting) (bits (BitVec.toNat wColl) 47 40) ∧
      (memRead (sGrp 0 0 (iAll 0) Stage.waiting) (Requester.coll true) (grpList (sGrp 0 0 (iAll 0) Stage.waiting) (bits (BitVec.toNat wColl) 47 40)) (4 * grpSize (sGrp 0 0 (iAll 0) Stage.waiting) (bits (BitVec.toNat wColl) 47 40))).snd.fst = MemEnd.ok ∧
      (List.map (fun i => leNat (List.take 4 (List.drop (4 * i) (memRead (sGrp 0 0 (iAll 0) Stage.waiting) (Requester.coll true) (grpList (sGrp 0 0 (iAll 0) Stage.waiting) (bits (BitVec.toNat wColl) 47 40)) (4 * grpSize (sGrp 0 0 (iAll 0) Stage.waiting) (bits (BitVec.toNat wColl) 47 40))).snd.snd))) (List.range (grpSize (sGrp 0 0 (iAll 0) Stage.waiting) (bits (BitVec.toNat wColl) 47 40)))).getD (grpRank (sGrp 0 0 (iAll 0) Stage.waiting) (bits (BitVec.toNat wColl) 47 40)) 0 = ownId (sGrp 0 0 (iAll 0) Stage.waiting) ∧
      grpRank (sGrp 0 0 (iAll 0) Stage.waiting) (bits (BitVec.toNat wColl) 47 40) < grpSize (sGrp 0 0 (iAll 0) Stage.waiting) (bits (BitVec.toNat wColl) 47 40) ∧
      (skE (iAll 0) Stage.waiting).regs.getS (fld (fColl 0) 35 31) % 64 = 0 ∧
      (places (sGrp 0 0 (iAll 0) Stage.waiting) (((skE (iAll 0) Stage.waiting).regs.getA (fld (fColl 0) 51 49) + (skE (iAll 0) Stage.waiting).regs.getS (fld (fColl 0) 48 44)) % 2 ^ 48) (if fld (fColl 0) 15 14 = 1 then grpSize (sGrp 0 0 (iAll 0) Stage.waiting) (bits (BitVec.toNat wColl) 47 40) * (skE (iAll 0) Stage.waiting).regs.getS (fld (fColl 0) 35 31) else (skE (iAll 0) Stage.waiting).regs.getS (fld (fColl 0) 35 31))).all (reaches (Requester.coll true)) = true ∧
      (places (sGrp 0 0 (iAll 0) Stage.waiting) (((skE (iAll 0) Stage.waiting).regs.getA (fld (fColl 0) 43 41) + (skE (iAll 0) Stage.waiting).regs.getS (fld (fColl 0) 40 36)) % 2 ^ 48) ((skE (iAll 0) Stage.waiting).regs.getS (fld (fColl 0) 35 31))).all (reaches (Requester.coll true)) = true) ∧
    -- clause 1.1
    ((List.filter (fun x => x.die == 0) [cs0Young])[0]? = some cs0Young ∧
      (List.filter (fun x => x.die == 0) (sStep cs0Young).coll.steps)[0]? = some cs0Young ∧ (sStep cs0Young).fatal = false ∧
      (stepDone (sStep cs0Young) cs0Young = true ∨ (sStep cs0Young).us < cs0Young.us + 1000 * grpTmo (sStep cs0Young) cs0Young.gid)) ∧
    -- clause 1.2
    ((List.filter (fun x => x.die == 0) sGrpFull.coll.steps)[0]? = some (csOf 10) ∧ sGrpFull.fatal = false ∧ stepDone sGrpFull (csOf 10) = false ∧
      (csOf 10).us + 1000 * grpTmo sGrpFull (csOf 10).gid ≤ sGrpFull.us) ∧
    -- clause 1.3.0
    ((List.filter (fun x => x.die == 0) [cs0Done])[0]? = some cs0Done ∧
      (List.filter (fun x => x.die == 0) (sStep cs0Done).coll.steps)[0]? = some cs0Done ∧ (sStep cs0Done).fatal = false ∧
      stepDone (sStep cs0Done) cs0Done = true ∧ ((sStep cs0Done).eng cs0Done.eng).spillQ = [skE (iAll 0) Stage.started] ∧
      (skE (iAll 0) Stage.started).id = cs0Done.id ∧ (skE (iAll 0) Stage.started).stage = Stage.started ∧
      (skE (iAll 0) Stage.started).quiet = false ∧ (collFields (skE (iAll 0) Stage.started).instr).isSome = true ∧
      ((sStep cs0Done).eng cs0Done.eng).queues = [] ∧ ((sStep cs0Done).eng cs0Done.eng).deferred = []) ∧
    -- clause 2.4.0
    (1 < 256 ∧ 1 ≤ 1 ∧ 1 ≤ 4) ∧
    -- clause 2.5
    (1 < 256 ∧ 1 ≤ 2 ∧ 2 ≤ 4 ∧ 2 ≠ 1) :=
  by
    (repeat' apply And.intro) <;> decide +kernel

/-- States and operands that meet the hypotheses of the clauses of `Obligations.CollectiveMessages`, clause by clause. -/
theorem witness_CollectiveMessages :
    -- clause 0.0.0
    ((sCollMsg (msgEpoch 1 6)).fabric.inbox = [(msgEpoch 1 6, 3)] ∧ (sCollMsg (msgEpoch 1 6)).fatal = false ∧
      memDown (sCollMsg (msgEpoch 1 6)) = false ∧ (msgEpoch 1 6).op = 8 ∧ (msgEpoch 1 6).err = false ∧ 1 ≤ (msgEpoch 1 6).kind ∧
      (msgEpoch 1 6).kind ≤ 5 ∧ (msgEpoch 1 6).epoch ≠ grpEpoch (sCollMsg (msgEpoch 1 6)) (msgEpoch 1 6).gid) ∧
    -- clause 0.1.0
    ((sCollMsg (msgColl 1)).fabric.inbox = [(msgColl 1, 3)] ∧ (sCollMsg (msgColl 1)).fatal = false ∧ memDown (sCollMsg (msgColl 1)) = false ∧
      (msgColl 1).op = 8 ∧ (msgColl 1).err = false ∧ 1 ≤ (msgColl 1).kind ∧ (msgColl 1).kind ≤ 5 ∧
      (msgColl 1).epoch = grpEpoch (sCollMsg (msgColl 1)) (msgColl 1).gid ∧ (msgColl 1).kind ≠ 5 ∧
      stepOf (sCollMsg (msgColl 1)) (msgColl 1).gid = none ∧ (msgColl 1).step = grpStep (sCollMsg (msgColl 1)) (msgColl 1).gid) ∧
    -- clause 0.2.0
    ((sCollMsg (msgStep 1)).fabric.inbox = [(msgStep 1, 3)] ∧ (sCollMsg (msgStep 1)).fatal = false ∧ memDown (sCollMsg (msgStep 1)) = false ∧
      (msgStep 1).op = 8 ∧ (msgStep 1).err = false ∧ 1 ≤ (msgStep 1).kind ∧ (msgStep 1).kind ≤ 5 ∧
      (msgStep 1).epoch = grpEpoch (sCollMsg (msgStep 1)) (msgStep 1).gid ∧ (msgStep 1).kind ≠ 5 ∧
      stepOf (sCollMsg (msgStep 1)) (msgStep 1).gid = none ∧ (msgStep 1).step ≠ grpStep (sCollMsg (msgStep 1)) (msgStep 1).gid) ∧
    -- clause 0.3.0
    ((sCollMsg (msgColl 5)).fabric.inbox = [(msgColl 5, 3)] ∧ (sCollMsg (msgColl 5)).fatal = false ∧ memDown (sCollMsg (msgColl 5)) = false ∧
      (msgColl 5).op = 8 ∧ (msgColl 5).err = false ∧ 1 ≤ (msgColl 5).kind ∧ (msgColl 5).kind ≤ 5 ∧
      (msgColl 5).epoch = grpEpoch (sCollMsg (msgColl 5)) (msgColl 5).gid ∧ (msgColl 5).kind = 5 ∧
      stepOf (sCollMsg (msgColl 5)) (msgColl 5).gid = none) ∧
    -- clause 0.4
    ((sStepMsg (msgColl 5)).fabric.inbox = [(msgColl 5, 3)] ∧ (sStepMsg (msgColl 5)).fatal = false ∧ memDown (sStepMsg (msgColl 5)) = false ∧
      (msgColl 5).op = 8 ∧ (msgColl 5).err = false ∧ 1 ≤ (msgColl 5).kind ∧ (msgColl 5).kind ≤ 5 ∧
      (msgColl 5).epoch = grpEpoch (sStepMsg (msgColl 5)) (msgColl 5).gid ∧ (msgColl 5).kind = 5 ∧
      (stepOf (sStepMsg (msgColl 5)) (msgColl 5).gid).isSome = true) ∧
    -- clause 0.5.0
    ((sStepMsg (msgColl 4)).fabric.inbox = [(msgColl 4, 3)] ∧ (sStepMsg (msgColl 4)).fatal = false ∧ memDown (sStepMsg (msgColl 4)) = false ∧
      (msgColl 4).op = 8 ∧ (msgColl 4).err = false ∧ 1 ≤ (msgColl 4).kind ∧ (msgColl 4).kind ≤ 5 ∧
      (msgColl 4).epoch = grpEpoch (sStepMsg (msgColl 4)) (msgColl 4).gid ∧ (msgColl 4).kind ≠ 5 ∧ (sStepMsg (msgColl 4)).coll.steps = [cs0Both] ∧
      cs0Both.gid = (msgColl 4).gid ∧ (msgColl 4).step = cs0Both.step ∧ cs0Both.todo = [] ∧ (msgColl 4).kind = 4) ∧
    -- clause 0.5.1
    ((sStepMsg (msgOff 1 64)).fabric.inbox = [(msgOff 1 64, 3)] ∧ (sStepMsg (msgOff 1 64)).fatal = false ∧ memDown (sStepMsg (msgOff 1 64)) = false ∧
      (msgOff 1 64).op = 8 ∧ (msgOff 1 64).err = false ∧ 1 ≤ (msgOff 1 64).kind ∧ (msgOff 1 64).kind ≤ 5 ∧
      (msgOff 1 64).epoch = grpEpoch (sStepMsg (msgOff 1 64)) (msgOff 1 64).gid ∧ (msgOff 1 64).kind ≠ 5 ∧
      (sStepMsg (msgOff 1 64)).coll.steps = [cs0Both] ∧ cs0Both.gid = (msgOff 1 64).gid ∧ (msgOff 1 64).step = cs0Both.step ∧ cs0Both.todo = [] ∧
      (msgOff 1 64).kind = 1 ∧ readyDiffers cs0Both (msgOff 1 64) = false) ∧
    -- clause 0.5.2
    ((sStepMsg (msgColl 1)).fabric.inbox = [(msgColl 1, 3)] ∧ (sStepMsg (msgColl 1)).fatal = false ∧ memDown (sStepMsg (msgColl 1)) = false ∧
      (msgColl 1).op = 8 ∧ (msgColl 1).err = false ∧ 1 ≤ (msgColl 1).kind ∧ (msgColl 1).kind ≤ 5 ∧
      (msgColl 1).epoch = grpEpoch (sStepMsg (msgColl 1)) (msgColl 1).gid ∧ (msgColl 1).kind ≠ 5 ∧ (sStepMsg (msgColl 1)).coll.steps = [cs0Both] ∧
      cs0Both.gid = (msgColl 1).gid ∧ (msgColl 1).step = cs0Both.step ∧ cs0Both.todo = [] ∧ (msgColl 1).kind = 1 ∧
      readyDiffers cs0Both (msgColl 1) = true) ∧
    -- clause 0.5.3
    ((sStepMsg (msgColl 2)).fabric.inbox = [(msgColl 2, 3)] ∧ (sStepMsg (msgColl 2)).fatal = false ∧ memDown (sStepMsg (msgColl 2)) = false ∧
      (msgColl 2).op = 8 ∧ (msgColl 2).err = false ∧ 1 ≤ (msgColl 2).kind ∧ (msgColl 2).kind ≤ 5 ∧
      (msgColl 2).epoch = grpEpoch (sStepMsg (msgColl 2)) (msgColl 2).gid ∧ (msgColl 2).kind ≠ 5 ∧ (sStepMsg (msgColl 2)).coll.steps = [cs0Both] ∧
      cs0Both.gid = (msgColl 2).gid ∧ (msgColl 2).step = cs0Both.step ∧ cs0Both.todo = [] ∧ (msgColl 2).kind = 2 ∧ (msgColl 2).dest = cs0Both.rank ∧
      cs0Both.ring = false ∧ (msgColl 2).off + (msgColl 2).data.length ≤ cs0Both.need ∧
      (memWrite (collAck (freeBuffers (took (sStepMsg (msgColl 2))) 3 (msgColl 2).vc (msgColl 2).rsp (msgColl 2).held) (msgColl 2)) (cs0Both.req (collAck (freeBuffers (took (sStepMsg (msgColl 2))) 3 (msgColl 2).vc (msgColl 2).rsp (msgColl 2).held) (msgColl 2))) (cs0Both.dst + (msgColl 2).off) (msgColl 2).data).snd = MemEnd.ok) ∧
    -- clause 0.5.4
    ((sStepMsg (msgColl 3)).fabric.inbox = [(msgColl 3, 3)] ∧ (sStepMsg (msgColl 3)).fatal = false ∧ memDown (sStepMsg (msgColl 3)) = false ∧
      (msgColl 3).op = 8 ∧ (msgColl 3).err = false ∧ 1 ≤ (msgColl 3).kind ∧ (msgColl 3).kind ≤ 5 ∧
      (msgColl 3).epoch = grpEpoch (sStepMsg (msgColl 3)) (msgColl 3).gid ∧ (msgColl 3).kind ≠ 5 ∧ (sStepMsg (msgColl 3)).coll.steps = [cs0Both] ∧
      cs0Both.gid = (msgColl 3).gid ∧ (msgColl 3).step = cs0Both.step ∧ cs0Both.todo = [] ∧ (msgColl 3).kind = 3 ∧ cs0Both.instr = 1 ∧
      cs0Both.ring = false ∧
      (∃ r, r ∈ cs0Both.others ∧ r ≠ (msgColl 3).frm ∧ (cs0Both.staged.any fun p => p.fst == r && p.snd.fst == (msgColl 3).off) = false)) ∧
    -- clause 1.0
    ((sCollMsg (msgColl 0)).fabric.inbox = [(msgColl 0, 3)] ∧ (sCollMsg (msgColl 0)).fatal = false ∧ (msgColl 0).op = 8 ∧ (msgColl 0).err = false ∧
      ((msgColl 0).kind = 0 ∨ (msgColl 0).kind = 6 ∨ (msgColl 0).kind = 7 ∨ 8 < (msgColl 0).kind)) ∧
    -- clause 1.1
    ((sCollMsg (msgColl 8)).fabric.inbox = [(msgColl 8, 3)] ∧ (sCollMsg (msgColl 8)).fatal = false ∧ (msgColl 8).op = 8 ∧
      List.find? (matches' (msgColl 8)) (sCollMsg (msgColl 8)).fabric.reqs = none ∧ ((msgColl 8).kind = 8 ∨ (msgColl 8).err = true)) ∧
    -- clause 1.2
    ((sAck (msgTag 9)).fabric.inbox = [(msgTag 9, 3)] ∧ (sAck (msgTag 9)).fatal = false ∧ (msgTag 9).op = 8 ∧
      List.find? (matches' (msgTag 9)) [rq8] = some rq8 ∧ (msgTag 9).kind = 8 ∧ (msgTag 9).err = false) :=
  by
    (repeat' apply And.intro) <;> decide +kernel

/-- States and operands that meet the hypotheses of the clauses of `Obligations.GroupEntryWrites`, clause by clause. -/
theorem witness_GroupEntryWrites :
    -- clause 0.0
    ((sGrp 0 0 (iAll 0) Stage.waiting).writable (colReg (1) 0) = true ∧
      (bit (cfgMask (accMerge ((sGrp 0 0 (iAll 0) Stage.waiting).reg64 (colReg (1) 0)) Acc.both (9223372066919546897))) 63 = true ∧ (bit (cfgMask (accMerge ((sGrp 0 0 (iAll 0) Stage.waiting).reg64 (colReg (1) 0)) Acc.both (9223372066919546897))) 62 = false ∧ 16 < (sGrp 0 0 (iAll 0) Stage.waiting).fld64 (colReg (1) 8) 59 48 ∨ (sGrp 0 0 (iAll 0) Stage.waiting).fld64 (colReg (1) 8) 59 48 < bits (cfgMask (accMerge ((sGrp 0 0 (iAll 0) Stage.waiting).reg64 (colReg (1) 0)) Acc.both (9223372066919546897))) 11 0))) ∧
    -- clause 0.1
    ((sStep cs0).writable (colReg (1) 0) = true ∧
      (¬(bit (cfgMask (accMerge ((sStep cs0).reg64 (colReg (1) 0)) Acc.both (9223372066919546880))) 63 = true ∧ (bit (cfgMask (accMerge ((sStep cs0).reg64 (colReg (1) 0)) Acc.both (9223372066919546880))) 62 = false ∧ 16 < (sStep cs0).fld64 (colReg (1) 8) 59 48 ∨ (sStep cs0).fld64 (colReg (1) 8) 59 48 < bits (cfgMask (accMerge ((sStep cs0).reg64 (colReg (1) 0)) Acc.both (9223372066919546880))) 11 0))) ∧
      (stepOf (sStep cs0) 1).isSome = true ∧ bit (cfgMask (accMerge ((sStep cs0).reg64 (colReg (1) 0)) Acc.both (9223372066919546880))) 63 = true ∧
      bits (cfgMask (accMerge ((sStep cs0).reg64 (colReg (1) 0)) Acc.both (9223372066919546880))) 47 32 = grpEpoch (sStep cs0) 1) ∧
    -- clause 0.2.4.0
    ((sGrp 0 0 (iAll 0) Stage.waiting).writable (colReg (1) 0) = true ∧
      (¬(bit (cfgMask (accMerge ((sGrp 0 0 (iAll 0) Stage.waiting).reg64 (colReg (1) 0)) Acc.both (9223372036854775808))) 63 = true ∧ (bit (cfgMask (accMerge ((sGrp 0 0 (iAll 0) Stage.waiting).reg64 (colReg (1) 0)) Acc.both (9223372036854775808))) 62 = false ∧ 16 < (sGrp 0 0 (iAll 0) Stage.waiting).fld64 (colReg (1) 8) 59 48 ∨ (sGrp 0 0 (iAll 0) Stage.waiting).fld64 (colReg (1) 8) 59 48 < bits (cfgMask (accMerge ((sGrp 0 0 (iAll 0) Stage.waiting).reg64 (colReg (1) 0)) Acc.both (9223372036854775808))) 11 0))) ∧
      (¬(stepOf (sGrp 0 0 (iAll 0) Stage.waiting) 1).isSome = true) ∧
      bits (cfgMask (accMerge ((sGrp 0 0 (iAll 0) Stage.waiting).reg64 (colReg (1) 0)) Acc.both (9223372036854775808))) 47 32 ≠ grpEpoch (sGrp 0 0 (iAll 0) Stage.waiting) 1) ∧
    -- clause 0.2.5.0
    ((sGrp 0 0 (iAll 0) Stage.waiting).writable (colReg (1) 0) = true ∧
      (¬(bit (cfgMask (accMerge ((sGrp 0 0 (iAll 0) Stage.waiting).reg64 (colReg (1) 0)) Acc.both (9223372066919546880))) 63 = true ∧ (bit (cfgMask (accMerge ((sGrp 0 0 (iAll 0) Stage.waiting).reg64 (colReg (1) 0)) Acc.both (9223372066919546880))) 62 = false ∧ 16 < (sGrp 0 0 (iAll 0) Stage.waiting).fld64 (colReg (1) 8) 59 48 ∨ (sGrp 0 0 (iAll 0) Stage.waiting).fld64 (colReg (1) 8) 59 48 < bits (cfgMask (accMerge ((sGrp 0 0 (iAll 0) Stage.waiting).reg64 (colReg (1) 0)) Acc.both (9223372066919546880))) 11 0))) ∧
      (¬(stepOf (sGrp 0 0 (iAll 0) Stage.waiting) 1).isSome = true) ∧
      bits (cfgMask (accMerge ((sGrp 0 0 (iAll 0) Stage.waiting).reg64 (colReg (1) 0)) Acc.both (9223372066919546880))) 47 32 = grpEpoch (sGrp 0 0 (iAll 0) Stage.waiting) 1) ∧
    -- clause 0.3
    ((sGrp 0 0 (iAll 0) Stage.waiting).writable (colReg (1) 0) = true ∧ grpValid (sGrp 0 0 (iAll 0) Stage.waiting) 1 = true) ∧
    -- clause 0.4.0
    (sCollWait.writable (colReg (1) 0) = true ∧ grpValid sCollWait 1 = false) ∧
    -- clause 1.0
    ((sStep cs0).writable (colReg 0 0) = true ∧ ((sStep cs0).coll.steps ≠ [] ∨ (sStep cs0).coll.waiting ≠ [])) ∧
    -- clause 1.1.0
    ((sGrp 0 0 (iAll 0) Stage.waiting).writable (colReg 0 0) = true ∧ (sGrp 0 0 (iAll 0) Stage.waiting).coll.steps = [] ∧
      (sGrp 0 0 (iAll 0) Stage.waiting).coll.waiting = []) :=
  by
    (repeat' apply And.intro) <;> decide +kernel

/-- States and operands that meet the hypotheses of the clauses of `Obligations.PowerArbiter`, clause by clause. -/
theorem witness_PowerArbiter :
    -- clause 1.0
    ((sFloors.writable (Off.pwrReq 5) = true ∧ poolOf (sFloors.fld Off.pwrBudget 10 0) < floorsCost sFloors (5) (0)) ∧
    -- clause 1.1.2
    (sMem.writable (Off.pwrReq 5) = true ∧ floorsCost sMem (5) (0) ≤ poolOf (sMem.fld Off.pwrBudget 10 0) ∧ 0 < 40 ∧ 0 ≠ 5) ∧
    -- clause 1.2
    (sMem.writable Off.pwrBudget = true ∧ (bits (0) 10 0 < 600 ∨ 1500 < bits (0) 10 0 ∨ poolOf (bits (0) 10 0) < floorsCost sMem 40 0)) ∧
    -- clause 1.3.0
    (sMem.writable Off.pwrBudget = true ∧ 600 ≤ bits (1500) 10 0 ∧ bits (1500) 10 0 ≤ 1500 ∧ floorsCost sMem 40 0 ≤ poolOf (bits (1500) 10 0)) ∧
    -- clause 1.4.0
    (sMem.writable (Off.pwrOpp 10) = true ∧
      ((10 = 0 ∨ sMem.fld (Off.pwrOpp (10 - 1)) 15 0 ≤ bits (2315976448) 15 0) ∧ (10 = 10 ∨ bits (2315976448) 15 0 ≤ sMem.fld (Off.pwrOpp (10 + 1)) 15 0))) ∧
    -- clause 1.5
    (sMem.writable (Off.pwrOpp 3) = true ∧
      (¬((3 = 0 ∨ sMem.fld (Off.pwrOpp (3 - 1)) 15 0 ≤ bits (0) 15 0) ∧ (3 = 10 ∨ bits (0) 15 0 ≤ sMem.fld (Off.pwrOpp (3 + 1)) 15 0)))) ∧
    -- clause 1.6
    (((∃ t, (sPwr 10 1500).power.lastUs = some t ∧ (sPwr 10 1500).us < t + max 30 ((sPwr 10 1500).fld Off.pwrCtl 9 0)) ∨ (sPwr 10 1500).fatal = true ∨ powerState (sPwr 10 1500) = 3 ∨ (sPwr 10 1500).boot.powered = false)) ∧
    -- clause 1.7.0.0
    ((¬∃ t, sMem.power.lastUs = some t ∧ sMem.us < t + max 30 (sMem.fld Off.pwrCtl 9 0)) ∧ sMem.fatal = false ∧ powerState sMem ≠ 3 ∧
      sMem.boot.powered = true ∧ (sMem.power.tripped = true ∨ hotSensor sMem [40, 50, 90, 60, 110] = none)) ∧
    -- clause 1.7.1.0
    ((¬∃ t, sMem.power.lastUs = some t ∧ sMem.us < t + max 30 (sMem.fld Off.pwrCtl 9 0)) ∧ sMem.fatal = false ∧ powerState sMem ≠ 3 ∧
      sMem.boot.powered = true ∧ sMem.power.tripped = false ∧ hotSensor sMem [40, 50, 90, 60, 130] ≠ none)) ∧
    -- clause 0.0
    (((∀ (c : Nat), c < 26 → ceilsW.getD c 0 ≤ 10) ∧
      (sumOf fun c => costOf oppW ((fun c => (plansW.getD c (Plan.mk 0 0 0 0)).act) c) c ((fun c => min (plansW.getD c (Plan.mk 0 0 0 0)).floor (ceilsW.getD c 0)) c)) ≤ 200000) ∧
      (∀ (c : Nat), (plansW.getD c (Plan.mk 0 0 0 0)).floor ≤ (plansW.getD c (Plan.mk 0 0 0 0)).req) ∧
      (∀ (i j : Nat), i ≤ j → oppW.getD i 0 ≤ oppW.getD j 0 ∨ 10 < j)) :=
  ⟨by
    (repeat' apply And.intro) <;> decide +kernel,
   ⟨by decide +kernel,
    (by
     have h : ∀ c, c < 40 → (plansW.getD c (Plan.mk 0 0 0 0)).floor ≤ (plansW.getD c (Plan.mk 0 0 0 0)).req := by decide +kernel
     intro c
     by_cases hc : c < 40
     · exact h c hc
     · have h2 : plansW[c]? = none := List.getElem?_eq_none (by simp [plansW]; omega)
       rw [List.getD_eq_getElem?_getD, h2]
       exact Nat.le_refl _),
    (by
     have h : ∀ j, j < 11 → ∀ i, i < j + 1 → oppW.getD i 0 ≤ oppW.getD j 0 := by decide +kernel
     intro i j hij
     by_cases hc : j < 11
     · exact .inl (h j hc i (by omega))
     · exact .inr (by omega))⟩⟩

/-- States and operands that meet the hypotheses of the clauses of `Obligations.PowerProtection`, clause by clause. -/
theorem witness_PowerProtection :
    -- clause 0.3
    (movingOf sDown 5 = 0 ∧ targetOf sDown 5 < levelOf sDown 5 ∧ 5 < 26) ∧
    -- clause 1
    ((movingOf sMem 5 = 0 ∨ sMem.fatal = true)) ∧
    -- clause 10.0
    (tripOf sMem ≤ 130 ∧ sMem.fatal = false ∧ powerState sMem = 0 ∧ powerPhase sMem = 0 ∧ (∀ (c : Nat), c < 64 → (sMem.ctx c).members = [])) ∧
    -- clause 11.0
    (tripOf (sEntry 3) ≤ 130 ∧ (sEntry 3).fatal = false ∧ powerState (sEntry 3) = 0 ∧ powerPhase (sEntry 3) = 1 ∧
      (∀ (c : Nat), c < 64 → ((sEntry 3).ctx c).members = [])) ∧
    -- clause 12
    ((sMem.fatal = true ∨ powerState sMem ≠ 0 ∨ sMem.fld (Off.pwrIvr 0) 31 31 = 0 ∨ 16 ≤ sMem.fld (Off.pwrIvr 0) 7 0 ∨ sMem.power.dead.contains 0 = true)) ∧
    -- clause 13.0
    (sAnswer.fatal = false ∧ powerState sAnswer = 0 ∧ sAnswer.fld (Off.pwrIvr 0) 31 31 = 1 ∧ sAnswer.fld (Off.pwrIvr 0) 7 0 < 17 ∧
      sAnswer.power.dead.contains 0 = false ∧ answerRun sAnswer = true) ∧
    -- clause 14.0
    (sLow.fatal = false ∧ powerState sLow = 0 ∧ sLow.fld (Off.pwrIvr 0) 31 31 = 1 ∧ sLow.fld (Off.pwrIvr 0) 7 0 < 17 ∧
      sLow.power.dead.contains 0 = false ∧ answerRun sLow = false) ∧
    -- clause 15.0
    (sMem.writable (Off.pwrIvr 0) = true ∧ sMem.power.restarting.contains 0 = false) ∧
    -- clause 15.5.0
    (sMem.writable (Off.pwrIvr 1) = true ∧ sMem.power.restarting.contains 1 = false ∧ 5 < 26 ∧ regulatorOf 5 = 1) ∧
    -- clause 16
    ((sMem.power.restarting.contains 0 = false ∨ sMem.fatal = true)) ∧
    -- clause 17.0
    (sRestarting.power.restarting.contains 0 = true ∧ sRestarting.fatal = false) ∧
    -- clause 2.3
    (movingOf (sMoving 1) 5 ≠ 0 ∧ (sMoving 1).fatal = false ∧ 30 ≠ 5) ∧
    -- clause 2.4
    (movingOf (sMoving0 4) 0 ≠ 0 ∧ (sMoving0 4).fatal = false ∧ 3 < 96 ∧ 0 < 26 ∧ levelOf (sMoving0 4) 0 < movingOf (sMoving0 4) 0 - 1 ∧
      movingOf (sMoving0 4) 0 - 1 ≤ targetOf (sMoving0 4) 0 ∧ ((sMoving0 4).eng 3).online = true ∧ groupOf ((sMoving0 4).eng 3).slot = 0) ∧
    -- clause 3
    ((movingOf sMem 5 ≤ levelOf sMem 5 + 1 ∨ sMem.fatal = true)) ∧
    -- clause 4.0
    (levelOf (sMoving 5) 5 + 1 < movingOf (sMoving 5) 5 ∧ (sMoving 5).fatal = false) ∧
    -- clause 5
    ((sDown.fatal = true ∨ powerState sDown ≠ 0 ∨ ¬(1600000 < 1000 ∨ 1000 * sDown.fld Off.pwrBudget 10 0 < 1000 ∧ 20 ≤ 20))) ∧
    -- clause 6.1.0
    (sMem.fatal = false ∧ powerState sMem = 0 ∧ (1600000 < 1700000 ∨ 1000 * sMem.fld Off.pwrBudget 10 0 < 1700000 ∧ 20 ≤ 20) ∧ 5 < 26) ∧
    -- clause 6.2
    (sMem.fatal = false ∧ powerState sMem = 0 ∧ (1600000 < 1700000 ∨ 1000 * sMem.fld Off.pwrBudget 10 0 < 1700000 ∧ 20 ≤ 20) ∧ 26 ≤ 30) ∧
    -- clause 7
    ((sMemFatal.fatal = true ∨ powerState sMemFatal = 3)) ∧
    -- clause 8.0
    (sMem.fatal = false ∧ powerState sMem ≠ 3) ∧
    -- clause 9
    ((90 < tripOf sMem ∨ sMem.fatal = true ∨ powerState sMem = 3)) :=
  by
    (repeat' apply And.intro) <;> decide +kernel

/-- States and operands that meet the hypotheses of the clauses of `Obligations.PowerStates`, clause by clause. -/
theorem witness_PowerStates :
    -- clause 0.0.0
    (sEntryHot.writable Off.pwrState = true ∧ changing sEntryHot = true) ∧
    -- clause 0.1.0
    (sBusy.writable Off.pwrState = true ∧ changing sBusy = false ∧ idleDevice sBusy = false) ∧
    -- clause 0.10
    (sEntryHot.writable Off.pwrState = true ∧ powerPhase sEntryHot = 1 ∧ sEntryHot.boot.running = false ∧
      thrOf sEntryHot ≤ sEntryHot.fld Off.pwrTherm 31 24) ∧
    -- clause 0.11.0
    (sEntryWake3.writable Off.pwrState = true ∧ powerPhase sEntryWake3 = 1 ∧ sEntryWake3.boot.running = false ∧
      sEntryWake3.fld Off.pwrTherm 31 24 < thrOf sEntryWake3) ∧
    -- clause 0.2
    ((sPwrState 2 0).writable Off.pwrState = true ∧ changing (sPwrState 2 0) = false ∧ idleDevice (sPwrState 2 0) = true ∧
      powerState (sPwrState 2 0) = 2) ∧
    -- clause 0.3.0
    (sD3.writable Off.pwrState = true ∧ changing sD3 = false ∧ idleDevice sD3 = true ∧ powerState sD3 ≠ 2) ∧
    -- clause 0.4
    (sD3.writable Off.pwrState = true ∧ changing sD3 = false ∧ idleDevice sD3 = true ∧ sD3.power.l2 = false) ∧
    -- clause 0.5.0
    (sL2.writable Off.pwrState = true ∧ changing sL2 = false ∧ idleDevice sL2 = true ∧ sL2.power.l2 = true) ∧
    -- clause 0.6
    ((sPwrState 2 2).writable Off.pwrState = true ∧ (powerPhase (sPwrState 2 2) = 2 ∨ (sPwrState 2 2).boot.running = true)) ∧
    -- clause 0.7.0
    ((sPwrState 2 0).writable Off.pwrState = true ∧ powerPhase (sPwrState 2 0) = 0 ∧ (sPwrState 2 0).boot.running = false ∧
      powerState (sPwrState 2 0) = 2 ∧ (sPwrState 2 0).fld Off.pwrTherm 31 24 < thrOf (sPwrState 2 0)) ∧
    -- clause 0.8
    (sHot.writable Off.pwrState = true ∧ powerPhase sHot = 0 ∧ sHot.boot.running = false ∧ powerState sHot = 2 ∧
      thrOf sHot ≤ sHot.fld Off.pwrTherm 31 24) ∧
    -- clause 0.9
    (sD3.writable Off.pwrState = true ∧ powerPhase sD3 = 0 ∧ sD3.boot.running = false ∧ powerState sD3 ≠ 2) ∧
    -- clause 1
    ((powerPhase sD3 ≠ 1 ∨ sD3.fatal = true ∨ ∃ c, c < 64 ∧ sD3.ctxState c = 6)) ∧
    -- clause 10.0
    (powerPhase (sExit 4 false) = 2 ∧ (sExit 4 false).power.exitStep = 4 ∧ (sExit 4 false).fatal = false ∧ (sExit 4 false).host.held = [] ∧
      (sExit 4 false).dcr.cmds = []) ∧
    -- clause 11.0
    (powerPhase (sExit 1 false) = 2 ∧ 1 ≤ (sExit 1 false).power.exitStep ∧ (sExit 1 false).fatal = false ∧ (sExit 1 false).power.repeated = false) ∧
    -- clause 12.0
    (powerPhase (sExit 1 true) = 2 ∧ 1 ≤ (sExit 1 true).power.exitStep ∧ (sExit 1 true).power.exitStep ≤ 4 ∧ (sExit 1 true).fatal = false ∧
      (sExit 1 true).power.repeated = true) ∧
    -- clause 13.0
    (sD3.power.perst = false ∧ sD3.boot.powered = true ∧ sD3.host.dState = DState.d3hot) ∧
    -- clause 13.1
    (sMem.power.perst = false ∧ sMem.boot.powered = true ∧ sMem.host.dState ≠ DState.d3hot) ∧
    -- clause 14
    ((sHeldReset.power.perst = true ∨ sHeldReset.boot.powered = false)) ∧
    -- clause 2.7.0
    (powerPhase sEntryHot = 1 ∧ sEntryHot.fatal = false ∧ (∀ (c : Nat), c < 64 → sEntryHot.ctxState c ≠ 6) ∧ sEntryHot.fld Off.pwrWake 31 31 = 0 ∧
      sEntryHot.power.entry = 2 ∧ 0 < 96) ∧
    -- clause 3.0
    (powerPhase (sEntry 3) = 1 ∧ (sEntry 3).fatal = false ∧ (∀ (c : Nat), c < 64 → (sEntry 3).ctxState c ≠ 6) ∧
      (sEntry 3).fld Off.pwrWake 31 31 = 0 ∧ (sEntry 3).power.entry = 3) ∧
    -- clause 4.0.0
    (powerPhase sEntryWake = 1 ∧ sEntryWake.fatal = false ∧ (∀ (c : Nat), c < 64 → sEntryWake.ctxState c ≠ 6) ∧
      sEntryWake.fld Off.pwrWake 31 31 = 1 ∧ (sEntryWake.power.tripped = false ∨ sEntryWake.power.exitAsked = true) ∧ sEntryWake.power.entry = 2) ∧
    -- clause 4.1.0
    (powerPhase sEntryWake3 = 1 ∧ sEntryWake3.fatal = false ∧ (∀ (c : Nat), c < 64 → sEntryWake3.ctxState c ≠ 6) ∧
      sEntryWake3.fld Off.pwrWake 31 31 = 1 ∧ (sEntryWake3.power.tripped = false ∨ sEntryWake3.power.exitAsked = true) ∧ sEntryWake3.power.entry = 3) ∧
    -- clause 5
    ((wakeEnabled sD3 1 3 = false ∨ sD3.boot.powered = false)) ∧
    -- clause 6.0
    (wakeEnabled (sPwrState 2 0) 0 3 = true ∧ (sPwrState 2 0).boot.powered = true ∧ (sPwrState 2 0).fatal = false ∧ powerState (sPwrState 2 0) = 2 ∧
      powerPhase (sPwrState 2 0) = 0 ∧ (sPwrState 2 0).power.tripped = false) ∧
    -- clause 7.0
    (wakeEnabled sD3 0 3 = true ∧ sD3.boot.powered = true ∧ sD3.fatal = false ∧ powerState sD3 ≤ 1 ∧ powerPhase sD3 ≤ 1) ∧
    -- clause 8.0
    ((powerPhase sD3 ≠ 2 ∨ sD3.power.exitStep = 0 ∨ sD3.fatal = true)) ∧
    -- clause 9.0
    (powerPhase (sExit 1 false) = 2 ∧ 1 ≤ (sExit 1 false).power.exitStep ∧ (sExit 1 false).power.exitStep ≤ 3 ∧ (sExit 1 false).fatal = false) :=
  by
    (repeat' apply And.intro) <;> decide +kernel

/-- States and operands that meet the hypotheses of the clauses of `Obligations.StartsAndResets`, clause by clause. -/
theorem witness_StartsAndResets :
    -- clause 0
    (sMem.boot.powered = true) ∧
    -- clause 1.0
    (sOff.boot.powered = false) ∧
    -- clause 10.1.0t.0
    (powerState sFast ≠ 3 ∧ sFast.boot.running = false) ∧
    -- clause 12.0
    (powerState sMem ≠ 3 ∧ sMem.boot.running = false ∧ sMem.fatal = false ∧ sMem.ready = true ∧ (∀ (c : Nat), c < 64 → (sMem.ctx c).members = [])) ∧
    -- clause 13
    ((¬(sMem.boot.running = true ∧ sMem.boot.step = 1 ∧ sMem.fatal = false))) ∧
    -- clause 14.0
    (((sStart 0 1 false).boot.running = true ∧ (sStart 0 1 false).boot.step = 1 ∧ (sStart 0 1 false).fatal = false) ∧
      (sStart 0 1 false).boot.kind ≠ 3 ∧ (1 = 1 ∨ 1 = 2 ∨ 1 = 3 ∨ 1 = 5 ∨ 1 = 7)) ∧
    -- clause 15.0
    (((sStart 0 6 false).boot.running = true ∧ (sStart 0 6 false).boot.step = 6 ∧ (sStart 0 6 false).fatal = false) ∧
      (sStart 0 6 false).boot.kind ≠ 3 ∧ (sStart 0 6 false).host.held = [] ∧ (sStart 0 6 false).dcr.cmds = []) ∧
    -- clause 16.3.0
    (((sStart 3 2 false).boot.running = true ∧ (sStart 3 2 false).boot.step = 2 ∧ (sStart 3 2 false).fatal = false) ∧
      (sStart 3 2 false).boot.kind = 3 ∧ 0 < 96) ∧
    -- clause 17.0
    (((sStart 3 4 false).boot.running = true ∧ (sStart 3 4 false).boot.step = 4 ∧ (sStart 3 4 false).fatal = false) ∧
      (sStart 3 4 false).boot.kind = 3 ∧ (sStart 3 4 false).host.held = [] ∧ (sStart 3 4 false).dcr.cmds = []) ∧
    -- clause 18.0
    (((sStart 0 10 false).boot.running = true ∧ (sStart 0 10 false).boot.step = 10 ∧ (sStart 0 10 false).fatal = false) ∧
      (sStart 0 10 false).boot.kind ≠ 3) ∧
    -- clause 19
    ((sMem.boot.running = false ∨ sMem.fatal = true)) ∧
    -- clause 2
    (sMem.power.perst = false) ∧
    -- clause 20.0
    ((sStart 0 10 false).boot.running = true ∧ (sStart 0 10 false).fatal = false ∧ (sStart 0 10 false).boot.kind ≠ 3 ∧
      (sStart 0 10 false).boot.step = 10) ∧
    -- clause 21
    ((sStart 0 1 false).boot.running = true ∧ (sStart 0 1 false).fatal = false ∧
      (¬((sStart 0 1 false).boot.kind ≠ 3 ∧ (sStart 0 1 false).boot.step = 10)) ∧
      (¬((sStart 0 1 false).boot.kind = 1 ∧ (sStart 0 1 false).boot.step = 4 ∧ 2 = 2)) ∧ (sStart 0 1 false).boot.repeated = false) ∧
    -- clause 22.0
    ((sStart 0 3 true).boot.running = true ∧ (sStart 0 3 true).fatal = false ∧
      (¬((sStart 0 3 true).boot.kind ≠ 3 ∧ (sStart 0 3 true).boot.step = 10)) ∧
      (¬((sStart 0 3 true).boot.kind = 1 ∧ (sStart 0 3 true).boot.step = 4 ∧ 2 = 2)) ∧ (sStart 0 3 true).boot.repeated = true) ∧
    -- clause 23.0
    (sMem.dcr.writing = none ∧ sMem.flash.cmds = []) ∧
    -- clause 3.2.0f.0
    ((sPerst sMemWarm).power.perst = true ∧ (sPerst sMemWarm).boot.powered = true ∧ powerState (sPerst sMemWarm) ≠ 3 ∧
      (sPerst sMemWarm).fld Off.hubRstctl 31 31 = 1) ∧
    -- clause 3.2.0t.0
    ((sPerst sFast).power.perst = true ∧ (sPerst sFast).boot.powered = true ∧ powerState (sPerst sFast) ≠ 3 ∧
      (sPerst sFast).fld Off.hubRstctl 31 31 = 1) ∧
    -- clause 3.3.0.0
    ((sPerst sMem).power.perst = true ∧ (sPerst sMem).boot.powered = true ∧ powerState (sPerst sMem) ≠ 3 ∧ (sPerst sMem).fld Off.hubRstctl 31 31 = 0) ∧
    -- clause 5.0
    ((sPme sMem).power.perst = false ∧ (sPme sMem).power.pmeAck = true ∧ (sPme sMem).boot.running = false ∧ (sPme sMem).fld Off.recov 2 0 ≠ 2) ∧
    -- clause 6.0
    (sPush.power.perst = false ∧ sPush.power.pmeAck = true ∧ sPush.boot.running = false ∧ sPush.fld Off.recov 2 0 = 2) ∧
    -- clause 7
    (powerState (sStart 0 1 false) ≠ 3 ∧ (sStart 0 1 false).boot.powered = true ∧ (sStart 0 1 false).boot.running = true ∧ (sStart 0 1 false).fatal = false) ∧
    -- clause 8
    (powerState sMemFatal ≠ 3 ∧ sMemFatal.boot.powered = true ∧ sMemFatal.fatal = true) ∧
    -- clause 9
    (sOff.boot.powered = false) :=
  by
    (repeat' apply And.intro) <;> decide +kernel

/-- States and operands that meet the hypotheses of the clauses of `Obligations.SlotsAndSpares`, clause by clause. -/
theorem witness_SlotsAndSpares :
    -- clause 0.1
    (0 < 2 ∧ 0 ≤ 48 ∧ 2 < 104 ∧ (¬2 ∈ List.filter (fun k => slotState sSlots k == 0) (dieSlots 0))) ∧
    -- clause 1.0
    (((sMem.eng e0.val).online = false ∨ sMem.fatal = true ∨ SMap.get zeroNat sMem.boot.ueTraps (sMem.eng e0.val).slot < 2)) ∧
    -- clause 1.1.5
    (((sServUe 2).eng e0.val).online = true ∧ (sServUe 2).fatal = false ∧
      2 ≤ SMap.get zeroNat (sServUe 2).boot.ueTraps ((sServUe 2).eng e0.val).slot ∧ ((sServUe 2).eng e0.val).slot < 104 ∧
      ((sServUe 2).eng e0.val).bound = false ∧ 4 ≠ e0.val) ∧
    -- clause 1.2
    (((sMem.eng e0.val).rebind = false ∨ (sMem.eng e0.val).spare = 0 ∨ slotState sMem ((sMem.eng e0.val).spare - 1) ≠ 5)) ∧
    -- clause 1.3.8
    ((sSpare.eng e0.val).rebind = true ∧ (sSpare.eng e0.val).spare ≠ 0 ∧ (sSpare.eng e0.val).spare ≤ 104 ∧
      slotState sSpare ((sSpare.eng e0.val).spare - 1) = 5 ∧ 4 ≠ e0.val) ∧
    -- clause 1.4.4
    ((sSpare.eng e0.val).rebind = true ∧ (sSpare.eng e0.val).spare ≠ 0 ∧ (sSpare.eng e0.val).spare ≤ 104 ∧
      slotState sSpare ((sSpare.eng e0.val).spare - 1) = 5 ∧ 4 ≠ e0.val) ∧
    -- clause 1.5.0
    (sMem.writable Off.hubRetire = true ∧ (sMem.fld Off.engCount 22 16 ≤ 3 ∨ (sMem.eng 3).online = false)) ∧
    -- clause 1.6.0
    (sServ.writable Off.hubRetire = true ∧ 3 < sServ.fld Off.engCount 22 16 ∧ (sServ.eng 3).online = true ∧ (sServ.eng 3).slot < 104 ∧
      (sServ.eng 3).bound = false) :=
  by
    (repeat' apply And.intro) <;> decide +kernel

/-- States and operands that meet the hypotheses of the clauses of `Obligations.ConfigurationRecord`, clause by clause. -/
theorem witness_ConfigurationRecord :
    -- clause 0.0
    (List.length (rec1 1).slips ≤ 16) ∧
    -- clause 2.0
    (sMem.dcr.writing = none ∧ writeDue sMem = false) ∧
    -- clause 2.1.0
    ((sDcrDue.dcr.writing = none ∧ sDcrDue.powerFail = false ∧ sDcrDue.ready = true ∧ sDcrDue.fatal = false) ∧ writeDue sDcrDue = true) ∧
    -- clause 2.2.0
    (sTopGen.dcr.writing.isSome = true ∧ sTopGen.fatal = false ∧ sTopGen.dcr.at_ < 2) ∧
    -- clause 2.3.0
    ((sDcrAt 2).dcr.writing.isSome = true ∧ (sDcrAt 2).fatal = false ∧ (sDcrAt 2).dcr.at_ = 2 ∧ (sDcrAt 2).dcr.failed = false ∧
      (sDcrAt 2).dcr.cmds = []) ∧
    -- clause 2.4.0
    (lmsRsv sMem ≤ lmsNext sMem + 256 ∧ lmsRsv sMem < 1048576 ∧
      (sMem.dcr.writing = none ∧ sMem.powerFail = false ∧ sMem.ready = true ∧ sMem.fatal = false)) ∧
    -- clause 2.5
    ((sTopGen.ready = false ∨ lmsNext sTopGen + 256 < lmsRsv sTopGen ∨ 1048576 ≤ lmsRsv sTopGen ∨ sTopGen.dcr.writing ≠ none)) ∧
    -- clause 2.6.0
    (sTopGen.dcr.writing.isSome = true ∧ sTopGen.writable Off.hubDcrcmd = true) ∧
    -- clause 2.7.0
    (sTopGen.writable Off.hubDcrcmd = true ∧
      (sTopGen.dcr.writing ≠ none ∨ sTopGen.dcr.cmds ≠ [] ∨ memDown sTopGen = true ∨ sTopGen.boot.memReady = false)) ∧
    -- clause 2.8.3.0
    (sMem.writable Off.hubDcrcmd = true ∧ (sMem.dcr.writing = none ∧ sMem.powerFail = false ∧ sMem.ready = true ∧ sMem.fatal = false) ∧
      sMem.dcr.cmds = [] ∧ memDown sMem = false ∧ sMem.boot.memReady = true ∧
      (memRead (sMem.setReg64 Off.hubDcrcmd (327680 / 64 * 64)) Requester.sched (327680 / 64 * 64) 256).snd.fst = MemEnd.ok) :=
  by
    (repeat' apply And.intro) <;> decide +kernel

/-- States and operands that meet the hypotheses of the clauses of `Obligations.FirmwareResults`, clause by clause. -/
theorem witness_FirmwareResults :
    -- clause 0
    ((sFw.writable Off.fwUpd = true ∧ (sFw.fld64 Off.fwUpd 55 54 = 1 ∨ sFw.dcr.writing ≠ none ∨ sFw.powerFail = true)) ∧
    -- clause 1.0
    (sMem.writable Off.fwUpd = true ∧ (¬(sMem.fld64 Off.fwUpd 55 54 = 1 ∨ sMem.dcr.writing ≠ none ∨ sMem.powerFail = true))) ∧
    -- clause 2
    ((sDcrAt 0).writable Off.fwUpd = true ∧ (sDcrAt 0).dcr.writing ≠ none) ∧
    -- clause 3
    (sMem.writable Off.fwUpd = true ∧ sMem.dcr.writing = none) ∧
    -- clause 4
    ((sMem.fld64 Off.fwUpd 55 54 ≠ 1 ∨ memDown sMem = true ∨ sMem.fatal = true ∨ sMem.powerFail = true)) ∧
    -- clause 6.0.0
    ((sRecovOff 1 100 0 0).writable Off.recov = true ∧ (sRecovOff 1 100 0 0).fld Off.recov 2 0 = 1) ∧
    -- clause 6.1
    (sMem.writable Off.recov = true ∧ sMem.fld Off.recov 2 0 ≠ 1) ∧
    -- clause 6.2
    (sMem.writable Off.recov = true ∧
      (sMem.fld Off.recov 2 0 ≠ 2 ∨ 0 ≠ sMem.boot.push.length ∨ sMem.boot.pushLen ≤ sMem.boot.push.length ∨ sMem.boot.push.length % 65536 ≠ 0)) ∧
    -- clause 6.3.0
    ((sRecovOff 2 100 0 0).writable Off.recov = true ∧ (sRecovOff 2 100 0 0).fld Off.recov 2 0 = 2 ∧ 0 = (sRecovOff 2 100 0 0).boot.push.length ∧
      (sRecovOff 2 100 0 0).boot.push.length < (sRecovOff 2 100 0 0).boot.pushLen ∧ (sRecovOff 2 100 0 0).boot.push.length % 65536 = 0) ∧
    -- clause 6.4
    (sMem.writable Off.recov = true ∧ (sMem.fld Off.recov 2 0 ≠ 2 ∨ sMem.boot.push.length ≠ sMem.boot.pushLen))) ∧
    -- clause 5.1.0
    ((sFw.fld64 Off.fwUpd 55 54 = 1 ∧ memDown sFw = false ∧ sFw.fatal = false ∧ sFw.powerFail = false) ∧
      (memRead sFw Requester.sched (sFw.fld64 Off.fwUpd 47 6 * 64) 4096).snd.fst = MemEnd.ok ∧
      fwLen (memRead sFw Requester.sched (sFw.fld64 Off.fwUpd 47 6 * 64) 4096).snd.snd ≤ 8384512 ∧
      (memRead sFw Requester.sched (sFw.fld64 Off.fwUpd 47 6 * 64) (4096 + fwLen (memRead sFw Requester.sched (sFw.fld64 Off.fwUpd 47 6 * 64) 4096).snd.snd)).snd.fst = MemEnd.ok ∧
      verifyImage (minSvn sFw) (memRead sFw Requester.sched (sFw.fld64 Off.fwUpd 47 6 * 64) (4096 + fwLen (memRead sFw Requester.sched (sFw.fld64 Off.fwUpd 47 6 * 64) 4096).snd.snd)).snd.snd = Sum.inr 1) ∧
    -- clause 6.5
    (((sRecovOff 2 100 100 0).fld Off.recov 2 0 = 2 ∧ (sRecovOff 2 100 100 0).boot.push.length = (sRecovOff 2 100 100 0).boot.pushLen) ∧
      verifyImage (fuseSvn (sRecovOff 2 100 100 0)) (sRecovOff 2 100 100 0).boot.push = .inr 1) :=
  ⟨by
    (repeat' apply And.intro) <;> decide +kernel,
   ⟨by decide +kernel,
    (by
     rw [sFw_read (by decide)]),
    (by
     rw [sFw_len]
     decide),
    (by
     rw [sFw_len, sFw_read (by decide)]),
    (by
     rw [sFw_len]
     exact sFw_verify)⟩,
   ⟨by decide +kernel, rfl⟩⟩

/-- States and operands that meet the hypotheses of the clauses of `Obligations.SpdmResults`, clause by clause. -/
theorem witness_SpdmResults :
    -- clause 0
    (olmup sMem = false) ∧
    -- clause 1.0.0
    (olmup (sSpdm 100 1024) = true ∧ (true = false ∨ lmsExhausted (sSpdm 100 1024) = false) ∧ askedBlocks (6) true = none) ∧
    -- clause 1.1
    (olmup (sSpdm 100 1024) = true ∧ (askedBlocks (0) false).isSome = true) ∧
    -- clause 1.10
    (olmup (sSpdm 100 1024) = true ∧ ([] : List Byte).length ≤ 65536) ∧
    -- clause 1.2.0
    (olmup (sSpdm 1048576 1048576) = true ∧ lmsExhausted (sSpdm 1048576 1048576) = true) ∧
    -- clause 1.3.0
    (olmup (sSpdm 1024 1024) = true ∧ (askedBlocks (0) true).isSome = true ∧ lmsExhausted (sSpdm 1024 1024) = false ∧
      lmsRsv (sSpdm 1024 1024) ≤ lmsNext (sSpdm 1024 1024)) ∧
    -- clause 1.4
    (olmup (sSpdm 100 1024) = true ∧ (askedBlocks (0) true).isSome = true ∧ lmsExhausted (sSpdm 100 1024) = false ∧
      lmsNext (sSpdm 100 1024) < lmsRsv (sSpdm 100 1024)) ∧
    -- clause 1.7.0
    (olmup (sSpdm 100 1024) = true ∧ 0 ≤ 1) ∧
    -- clause 1.8.0
    (olmup (sSpdm 100 1024) = true ∧ 2 ≤ 2) ∧
    -- clause 1.9
    (olmup (sSpdm 100 1024) = true ∧ 65536 < (List.replicate 65537 5).length) :=
  by
    (repeat' apply And.intro) <;> decide +kernel

/-- States and operands that meet the hypotheses of the clauses of `Obligations.SessionResults`, clause by clause. -/
theorem witness_SessionResults :
    -- clause 0.0.0
    ((sOpening 5).writable Off.scmd = true ∧ ((sOpening 5).side.opening ≠ none ∨ (sOpening 5).side.armed ≠ none)) ∧
    -- clause 0.1.0
    (sMem.writable Off.scmd = true ∧ (¬(sMem.side.opening ≠ none ∨ sMem.side.armed ≠ none))) ∧
    -- clause 0.3.4
    (sMem.writable Off.scmd = true ∧ 3 ≠ 2) ∧
    -- clause 1.0
    (sMem.writable Off.relayCtl = true ∧ sMem.side.opening = none) ∧
    -- clause 2.0
    ((sOpening 5).writable Off.relayCtl = true ∧ (sOpening 5).side.opening = some open0) ∧
    -- clause 4.0
    ((sOpening 5).side.opening = some open0 ∧ (sOpening 5).us < open0.us + 10000000) ∧
    -- clause 4.1.0
    ((sOpening 10000000).side.opening = some open0 ∧ open0.us + 10000000 ≤ (sOpening 10000000).us) :=
  by decide +kernel

/-- States and operands that meet the hypotheses of the clauses of `Obligations.HostPortResults`, clause by clause. -/
theorem witness_HostPortResults :
    -- clause 0.0
    (olmup sMem = false) ∧
    -- clause 10.4
    (305419896 + 4 < 2 ^ 64 ∧ 2 < 4) ∧
    -- clause 10.5
    (305419896 + 4 < 2 ^ 64 ∧ (305419895 < 305419896 ∨ 305419896 + 4 ≤ 305419895)) ∧
    -- clause 11
    ((powerState State.reset = 3 ∨ State.reset.boot.powered = false)) ∧
    -- clause 12
    (powerState sMem ≠ 3 ∧ sMem.boot.powered = true) ∧
    -- clause 14
    ((3145728 ≤ 3145728 ∨ 3145728 % 4 ≠ 0)) ∧
    -- clause 15
    (2097152 ≤ 3145724 ∧ 3145724 < 3145728 ∧ 3145724 ≠ Off.errHead ∧ 3145724 % 4 = 0 ∧ sMem.boot.powered = true ∧ sMem.writable (3145724) = true) ∧
    -- clause 16
    (64 < 3145728 ∧ 64 % 4 = 0 ∧ sMem.boot.powered = true ∧ hostSilent sMem = false) ∧
    -- clause 3
    (State.reset.boot.powered = false) ∧
    -- clause 6
    ((olmup sMem = false ∨ sMem.power.perst = true)) ∧
    -- clause 7
    (olmup (sSpdm 100 1024) = true ∧ (sSpdm 100 1024).power.perst = false) ∧
    -- clause 8.3
    (sMem.writable Off.irqStat = true ∧ 0 < 32) ∧
    -- clause 9.5
    (305419896 + [1, 2, 3].length < 2 ^ 64 ∧ (305419895 < 305419896 ∨ 305419896 + [1, 2, 3].length ≤ 305419895)) :=
  by
    (repeat' apply And.intro) <;> decide +kernel

end Sys2Proof.Tests
end

section
/-! PROOFS. The bits of a number, read and replaced as fields, and the rules of a register's fields. -/

namespace Sys2Proof

/-- A field is the number's bits from `lo` up to `hi`. -/
theorem testBit_bits (x hi lo i : Nat) : (bits x hi lo).testBit i = (decide (i < hi + 1 - lo) && x.testBit (lo + i)) := by
  rw [bits, Nat.testBit_mod_two_pow, Nat.testBit_shiftRight]

/-- Replacing a field keeps the digits above it and below it. -/
theorem putBits_eq (x hi lo v : Nat) :
    putBits x hi lo v = 2 ^ lo * (2 ^ (hi + 1 - lo) * (x >>> lo >>> (hi + 1 - lo)) + v % 2 ^ (hi + 1 - lo)) + x % 2 ^ lo := by
  have field : 2 ^ (hi + 1 - lo) * (x >>> lo >>> (hi + 1 - lo)) + bits x hi lo = x >>> lo := by
    rw [bits, Nat.shiftRight_eq_div_pow (x >>> lo), Nat.div_add_mod]
  have whole : 2 ^ lo * (x >>> lo) + x % 2 ^ lo = x := by
    rw [Nat.shiftRight_eq_div_pow, Nat.div_add_mod]
  rw [← field, Nat.mul_add] at whole
  simp only [putBits, Nat.shiftLeft_eq, Nat.mul_add, Nat.mul_comm _ (2 ^ lo)]
  omega

/-- `putBits` takes the bits `lo` to `hi` from `v` and the others from `x`. -/
theorem testBit_putBits (x hi lo v i : Nat) :
    (putBits x hi lo v).testBit i = if lo ≤ i ∧ i ≤ hi then v.testBit (i - lo) else x.testBit i := by
  rw [putBits_eq, Nat.testBit_two_pow_mul_add _ (Nat.mod_lt _ (Nat.two_pow_pos lo)),
    Nat.testBit_two_pow_mul_add _ (Nat.mod_lt _ (Nat.two_pow_pos (hi + 1 - lo)))]
  by_cases below : i < lo
  · rw [if_pos below, if_neg (by omega), Nat.testBit_mod_two_pow, decide_eq_true below, Bool.true_and]
  · rw [if_neg below]
    by_cases inside : i ≤ hi
    · rw [if_pos (by omega), if_pos (by omega), Nat.testBit_mod_two_pow, decide_eq_true (by omega), Bool.true_and]
    · rw [if_neg (by omega), if_neg (by omega), Nat.testBit_shiftRight, Nat.testBit_shiftRight]
      congr 1
      omega

namespace Machine.State

variable (s : State) {off o hi lo hi' lo' : Nat} (v : Nat)

/-- The bits of a register after a write of one of its fields. -/
theorem testBit_reg_setFld (i : Nat) : ((s.setFld off hi lo v).reg off).testBit i =
    (decide (i < 32) && if lo ≤ i ∧ i ≤ hi then v.testBit (i - lo) else (s.reg off).testBit i) := by
  rw [setFld, reg_setReg_same, Nat.testBit_mod_two_pow, testBit_putBits]

theorem reg_lt (off : Nat) : s.reg off < 2 ^ 32 := BitVec.isLt _

/-- A field reads as written. -/
theorem fld_setFld_same (h : hi < 32) : (s.setFld off hi lo v).fld off hi lo = v % 2 ^ (hi + 1 - lo) := by
  apply Nat.eq_of_testBit_eq
  intro i
  rw [fld, testBit_bits, testBit_reg_setFld, Nat.testBit_mod_two_pow]
  by_cases inside : i < hi + 1 - lo
  · rw [decide_eq_true (show lo + i < 32 by omega), if_pos (by omega), Nat.add_sub_cancel_left, Bool.true_and]
  · simp [inside]

/-- A write of a field leaves the fields above it and below it. -/
theorem fld_setFld_disjoint (h : hi' < lo ∨ hi < lo') : (s.setFld off hi lo v).fld off hi' lo' = s.fld off hi' lo' := by
  apply Nat.eq_of_testBit_eq
  intro i
  rw [fld, fld, testBit_bits, testBit_bits, testBit_reg_setFld]
  by_cases inside : i < hi' + 1 - lo'
  · rw [if_neg (by omega), ← Nat.testBit_mod_two_pow, Nat.mod_eq_of_lt (s.reg_lt off)]
  · simp [inside]

/-- A write of a field leaves the other registers. -/
theorem reg_setFld_other (h : o ≠ off) : (s.setFld off hi lo v).reg o = s.reg o := reg_setReg_other _ _ _ h

/-- A write of a field changes registers alone. -/
theorem setFld_with_regs (r : SMap Word32) : { s.setFld off hi lo v with regs := r } = { s with regs := r } := rfl

end Machine.State
end Sys2Proof
end

section
/-! PROOFS. The window BAR2: a write of its base (R35). -/

namespace Sys2Proof.Machine

variable {s : State} {v : Word32}

/-- R35: a base above 800 is refused with REJ, and the write's own REJ bit is not applied. -/
theorem exec_hubBar2BaseWrite_refused (hw : s.writable Off.bar2Base = true) (hv : 800 < bits v.toNat 9 0) :
    exec (.hubBar2BaseWrite v) s = .next (s.setFld Off.bar2Base 31 31 1) := by
  simp [exec, execHubBar2BaseWrite, bar2BaseWrite, hw, hv]

/-- R35: a base of at most 800 is taken, after REJ is cleared where the write's REJ bit is 1. -/
theorem exec_hubBar2BaseWrite_taken (hw : s.writable Off.bar2Base = true) (hv : bits v.toNat 9 0 ≤ 800) :
    exec (.hubBar2BaseWrite v) s =
      .next ((if bit v.toNat 31 then s.setFld Off.bar2Base 31 31 0 else s).setFld Off.bar2Base 9 0 v.toNat) := by
  simp [exec, execHubBar2BaseWrite, bar2BaseWrite, hw, Nat.not_lt.mpr hv]

/-- Settles O30: the two outcomes of the write, read field by field with the rules of `setFld`. -/
theorem bar2WindowMoves : Obligations.Bar2WindowMoves := by
  intro v s hw
  refine ⟨fun hv => ⟨exec_hubBar2BaseWrite_refused hw hv, s.fld_setFld_disjoint _ (.inl (by decide))⟩,
    fun hv => ⟨_, exec_hubBar2BaseWrite_taken hw hv, ?base, ?rej, ?reserved, ?frame, ?others⟩⟩
  case base => exact State.fld_setFld_same _ _ (by decide)
  case rej =>
    rw [State.fld_setFld_disjoint _ _ (.inr (by decide))]
    split
    · exact State.fld_setFld_same _ _ (by decide)
    · rfl
  case reserved =>
    rw [State.fld_setFld_disjoint _ _ (.inr (by decide))]
    split
    · exact State.fld_setFld_disjoint _ _ (.inl (by decide))
    · rfl
  case frame =>
    rw [State.setFld_with_regs]
    split
    · rw [State.setFld_with_regs]
    · rfl
  case others =>
    intro off hoff
    rw [State.reg_setFld_other _ _ hoff]
    split
    · exact State.reg_setFld_other _ _ hoff
    · rfl

end Sys2Proof.Machine
end

section
/-! PROOFS. The scalar instructions: what their function codes name, and what they do when they issue (R76 to R80). -/

namespace Sys2Proof

/-- The sign extension of a word's number is the word's signed value. -/
theorem sext_toNat {w : Nat} (x : BitVec (w + 1)) : sext (w + 1) x.toNat = x.toInt := by
  rw [sext, Nat.mod_eq_of_lt x.isLt, BitVec.toInt_eq_toNat_cond, Nat.add_sub_cancel, Nat.pow_succ]
  split <;> split <;> push_cast <;> omega

/-- The residue of an integer modulo `2 ^ w` is the number of its word. -/
theorem imod_two_pow (z : Int) (w : Nat) : imod z (2 ^ w) = (BitVec.ofInt w z).toNat := (BitVec.toNat_ofInt ..).symm

namespace Machine

/-! ### Table 3-6

The two codes with a bare modulus are first unfolded over a variable `m`: with the numeral in its place the kernel would unfold `x + 2 ^ 64` one
successor at a time. -/

theorem aluFn_sub_eq {m : Nat} (hm : 2 ^ 64 = m) (x y : Nat) : aluFn 0x01 x y = (x + m - y % m) % m := by
  unfold aluFn
  rw [hm]
  rfl

theorem aluFn_sar_eq {m : Nat} (hm : 2 ^ 64 = m) (x y : Nat) : aluFn 0x09 x y = imod (sext 64 x >>> (y % 64)) m := by
  unfold aluFn
  rw [hm]
  rfl

section Words

variable (x y : BitVec 64)

theorem aluFn_sub : aluFn 0x01 x.toNat y.toNat = (x - y).toNat := by
  rw [aluFn_sub_eq rfl, Nat.mod_eq_of_lt y.isLt, BitVec.toNat_sub, Nat.add_comm x.toNat, Nat.sub_add_comm (Nat.le_of_lt y.isLt)]

theorem aluFn_sar : aluFn 0x09 x.toNat y.toNat = (x.sshiftRight (y.toNat % 64)).toNat := by
  rw [aluFn_sar_eq rfl, sext_toNat, imod_two_pow, BitVec.sshiftRight]

theorem sext_le_sext_iff : sext 64 x.toNat ≤ sext 64 y.toNat ↔ x.sle y = true := by
  rw [sext_toNat, sext_toNat, BitVec.sle_iff_toInt_le]

theorem aluFn_smin : aluFn 0x0A x.toNat y.toNat = (if x.sle y then x else y).toNat := by
  rw [apply_ite BitVec.toNat]
  exact ite_congr (propext (sext_le_sext_iff x y)) (fun _ => rfl) fun _ => rfl

theorem aluFn_smax : aluFn 0x0B x.toNat y.toNat = (if x.sle y then y else x).toNat := by
  rw [apply_ite BitVec.toNat]
  exact ite_congr (propext (sext_le_sext_iff x y)) (fun _ => rfl) fun _ => rfl

theorem aluFn_umin : aluFn 0x0C x.toNat y.toNat = (if x.ule y then x else y).toNat := by
  rw [apply_ite BitVec.toNat]
  exact Nat.min_def.trans (ite_congr (propext BitVec.ule_iff_toNat_le.symm) (fun _ => rfl) fun _ => rfl)

theorem aluFn_umax : aluFn 0x0D x.toNat y.toNat = (if x.ule y then y else x).toNat := by
  rw [apply_ite BitVec.toNat]
  exact Nat.max_def.trans (ite_congr (propext BitVec.ule_iff_toNat_le.symm) (fun _ => rfl) fun _ => rfl)

/-! ### Table 3-7 -/

theorem cmpFn_eq : cmpFn 0 x.toNat y.toNat = (x == y) := decide_eq_decide.mpr BitVec.toNat_inj

theorem cmpFn_ne : cmpFn 1 x.toNat y.toNat = (x != y) := congrArg not (cmpFn_eq x y)

theorem cmpFn_slt : cmpFn 2 x.toNat y.toNat = x.slt y := by
  rw [cmpFn, sext_toNat, sext_toNat, BitVec.slt]

theorem cmpFn_sge : cmpFn 3 x.toNat y.toNat = y.sle x := by
  rw [cmpFn, sext_toNat, sext_toNat, BitVec.sle]

end Words

/-! ### Codes that are not listed -/

section Codes

variable (e : EngId) {f : Fields}

theorem legal_nop_unassigned {w : Word64} (h : bits w.toNat 63 56 ≠ 0) : legal (.nop e w) = false :=
  Bool.and_eq_false_imp.mpr fun op => absurd (beq_iff_eq.mp op) h

/-- A word whose code passes the last that is listed is illegal. -/
theorem unlisted_illegal {fields : Bool} {code last : Nat} (h : last < code) : (fields && decide (code ≤ last)) = false := by
  rw [decide_eq_false (Nat.not_le.mpr h), Bool.and_false]

theorem legal_plog_unlisted (h : fld f 40 39 = 3) : legal (.plog e f) = false :=
  Bool.and_eq_false_iff.mpr (.inr (bne_eq_false_iff_eq.mpr h))

end Codes

/-! ### Issue -/

/-- A legal NOP runs in the sequencer and moves ENG_PC alone (R75, R76). -/
theorem exec_nop_issuable {e : EngId} {w : Word64} {s : State} (h : Issuable s e (fieldsOf w) (.nop e w)) :
    exec (.nop e w) s = .next (s.modEng e.val fun g => g.past 8) := by
  have op : opOf (.nop e w) = 0 := Decidable.byContradiction fun unassigned =>
    Bool.false_ne_true ((legal_nop_unassigned e unassigned).symm.trans h.legal)
  have sequenced : queueOf (.nop e w) = none := by rw [queueOf, op]; rfl
  have bytes : issueBytes true (.nop e w) = 8 := by
    rw [show issueBytes true (.nop e w) = instrBytes (.nop e w) from rfl, instrBytes, op]
    rfl
  rw [exec, execNop, issue_free h rfl, issueNow, sequenced, h.guard, bytes]
  rfl

section Queue0

variable {s : State} {e : EngId} {f : Fields} {i : Instr}

/-- An instruction of queue 0 that can run whenever it is a head, and whose run changes its engine alone, issues with that change (R76). What the
instruction's constructor decides is found by unfolding it. -/
theorem exec_queue0 (n : Nat) {F : Engine → Engine} (h : Issuable s e f i)
    (run : ∀ t : State, t.eng e.val = (s.eng e.val).past n →
      runInstr e.val (entryOf (s.eng e.val) i) t = t.setEng e.val (F (s.eng e.val)))
    (online : (F (s.eng e.val)).online = (s.eng e.val).online := by rfl)
    (queues : (F (s.eng e.val)).queues = (s.eng e.val).queues := by rfl)
    (deferred : (F (s.eng e.val)).deferred = (s.eng e.val).deferred := by rfl)
    (issued : exec i s = .next (issue e f i s) := by rfl) (queue : queueOf i = some 0 := by rw [queueOf, opOf]; rfl)
    (follower : followerLegal e i = true := by rfl) (words : issueBytes true i = instrBytes i := by rfl)
    (bytes : instrBytes i = n := by rw [instrBytes, opOf]; rfl)
    (head : ∀ g, headKind g (entryOf (s.eng e.val) i) = .runs := by intro g; rfl) :
    exec i s = .next (s.modEng e.val F) := by
  have on := issue_online h
  have once : (s.setEng e.val ((s.eng e.val).past n)).setEng e.val (F (s.eng e.val)) = s.setEng e.val (F (s.eng e.val)) :=
    State.setEng_setEng _ _ _ _ on (online.trans on)
  rw [issued, issue_setEng h queue follower (words.trans bytes) (fun g _ _ _ _ _ => .inl (head g))
    ((run _ (State.eng_setEng_same ..)).trans once) (queues.trans h.queues) (deferred.trans h.deferred)]
  rfl

/-- A write of registers on an engine that has moved past its instruction. -/
theorem modRegs_past {t : State} {k n : Nat} {g : Engine} {R : RegFile → RegFile} (h : t.eng k = g.past n) :
    modRegs t k R = t.setEng k { g.past n with regs := R g.regs } := by
  rw [modRegs, State.modEng, h]
  rfl

/-- SGET writes the source that SEL names, as it stands before ENG_PC moves (R80). -/
theorem exec_sget_issuable (h : Issuable s e f (.sget e f)) :
    exec (.sget e f) s = .next (s.modEng e.val fun g => { g.past 8 with
      regs := g.regs.setS (fld f 51 47) (sgetSource e.val g g.regs (fld f 46 40)) }) := by
  refine exec_queue0 8 h fun t past => ?_
  rw [show runInstr _ _ t = effSget e.val f (s.eng e.val).regs t from rfl, effSget, modRegs_past past, past]
  rfl

theorem exec_flgclr_issuable (h : Issuable s e f (.flgclr e f)) :
    exec (.flgclr e f) s = .next (s.modEng e.val fun g => { g.past 8 with flags := g.flags &&& ~~~(BitVec.ofNat 5 (fld f 4 0)) }) := by
  refine exec_queue0 8 h fun t past => ?_
  rw [show runInstr _ _ t = effFlgclr e.val f t from rfl, effFlgclr, State.modEng, past]
  rfl

end Queue0

/-- Settles O5: each code on words, then NOP in the sequencer and every other instruction in queue 0, where it writes registers or flags of its engine. -/
theorem scalarResults : Obligations.ScalarResults := by
  refine ⟨⟨fun x y => ?alu, fun x y => ?cmp, fun a b => ⟨rfl, rfl, rfl⟩, fun e f => ?illegal⟩, fun e f w s => ?issue, fun e f s h => ?sget⟩
  case alu =>
    exact ⟨rfl, aluFn_sub x y, rfl, rfl, rfl, rfl, rfl, BitVec.toNat_shiftLeft.symm, (BitVec.toNat_ushiftRight ..).symm, aluFn_sar x y,
      aluFn_smin x y, aluFn_smax x y, aluFn_umin x y, aluFn_umax x y⟩
  case cmp => exact ⟨cmpFn_eq x y, cmpFn_ne x y, cmpFn_slt x y, cmpFn_sge x y, rfl, rfl⟩
  case illegal =>
    exact ⟨fun _ => legal_nop_unassigned e, unlisted_illegal, unlisted_illegal, unlisted_illegal, unlisted_illegal,
      legal_plog_unlisted e⟩
  case issue =>
    refine ⟨exec_nop_issuable, ?_, ?_, ?_, ?_, ?_, ?_, ?_, ?_, ?li64, exec_flgclr_issuable⟩
    case li64 => exact fun h => exec_queue0 16 h fun t past => show effLi64 _ _ _ t = _ from modRegs_past past
    all_goals
      intro h
      refine exec_queue0 8 h fun t past => ?_
      simp only [runInstr, entryOf]
      exact modRegs_past past
  case sget =>
    refine ⟨_, exec_sget_issuable h, fun sel => if_pos sel, ?_, ?_, ?_, ?_, ?_, ?_, ?_⟩
    all_goals
      intro sel
      rw [sel]
      rfl

end Machine
end Sys2Proof
end

section
/-! PROOFS. Error records: their registers, the interrupt they raise, the ring they stand in, and ERR_HEAD (R328, R443). -/

namespace Sys2Proof.Machine

namespace State

variable (s : State) {off o : Nat} (v n : Nat)

/-! ### Whole words and 64-bit registers -/

/-- The field of all 32 bits is the register. -/
theorem fld_whole (off : Nat) : s.fld off 31 0 = s.reg off := Nat.mod_eq_of_lt (s.reg_lt off)

/-- A count in a whole register holds at the register's largest value (R471). -/
theorem reg_count_whole (off : Nat) : (s.count off 31 0 n).reg off = min (s.reg off + n) (2 ^ 32 - 1) := by
  rw [← fld_whole, count, fld_setFld_same _ _ (by decide), fld_whole]
  exact Nat.mod_eq_of_lt (by omega)

theorem reg_setReg64_other (h : o ≠ off) (h4 : o ≠ off + 4) : (s.setReg64 off v).reg o = s.reg o := by
  rw [setReg64, reg_setReg_other _ _ _ h4, reg_setReg_other _ _ _ h]

/-- A 64-bit register reads as written. -/
theorem reg64_setReg64_same (off : Nat) : (s.setReg64 off v).reg64 off = v % 2 ^ 64 := by
  rw [reg64, setReg64, reg_setReg_same, reg_setReg_other _ _ _ (by omega), reg_setReg_same]
  omega

/-- A write of a 64-bit register leaves those whose bytes lie below it or above it. -/
theorem reg64_setReg64_disjoint (h : o + 8 ≤ off ∨ off + 8 ≤ o) : (s.setReg64 off v).reg64 o = s.reg64 o := by
  rw [reg64, reg64, reg_setReg64_other _ _ (by omega) (by omega), reg_setReg64_other _ _ (by omega) (by omega)]

/-! ### Four words -/

section Words

variable (w0 w1 w2 w3 : Nat)

theorem reg_setWords_other (h : o < off ∨ off + 32 ≤ o) : (s.setWords off w0 w1 w2 w3).reg o = s.reg o := by
  unfold setWords
  iterate 4 rw [reg_setReg64_other _ _ (by omega) (by omega)]

/-- Four words read as written. -/
theorem reg64_setWords (off : Nat) :
    let t := s.setWords off w0 w1 w2 w3
    t.reg64 off = w0 % 2 ^ 64 ∧ t.reg64 (off + 8) = w1 % 2 ^ 64 ∧ t.reg64 (off + 16) = w2 % 2 ^ 64 ∧ t.reg64 (off + 24) = w3 % 2 ^ 64 := by
  unfold setWords
  refine ⟨?_, ?_, ?_, reg64_setReg64_same ..⟩
  · iterate 3 rw [reg64_setReg64_disjoint _ _ (by omega)]
    exact reg64_setReg64_same ..
  · iterate 2 rw [reg64_setReg64_disjoint _ _ (by omega)]
    exact reg64_setReg64_same ..
  · rw [reg64_setReg64_disjoint _ _ (by omega)]
    exact reg64_setReg64_same ..

end Words

/-! ### Interrupts -/

/-- The only register that sending a vector writes is the one of its pending bit. -/
theorem reg_sendVector_other (h : o ≠ Off.msixPba v) : (s.sendVector v).reg o = s.reg o := by
  unfold sendVector
  split
  · rfl
  · split
    · exact reg_setFld_other _ _ h
    · rfl

/-- The pending bits of the 256 vectors that a source can name end below 0x9020. -/
theorem msixPba_lt (off : Nat) : Off.msixPba (s.fld off 7 0) < 0x9020 := by
  have : s.fld off 7 0 < 256 := Nat.mod_lt _ (by decide)
  unfold Off.msixPba
  omega

/-- An event of an interrupt source leaves the registers above the pending bits. -/
theorem reg_raiseIrq_above (h : 0x9020 ≤ o) : (s.raiseIrq n).reg o = s.reg o := by
  have stat : o ≠ Off.irqStat := by unfold Off.irqStat; omega
  simp only [raiseIrq]
  split
  · rfl
  · split
    · rw [reg_sendVector_other _ _ (Nat.ne_of_gt (Nat.lt_of_lt_of_le (s.msixPba_lt _) h)), reg_setFld_other _ _ stat]
    · exact reg_setFld_other _ _ stat

theorem fld_raiseIrq_above (h : 0x9020 ≤ o) (hi lo : Nat) : (s.raiseIrq n).fld o hi lo = s.fld o hi lo := by
  rw [fld, fld, reg_raiseIrq_above _ _ h]

/-- After its event an interrupt source's bit is 1, whether it was so before or is set by it. -/
theorem fld_raiseIrq_same (h : n < 32) : (s.raiseIrq n).fld Off.irqStat n n = 1 := by
  have written : (s.setFld Off.irqStat n n 1).fld Off.irqStat n n = 1 :=
    (fld_setFld_same _ _ h).trans (Nat.mod_eq_of_lt (Nat.one_lt_two_pow (by omega)))
  simp only [raiseIrq]
  split
  case isTrue stood => exact beq_iff_eq.mp stood
  · split
    · rw [fld, reg_sendVector_other _ _ (by unfold Off.irqStat Off.msixPba; omega)]
      exact written
    · exact written

/-! ### What changes registers and the host's port alone -/

section Frame

variable (r : SMap Word32) (h : HostPort)

theorem setFld_frame (off hi lo : Nat) : { s.setFld off hi lo v with regs := r, host := h } = { s with regs := r, host := h } := rfl

theorem setWords_frame (off w0 w1 w2 w3 : Nat) :
    { s.setWords off w0 w1 w2 w3 with regs := r, host := h } = { s with regs := r, host := h } := rfl

theorem sendVector_frame : { s.sendVector v with regs := r, host := h } = { s with regs := r, host := h } := by
  unfold sendVector
  split
  · rfl
  · split <;> rfl

theorem raiseIrq_frame : { s.raiseIrq n with regs := r, host := h } = { s with regs := r, host := h } := by
  simp only [raiseIrq]
  split
  · rfl
  · split
    · rw [sendVector_frame, setFld_frame]
    · rw [setFld_frame]

end Frame

/-! ### The ring of records -/

/-- The records that the host has not acknowledged (R328). -/
def unacknowledged : Nat := (s.fld Off.errTail 7 0 + 256 - s.fld Off.errHead 7 0) % 256

section Record

variable (src code sev : Nat) (cx eg : Option Nat) (info aux : Nat)

/-- The fields of a record's first word lie side by side in its 64 bits (Table 13-6). -/
theorem recordWord0_lt (seq : Nat) : recordWord0 src code sev cx eg seq < 2 ^ 64 := by
  unfold recordWord0
  split <;> omega

/-- An error record takes the next sequence number, and changes beside it registers and the host's port alone. -/
theorem appendRecord_frame (r : SMap Word32) (h : HostPort) : { s.appendRecord src code sev cx eg info aux with regs := r, host := h } =
    { s with errSeq := (s.errSeq + 1) % 2 ^ 32, regs := r, host := h } := by
  rw [appendRecord]
  split
  · rw [raiseIrq_frame, count, setFld_frame]
  · rw [raiseIrq_frame]
    split
    · rw [setFld_frame, setFld_frame, setWords_frame]
    · rw [setFld_frame, setWords_frame, setFld_frame, setFld_frame, setWords_frame]

/-- An error record raises source 4 last. -/
theorem appendRecord_raises : ∃ u : State, s.appendRecord src code sev cx eg info aux = u.raiseIrq 4 := by
  rw [appendRecord]
  split <;> exact ⟨_, rfl⟩

/-- With 64 records unacknowledged an error record is counted as lost. -/
theorem appendRecord_lost (full : 64 ≤ s.unacknowledged) : s.appendRecord src code sev cx eg info aux =
    (({ s with errSeq := (s.errSeq + 1) % 2 ^ 32 } : State).count Off.errOvf 31 0 1).raiseIrq 4 := by
  rw [unacknowledged] at full
  rw [appendRecord, if_pos full]

/-- The state with an error record's four words in the slot that ERR_TAIL names (R328). -/
def recordInSlot : State :=
  s.setWords (Off.errRec (s.fld Off.errTail 7 0 % 64) 0) (recordWord0 src code sev cx eg s.errSeq) info aux s.us

section Room

variable (room : s.unacknowledged < 64)

include room

/-- With fewer than 64 records unacknowledged an error record has its words in the slot that ERR_TAIL names, and moves ERR_TAIL by one. What else it
writes is HUB_IRQSTAT, a pending bit, ERR_STATUS and ERR_FIRST. -/
theorem reg_appendRecord_room (pending : 0x9020 ≤ o) (status : o ≠ Off.errStatus) (first : o < Off.errFirst 0 ∨ Off.errFirst 0 + 32 ≤ o) :
    (s.appendRecord src code sev cx eg info aux).reg o =
      ((s.recordInSlot src code sev cx eg info aux).setFld Off.errTail 7 0 (s.fld Off.errTail 7 0 + 1)).reg o := by
  rw [unacknowledged] at room
  rw [appendRecord, if_neg (Nat.not_le.mpr room), reg_raiseIrq_above _ _ pending]
  split
  · rw [reg_setFld_other _ _ status]
    rfl
  · rw [reg_setFld_other _ _ status, reg_setWords_other _ _ _ _ _ first, reg_setFld_other _ _ status]
    rfl

theorem errTail_appendRecord_room :
    (s.appendRecord src code sev cx eg info aux).fld Off.errTail 7 0 = (s.fld Off.errTail 7 0 + 1) % 256 := by
  rw [fld, s.reg_appendRecord_room src code sev cx eg info aux room (by decide) (by decide) (.inl (by decide))]
  exact fld_setFld_same _ _ (by decide)

theorem errRec_appendRecord_room (i w : Nat) : (s.appendRecord src code sev cx eg info aux).reg64 (Off.errRec i w) =
    (s.recordInSlot src code sev cx eg info aux).reg64 (Off.errRec i w) := by
  have slot : ∀ o, 0x201000 ≤ o →
      (s.appendRecord src code sev cx eg info aux).reg o = (s.recordInSlot src code sev cx eg info aux).reg o := by
    intro o above
    rw [s.reg_appendRecord_room src code sev cx eg info aux room (by omega) (by unfold Off.errStatus; omega) (by unfold Off.errFirst; omega),
      reg_setFld_other _ _ (by unfold Off.errTail; omega)]
  rw [reg64, reg64, slot _ (by unfold Off.errRec; omega), slot _ (by unfold Off.errRec; omega)]

end Room

end Record
end State

/-! ### ERR_HEAD -/

section Head

variable {v : Word32} {s : State}

theorem exec_errHeadWrite_taken (hw : s.writable Off.errHead = true) (hv : (s.fld Off.errTail 7 0 + 256 - v.toNat % 256) % 256 ≤ 64) :
    exec (.errHeadWrite v) s = .next ((s.setFld Off.errHead 7 0 v.toNat).setFld Off.errStatus 6 0
      ((s.fld Off.errTail 7 0 + 256 - v.toNat % 256) % 256)) := by
  simp [exec, execErrHeadWrite, writeErrHead, hw, Nat.not_lt.mpr hv]

theorem exec_errHeadWrite_ignored (hv : 64 < (s.fld Off.errTail 7 0 + 256 - v.toNat % 256) % 256) :
    exec (.errHeadWrite v) s = .next s := by
  simp [exec, execErrHeadWrite, writeErrHead, hv]

end Head

/-- Settles O37: the two outcomes of a write of ERR_HEAD, then what every error record does, one that stands in the ring and one that is lost. -/
theorem errorRecordRing : Obligations.ErrorRecordRing := by
  refine ⟨fun v s hw => ⟨exec_errHeadWrite_taken hw, exec_errHeadWrite_ignored⟩, ?_⟩
  intro src code sev info aux cx eg s
  have frame := s.appendRecord_frame src code sev cx eg info aux s.regs s.host
  refine ⟨(congrArg State.errSeq frame :), (congrArg State.mem frame :), (congrArg State.engines frame :), ?raised, fun room => ?stands,
    fun full => ?lost⟩
  case raised =>
    obtain ⟨u, raised⟩ := s.appendRecord_raises src code sev cx eg info aux
    rw [raised]
    exact u.fld_raiseIrq_same 4 (by decide)
  case stands =>
    have slot := s.errRec_appendRecord_room src code sev cx eg info aux room (s.fld Off.errTail 7 0 % 64)
    obtain ⟨word0, word1, word2, word3⟩ := s.reg64_setWords (State.recordWord0 src code sev cx eg s.errSeq) info aux s.us
      (Off.errRec (s.fld Off.errTail 7 0 % 64) 0)
    rw [Nat.mod_eq_of_lt (State.recordWord0_lt ..)] at word0
    exact ⟨s.errTail_appendRecord_room src code sev cx eg info aux room,
      (slot 0).trans word0, (slot 1).trans word1, (slot 2).trans word2, (slot 3).trans word3⟩
  case lost =>
    rw [s.appendRecord_lost src code sev cx eg info aux full]
    refine ⟨?tail, ?counted⟩
    case tail =>
      rw [State.fld_raiseIrq_above _ _ (by decide), State.fld, State.count, State.reg_setFld_other _ _ (by decide)]
      rfl
    case counted =>
      rw [State.reg_raiseIrq_above _ _ (by decide), State.reg_count_whole]
      rfl

end Sys2Proof.Machine
end
